-- ==== Sys2Proof/Word.lean ====
section
/-! DEFINITION. The word types of the SW9 and their plainest names (R3, R93, R107). -/
namespace Sys2Proof

/-- One byte of any store. -/
abbrev Byte := BitVec 8
/-- A 32-bit register (R93). -/
abbrev Word := BitVec 32
/-- A 64-bit pair, address or system register (R110). -/
abbrev DWord := BitVec 64
/-- An instruction word (R107). -/
abbrev IWord := BitVec 128
/-- A set of lanes of one group: bit l stands for lane l (R82). -/
abbrev Mask := BitVec 32

/-- The 32 lane numbers in ascending order (R48). -/
def allLanes : List Nat := List.range 32

end Sys2Proof
end

