-- ==== Sys2Proof/Syntax.lean ====
section
/-! DEFINITION. The syntax of the SW9: the operand codes, the modifier codes and the seven formats of an
instruction word (R107 to R121), the operands of the device and host events, and `Instr`, with one
constructor for each row of spec/opcode_table.json. -/
namespace Sys2Proof

/-- Next-address selector (R107, R76). -/
inductive Nx where
  | seq | stop | link | quit
  deriving DecidableEq, Repr

/-- Operand codes (R109). Codes 76 to 79 and 88 to 126 are reserved. -/
inductive Opnd where
  | x (n : Fin 64)
  | p (n : Fin 8)
  | q (n : Fin 4)
  | rsvA (n : Fin 4)
  | a (n : Fin 8)
  | rsvB (n : Fin 39)
  | imm
  deriving DecidableEq, Repr

/-- Type codes (R111); 0xB to 0xF are reserved. -/
inductive Ty where
  | none | s32 | n32 | s64 | n64 | f32 | bf16 | f16 | e4m3 | e5m2 | q4
  | rB | rC | rD | rE | rF
  deriving DecidableEq, Repr

/-- Conditions (R112). -/
inductive Cond where
  | eq | ne | lt | le | gt | ge | un | or
  deriving DecidableEq, Repr

/-- Ordering codes (R113). -/
inductive Ord2 where
  | none | acq | rel | rsv
  deriving DecidableEq, Repr

/-- Scopes (R113, R50); codes 6 and 7 are reserved. -/
inductive Scope where
  | ln | grp | team | clu | dev | sys | rsv6 | rsv7
  deriving DecidableEq, Repr

/-- Rounding codes (R113, R168); codes 5 to 7 are reserved. -/
inductive Rnd where
  | rne | rz | rp | rm | rs | rsv5 | rsv6 | rsv7
  deriving DecidableEq, Repr

/-- MOD of format A (R115). -/
structure ModA where
  tya : Ty
  tyb : Ty
  opx : BitVec 4
  rnd : Rnd
  deriving DecidableEq, Repr

/-- MOD of format I (R116). -/
structure ModI where
  ty : Ty
  opx : BitVec 4
  rsv : BitVec 7
  deriving DecidableEq, Repr

/-- MOD of format M (R117). -/
structure ModM where
  ty : Ty
  ord : Ord2
  scope : Scope
  aop : BitVec 3
  cnt : BitVec 2
  pair : Bool
  deriving DecidableEq, Repr

/-- MOD of format G (R118). -/
structure ModG where
  ty : Ty
  opx : BitVec 4
  chk : Bool
  slot : Fin 8
  scope : Scope
  deriving DecidableEq, Repr

/-- MOD of format T (R119). -/
structure ModT where
  tya : Ty
  tyb : Ty
  prov : Bool
  rnd : Rnd
  rsv : BitVec 3
  deriving DecidableEq, Repr

/-- MOD of format C (R120). -/
structure ModC where
  slot : Fin 8
  bcnt : Bool
  sub : BitVec 4
  rsv : BitVec 7
  deriving DecidableEq, Repr

/-- MOD of format S (R121). -/
structure ModS where
  sub : BitVec 4
  ord : Ord2
  scope : Scope
  rsv : BitVec 6
  deriving DecidableEq, Repr

/-- An instruction word less its opcode (R107), with the MOD field of its format. -/
structure IW (M : Type) where
  nx : Nx
  u : Bool
  s : Bool
  la : Bool
  lb : Bool
  lc : Bool
  psns : Bool
  pidx : Fin 8
  dst : Opnd
  sa : Opnd
  sb : Opnd
  sc : Opnd
  mod : M
  imm : DWord
  deriving DecidableEq, Repr

/-- Names one resident group: ((cluster × 192 + core) × 8 + track) × 16 + slot (R11). -/
abbrev GKey := Nat
/-- Names a floe: cluster × 48 + quad (R11). -/
abbrev FKey := Nat
/-- Names a core: cluster × 192 + core (R11). -/
abbrev CKey := Nat
/-- Tag of a resident batch (R264). -/
abbrev BTag := Nat

/-- Kinds of access that may fault in translation (R232). -/
inductive AccKind where
  | load | store | atomic | gath | scat
  deriving DecidableEq, Repr

/-- The storage that an error meets (R439 UNIT). -/
inductive ErrUnit where
  | stack | msc | spad | regs | acc | whey | code | tlb | link | rowact
  deriving DecidableEq, Repr

/-- How a detected error is classed (R438). -/
inductive ErrKind where
  | corrected | tlbParity | cleanCacheLine | scrubPoison | delivered | ownedStore | codeLine | unowned
  deriving DecidableEq, Repr

/-- One detected error: where it stands and whom it concerns (R438 to R440). -/
structure MemErr where
  unit : ErrUnit
  kind : ErrKind
  ctx : Option Nat
  die : Nat
  clu : Nat
  core : Nat
  trk : Nat
  bank : Nat
  floe : Nat
  stack : Nat
  chan : Nat
  bg : Nat
  hbk : Nat
  row : Nat
  col : Nat
  port : Nat
  paddr : Nat
  deriving DecidableEq, Repr

/-- What the coordinates of a bank name (R427, after the xor). -/
structure BankId where
  stack : Nat
  chan : Nat
  bg : Nat
  bank : Nat
  deriving DecidableEq, Repr

/-- A host access through the aperture (R482). -/
inductive HostAcc where
  | read (offset len : Nat)
  | write (offset : Nat) (bytes : List Byte)
  | atomic (offset : Nat)
  deriving DecidableEq, Repr

/-- Which unit an in-field test takes (R507). -/
inductive TestUnit where
  | core (c : CKey)
  | quad (f : FKey)
  | stack (n : Nat)
  deriving DecidableEq, Repr

/-- Reset causes (R485, R508). -/
inductive ResetCause where
  | conventional | hot | linkDown | flr | thermal
  deriving DecidableEq, Repr

/-- Every row of the operation and event table: the steps of the SW9, each whole and indivisible. -/
inductive Instr where
  /-- GRD (R134): Removes acting lanes whose predicate fails and queues them at the alternative. -/
  | grd (w : IW ModI)
  /-- GRDC (R134): Removes acting lanes whose integer comparison fails. -/
  | grdc (w : IW ModI)
  /-- GRDU (R134): Guard that must pass or fail uniformly, else Uniformity. -/
  | grdu (w : IW ModI)
  /-- EXMR (R136): Writes the current execution mask. -/
  | exmr (w : IW ModA)
  /-- EXMN (R134): Removes lanes whose bit in a uniform mask is set. -/
  | exmn (w : IW ModI)
  /-- SUCC (R137): Writes a trace index, optionally plus a register. -/
  | succ (w : IW ModI)
  /-- TRAP (R139): Raises the Software trap in each acting lane. -/
  | trap (w : IW ModS)
  /-- BKPT (R139): Raises Breakpoint or stops the path per BKACT. -/
  | bkpt (w : IW ModS)
  /-- YLD (R140): Takes the group out of its track's round-robin for a while. -/
  | yld (w : IW ModS)
  /-- NOP (R140): Does nothing. -/
  | nop (w : IW ModS)
  /-- ADD (R142): Integer add, wrapping or saturating. -/
  | add (w : IW ModA)
  /-- ADDC (R142): Unsigned add with carry predicate. -/
  | addc (w : IW ModA)
  /-- SUB (R142): Integer subtract, wrapping or saturating. -/
  | sub (w : IW ModA)
  /-- SUBB (R142): Unsigned subtract with borrow predicate. -/
  | subb (w : IW ModA)
  /-- NEG (R142): Signed negate. -/
  | neg (w : IW ModA)
  /-- ABS (R142): Signed absolute value. -/
  | abs (w : IW ModA)
  /-- MUL (R142): Integer multiply, low 32 bits or saturated. -/
  | mul (w : IW ModA)
  /-- MULH (R142): High 32 bits of the product. -/
  | mulh (w : IW ModA)
  /-- MULW (R142): Full 64-bit product into a pair. -/
  | mulw (w : IW ModA)
  /-- MAD (R142): Multiply-add, wrapping or saturating. -/
  | mad (w : IW ModA)
  /-- MADW (R142): Wide multiply-add into a pair. -/
  | madw (w : IW ModA)
  /-- DIV (R142): Integer divide with fixed results for zero and overflow; deferred. -/
  | div (w : IW ModA)
  /-- REM (R142): Integer remainder; deferred. -/
  | rem (w : IW ModA)
  /-- MIN (R142): Integer minimum. -/
  | min (w : IW ModA)
  /-- MAX (R142): Integer maximum. -/
  | max (w : IW ModA)
  /-- AND (R144): Bitwise and. -/
  | and (w : IW ModA)
  /-- OR (R144): Bitwise or. -/
  | or (w : IW ModA)
  /-- XOR (R144): Bitwise exclusive or. -/
  | xor (w : IW ModA)
  /-- NOT (R144): Bitwise complement. -/
  | not (w : IW ModA)
  /-- ANDN (R144): And with complement. -/
  | andn (w : IW ModA)
  /-- SHL (R144): Shift left. -/
  | shl (w : IW ModA)
  /-- SHR (R144): Logical shift right. -/
  | shr (w : IW ModA)
  /-- SAR (R144): Arithmetic shift right. -/
  | sar (w : IW ModA)
  /-- ROL (R144): Rotate left. -/
  | rol (w : IW ModA)
  /-- CLZ (R144): Count leading zeros. -/
  | clz (w : IW ModA)
  /-- CTZ (R144): Count trailing zeros. -/
  | ctz (w : IW ModA)
  /-- POPC (R144): Population count. -/
  | popc (w : IW ModA)
  /-- BREV (R144): Bit reverse. -/
  | brev (w : IW ModA)
  /-- BFX (R144): Bit-field extract. -/
  | bfx (w : IW ModA)
  /-- BFI (R144): Bit-field insert. -/
  | bfi (w : IW ModA)
  /-- SXT (R144): Sign-extend from n bits. -/
  | sxt (w : IW ModA)
  /-- ZXT (R144): Zero-extend from n bits. -/
  | zxt (w : IW ModA)
  /-- SEL (R146): Selects one of two sources by a predicate. -/
  | sel (w : IW ModA)
  /-- CMP (R146): Integer compare into a predicate or register. -/
  | cmp (w : IW ModA)
  /-- CMPX (R146): Integer compare anded with a predicate. -/
  | cmpx (w : IW ModA)
  /-- LEA (R146): 64-bit base plus shifted index. -/
  | lea (w : IW ModA)
  /-- ADD64 (R146): 64-bit add on pairs. -/
  | add64 (w : IW ModA)
  /-- SUB64 (R146): 64-bit subtract on pairs. -/
  | sub64 (w : IW ModA)
  /-- MOV (R146): Register or pair move. -/
  | mov (w : IW ModA)
  /-- MOVI (R146): Moves a 32-bit immediate. -/
  | movi (w : IW ModA)
  /-- MOVW (R146): Moves a 64-bit immediate into a pair. -/
  | movw (w : IW ModA)
  /-- PAND (R147): Predicate and. -/
  | pand (w : IW ModA)
  /-- POR (R147): Predicate or. -/
  | por (w : IW ModA)
  /-- PXOR (R147): Predicate exclusive or. -/
  | pxor (w : IW ModA)
  /-- PNOT (R147): Predicate not. -/
  | pnot (w : IW ModA)
  /-- PMOV (R147): Predicate move or register test. -/
  | pmov (w : IW ModA)
  /-- LXCH (R149): Reads a register of a given lane. -/
  | lxch (w : IW ModG)
  /-- LXUP (R149): Reads a register of the lane b below. -/
  | lxup (w : IW ModG)
  /-- LXDN (R149): Reads a register of the lane b above. -/
  | lxdn (w : IW ModG)
  /-- LXBF (R149): Butterfly cross-lane read. -/
  | lxbf (w : IW ModG)
  /-- VOTE (R150): All, any, uniform or mask vote over participants. -/
  | vote (w : IW ModG)
  /-- LRED (R151): Reduction over participants in lane order. -/
  | lred (w : IW ModG)
  /-- LSCN (R151): Inclusive or exclusive scan in lane order. -/
  | lscn (w : IW ModG)
  /-- LCNT (R152): Counts participants, or lower participants, with a true operand. -/
  | lcnt (w : IW ModG)
  /-- FADD (R184): FP32 add, rounded once. -/
  | fadd (w : IW ModA)
  /-- FSUB (R184): FP32 subtract. -/
  | fsub (w : IW ModA)
  /-- FMUL (R184): FP32 multiply. -/
  | fmul (w : IW ModA)
  /-- FFMA (R184): FP32 fused multiply-add. -/
  | ffma (w : IW ModA)
  /-- FMIN (R185): FP32 minimum ignoring a single NaN. -/
  | fmin (w : IW ModA)
  /-- FMAX (R185): FP32 maximum ignoring a single NaN. -/
  | fmax (w : IW ModA)
  /-- FABS (R185): FP32 absolute value. -/
  | fabs (w : IW ModA)
  /-- FNEG (R185): FP32 negate. -/
  | fneg (w : IW ModA)
  /-- FCMP (R186): FP32 compare. -/
  | fcmp (w : IW ModA)
  /-- FCLS (R187): FP32 classification. -/
  | fcls (w : IW ModA)
  /-- FRND (R188): Rounds to an integral FP32 value. -/
  | frnd (w : IW ModA)
  /-- FDIV (R190): Correctly rounded divide; deferred. -/
  | fdiv (w : IW ModA)
  /-- FSQRT (R190): Correctly rounded square root; deferred. -/
  | fsqrt (w : IW ModA)
  /-- FRCP (R190): Correctly rounded reciprocal; deferred. -/
  | frcp (w : IW ModA)
  /-- FRSQ (R190): Correctly rounded reciprocal square root; deferred. -/
  | frsq (w : IW ModA)
  /-- FEX2 (R191): Base-2 exponential within 1 ulp; deferred. -/
  | fex2 (w : IW ModA)
  /-- FLG2 (R191): Base-2 logarithm; deferred. -/
  | flg2 (w : IW ModA)
  /-- FSIN (R191): Sine; deferred. -/
  | fsin (w : IW ModA)
  /-- FCOS (R191): Cosine; deferred. -/
  | fcos (w : IW ModA)
  /-- FSIG (R191): Logistic sigmoid; deferred. -/
  | fsig (w : IW ModA)
  /-- FTNH (R191): Hyperbolic tangent; deferred. -/
  | ftnh (w : IW ModA)
  /-- HADD2 (R193): Packed 16-bit add. -/
  | hadd2 (w : IW ModA)
  /-- HMUL2 (R193): Packed 16-bit multiply. -/
  | hmul2 (w : IW ModA)
  /-- HFMA2 (R193): Packed 16-bit fused multiply-add. -/
  | hfma2 (w : IW ModA)
  /-- HMIN2 (R193): Packed 16-bit minimum. -/
  | hmin2 (w : IW ModA)
  /-- HMAX2 (R193): Packed 16-bit maximum. -/
  | hmax2 (w : IW ModA)
  /-- CVTF (R194): Converts between floating-point formats. -/
  | cvtf (w : IW ModA)
  /-- CVTI (R195): Converts between floats and 32-bit integers. -/
  | cvti (w : IW ModA)
  /-- CVTN (R196): Converts to and from INT8. -/
  | cvtn (w : IW ModA)
  /-- CVTQ (R199): Packs 32 lanes into a four-bit block with a scale. -/
  | cvtq (w : IW ModG)
  /-- CVTE (R200): Unpacks a four-bit block into 32 lanes. -/
  | cvte (w : IW ModG)
  /-- LD (R208): Global load bound at issue. -/
  | ld (w : IW ModM)
  /-- LDNC (R210): Global load that allocates in no cache. -/
  | ldnc (w : IW ModM)
  /-- ST (R209): Global store buffered to commit. -/
  | st (w : IW ModM)
  /-- LDS (R212): Scratchpad load that waits on the full bit. -/
  | lds (w : IW ModM)
  /-- LDSN (R212): Scratchpad load that does not wait. -/
  | ldsn (w : IW ModM)
  /-- STS (R212): Scratchpad store to a single-plane region. -/
  | sts (w : IW ModM)
  /-- STN (R212): Next-plane store to a dual region. -/
  | stn (w : IW ModM)
  /-- ATM (R214): Global atomic read-modify-write performed at commit. -/
  | atm (w : IW ModM)
  /-- CAS (R214): Global compare-and-swap. -/
  | cas (w : IW ModM)
  /-- ATMS (R214): Scratchpad atomic. -/
  | atms (w : IW ModM)
  /-- CASS (R214): Scratchpad compare-and-swap. -/
  | cass (w : IW ModM)
  /-- FNC (R217): Fence at a scope, full, acquire or release. -/
  | fnc (w : IW ModS)
  /-- SEAL (R219): Seals a global range for reading. -/
  | seal (w : IW ModM)
  /-- UNSL (R220): Unseals a sealed range. -/
  | unsl (w : IW ModM)
  /-- PRF (R222): Prefetches a translation and line. -/
  | prf (w : IW ModM)
  /-- GATH (R225): Gathers one element per lane into a scoreboarded register. -/
  | gath (w : IW ModG)
  /-- SCAT (R226): Scatters one element per lane after commit. -/
  | scat (w : IW ModG)
  /-- RGN (R263): Configures a region-table entry after commit. -/
  | rgn (w : IW ModS)
  /-- STEP (R267): Waits for the team step that settles and flips its dual regions. -/
  | step (w : IW ModS)
  /-- STEPQ (R269): Reads a team's step count, arrivals or live count. -/
  | stepq (w : IW ModS)
  /-- FSET (R256): Sets a line full with a cluster release at commit. -/
  | fset (w : IW ModM)
  /-- FCLR (R256): Sets a line empty at commit. -/
  | fclr (w : IW ModM)
  /-- FTST (R256): Reads a line's full bit. -/
  | ftst (w : IW ModM)
  /-- BARI (R272): Initialises a barrier object at commit. -/
  | bari (w : IW ModS)
  /-- BARA (R273): Arrives at a barrier and receives its phase token. -/
  | bara (w : IW ModS)
  /-- BARW (R274): Waits for a barrier phase change, optionally arriving. -/
  | barw (w : IW ModS)
  /-- BARX (R275): Adds expected bytes to a barrier's pending count. -/
  | barx (w : IW ModS)
  /-- BARQ (R276): Reads a barrier field. -/
  | barq (w : IW ModS)
  /-- TEAM (R265): Changes which team a group's slot names. -/
  | team (w : IW ModS)
  /-- CPL (R303): Per-lane copy from global memory to scratchpad. -/
  | cpl (w : IW ModC)
  /-- CPLG (R303): Per-lane copy from scratchpad to global memory. -/
  | cplg (w : IW ModC)
  /-- CPT (R307): Tile copy from global storage format to canonical scratchpad layout. -/
  | cpt (w : IW ModC)
  /-- CPO (R307): Tile copy from scratchpad to global storage format. -/
  | cpo (w : IW ModC)
  /-- CPX (R305): Copy into registers from scratchpad or global memory. -/
  | cpx (w : IW ModC)
  /-- SHOP (R312): Opens, opens clear or closes a shadow. -/
  | shop (w : IW ModC)
  /-- PUB (R313): Publishes a shadow's rime as the buffer's new version. -/
  | pub (w : IW ModC)
  /-- CPQ (R310): Queries copy-engine, shadow or rime-pool state. -/
  | cpq (w : IW ModC)
  /-- CPC (R308): Cancels the tile copy bound to a slot. -/
  | cpc (w : IW ModC)
  /-- CPBS (R309): Waits for a completion-bitmap slot to become unbound. -/
  | cpbs (w : IW ModC)
  /-- MPOST (R355): Posts a tile-task record to the quad's floe. -/
  | mpost (w : IW ModT)
  /-- MACQ (R350): Binds a free or handed-over accumulator tile to a handle. -/
  | macq (w : IW ModT)
  /-- MREL (R351): Releases a handle's tile. -/
  | mrel (w : IW ModT)
  /-- MZER (R356): Zeroes a tile. -/
  | mzer (w : IW ModT)
  /-- MLDA (R356): Loads a tile from scratchpad. -/
  | mlda (w : IW ModT)
  /-- MRD (R357): Reads one tile row into lanes. -/
  | mrd (w : IW ModT)
  /-- MSTA (R356): Stores a tile to scratchpad and sets its lines full. -/
  | msta (w : IW ModT)
  /-- MPUB (R352): Hands a tile to another group of the batch. -/
  | mpub (w : IW ModT)
  /-- MSETL (R363): Waits until a tile's writers complete and it is settled. -/
  | msetl (w : IW ModT)
  /-- TADD (R358): Adds two tiles. -/
  | tadd (w : IW ModT)
  /-- TSCL (R358): Scales a tile. -/
  | tscl (w : IW ModT)
  /-- TAXPY (R358): Scaled tile plus tile with one rounding. -/
  | taxpy (w : IW ModT)
  /-- TMAP (R360): Applies an elementwise function and writes to scratchpad. -/
  | tmap (w : IW ModT)
  /-- TMUL (R361): Elementwise tile product written to scratchpad. -/
  | tmul (w : IW ModT)
  /-- TCVT (R362): Converts a tile to a narrow format in scratchpad. -/
  | tcvt (w : IW ModT)
  /-- TSTAT (R364): Drains the floe's statistics counts. -/
  | tstat (w : IW ModT)
  /-- MQUI (R365): Samples the floe's occupancy and quiescence. -/
  | mqui (w : IW ModT)
  /-- MTOK (R366): Reads a token word and its line's full bit. -/
  | mtok (w : IW ModT)
  /-- FWK (R406): Withdraws records of an unplaced node into a response area. -/
  | fwk (w : IW ModS)
  /-- EMIT (R405): Sends one record per lane to a node's bin. -/
  | emit (w : IW ModS)
  /-- SGNL (R407): Decrements a completion signal with a release. -/
  | sgnl (w : IW ModS)
  /-- PRIO (R408): Sets the batch's eviction rank. -/
  | prio (w : IW ModS)
  /-- RTKT (R412): Takes a ring ticket or byte position. -/
  | rtkt (w : IW ModS)
  /-- RPUT (R413): Marks a ring record full. -/
  | rput (w : IW ModS)
  /-- QBND (R415): Binds or unbinds a stream register to a ring. -/
  | qbnd (w : IW ModS)
  /-- RSKP (R413): Marks a ring pad as skip. -/
  | rskp (w : IW ModS)
  /-- GOVH (R416): Configures, pins, unpins or stops the governor. -/
  | govh (w : IW ModS)
  /-- RDSR (R154): Reads a special register. -/
  | rdsr (w : IW ModS)
  /-- WRSR (R155): Writes a completion-bitmap register at commit. -/
  | wrsr (w : IW ModS)
  /-- TIME (R156): Reads the device time base. -/
  | time (w : IW ModS)
  /-- PERF (R157): Reads a group counter. -/
  | perf (w : IW ModS)
  /-- FUSR (R498): Reads a fuse word. -/
  | fusr (w : IW ModS)
  /-- CRYP_HASH (R499): Computes SHA-512 of a message. -/
  | crypHash (w : IW ModS)
  /-- CRYP_VRFY (R499): Verifies an RSASSA-PSS signature. -/
  | crypVrfy (w : IW ModS)
  /-- CRYP_SIGN (R499): Signs with the attestation key. -/
  | crypSign (w : IW ModS)
  /-- CRYP_VTOK (R500): Verifies a debug token and sets VTOK. -/
  | crypVtok (w : IW ModS)
  /-- WIPE (R501): Zeroes the stores its mask selects. -/
  | wipe (w : IW ModS)
  /-- MEXT (R502): Extends a measurement register. -/
  | mext (w : IW ModS)
  /-- LCST (R503): Moves the life-cycle state, blowing fuses and wiping. -/
  | lcst (w : IW ModS)
  /-- DBGO (R504): Opens debug ports in Debug-Open. -/
  | dbgo (w : IW ModS)
  /-- TRACE_ENTRY (R80): A group's turn comes with no running path; the scheduler picks the ready entry with the smallest trace index, checks the trace-table entry and words (R75, R126), reserves registers and enters the trace. -/
  | traceEntry (g : GKey)
  /-- TRACE_FETCH_COMPLETE (R79): The code and trace-table entry a path waits for in fetch-wait arrive and the path can enter. -/
  | traceFetchComplete (g : GKey) (path : Nat)
  /-- REGISTER_BUDGET_GRANT (R83): A path in budget-wait is granted its REGS group-registers in order of waiting once the track has them free. -/
  | registerBudgetGrant (g : GKey) (path : Nat)
  /-- TRACE_COMMIT (R86): At trace end the core checks link stacks, LINK uniformity and seals, commits the surviving lanes, discards the rest, inserts lanes at their successors and starts any synchronising effect. -/
  | traceCommit (g : GKey)
  /-- RESULT_ARRIVAL (R100): A deferred or scoreboarded result (load, atomic return, function unit, query) arrives and its register stops being pending. -/
  | resultArrival (g : GKey) (lane reg : Nat)
  /-- LDS_WAKE (R208): A line an LDS stalls on becomes full and the stalled load reads. -/
  | ldsWake (g : GKey)
  /-- YLD_TIMEOUT (R140): 64 core cycles after a YLD, the group returns to its track's round-robin. -/
  | yldTimeout (g : GKey)
  /-- EFFECT_PERFORMED (R53): A committed store, atomic or other effect reaches its bank or stack and is performed. -/
  | effectPerformed (i : Nat)
  /-- STN_TERM_LAND (R282): A committed next-plane store lands at its bank and updates the element's term state or sum. -/
  | stnTermLand (i : Nat)
  /-- PAGE_WALK_COMPLETE (R432): A page walk finishes with a translation or a fault for the waiting access. -/
  | pageWalkComplete (i : Nat)
  /-- HALT_SKID_EXPIRY (R240): 2,048 core cycles after a trap, a group not yet at commit has its trace discarded and stops. -/
  | haltSkidExpiry (b : BTag)
  /-- TRAP_RECORD_WRITE (R238): A trap record and its slot are written once a free slot of the trap area exists. -/
  | trapRecordWrite (b : BTag)
  /-- HALT_COMPLETE (R242): When every group has stopped and every record is written, one handler batch per record is launched from the trap node. -/
  | haltComplete (b : BTag)
  /-- HALT_RESUME (R245): When every handler batch of a halt has ended, the responses are applied and the halted batch resumes. -/
  | haltResume (b : BTag)
  /-- STEP_COMPLETE (R267): When all members have arrived and their terms have landed, the team's dual regions settle, flip planes, reset and release the waiters. -/
  | stepComplete (t : Nat)
  /-- COPY_LINE_LAND (R307): A copy line or row lands at its destination, setting full bits, bitmap bits and barrier decrements. -/
  | copyLineLand (job row : Nat)
  /-- CPBS_ARRIVAL (R309): Once the named slot is no longer bound, CPBS writes its bitmap and acquires the slot's completions. -/
  | cpbsArrival (job : Nat)
  /-- PUB_COMPLETE (R313): After every accepted copy through the shadow has landed, the rime replaces the buffer's pages in one swap and the lanes become ready. -/
  | pubComplete (i : Nat)
  /-- SEAL_COMPLETE (R219): A committed SEAL performs pending writes to the range, marks the pages sealed in every TLB and returns its status. -/
  | sealComplete (i : Nat)
  /-- UNSEAL_COMPLETE (R220): A committed UNSL invalidates replicas, clears the sealed attribute and returns its status. -/
  | unsealComplete (i : Nat)
  /-- FENCE_COMPLETE (R217): A fence's lanes leave sync-wait once the ordering it promises holds in its scope. -/
  | fenceComplete (g : GKey) (path : Nat)
  /-- GATH_ELEMENT_ARRIVAL (R225): A gather element's value arrives, writes the lane's register and sets its bitmap bit. -/
  | gathElementArrival (g : GKey) (slot lane : Nat)
  /-- SCAT_ELEMENT_PERFORM (R226): A scatter element is performed in its scope and sets its bitmap bit. -/
  | scatElementPerform (i : Nat)
  /-- FLOE_PASS_GRANT (R339): With no pass in flight, the floe grants the next pass to the eligible entry of highest effective priority and smallest serial. -/
  | floePassGrant (f : FKey)
  /-- FLOE_PASS_COMPLETE (R324): A pass folds into its accumulator or whey, advances DONE and may publish, settle or complete the task. -/
  | floePassComplete (f : FKey)
  /-- FLOE_TILE_OP_PERFORM (R347): A queued tile operation is performed once earlier conflicting posts and operations have completed. -/
  | floeTileOpPerform (f : FKey) (i : Nat)
  /-- CHURN_START (R378): A closed lineage whose work has all folded begins its churn ahead of any grant. -/
  | churnStart (f : FKey) (root : Nat)
  /-- CHURN_STEP (R378): One correction pass or settle of one lineage entry completes; the last settles the lineage and writes its tokens. -/
  | churnStep (f : FKey)
  /-- STATS_COUNT_OVERFLOW (R179): A floe statistics count reaching 2^31 triggers an immediate drain. -/
  | statsCountOverflow (f : FKey) (tid : Nat)
  /-- STATS_DRAIN_DONE (R364): Every add of a statistics drain has been performed at device scope, completing any waiting TSTAT. -/
  | statsDrainDone (f : FKey)
  /-- FLOE_QUIESCENT (R342): After a quiesce request the floe stops granting and reaches its quiescent point. -/
  | floeQuiescent (f : FKey)
  /-- PKT_NOP (R389): A NOP packet completes when parsed. -/
  | pktNop (q : Nat)
  /-- PKT_DISPATCH (R399): A DISPATCH packet starts entering its n records into the node's bin. -/
  | pktDispatch (q : Nat)
  /-- DISPATCH_RECORD_ENTRY (R399): A DISPATCH record enters its bin once the bin has room. -/
  | dispatchRecordEntry (d : Nat)
  /-- DISPATCH_COMPLETE (R402): When none of a DISPATCH's records or descendant batches remains, its signal is decremented. -/
  | dispatchComplete (d : Nat)
  /-- PKT_SIGNAL (R389): A SIGNAL packet decrements the named signal by its amount. -/
  | pktSignal (q : Nat)
  /-- PKT_WAIT (R390): A WAIT packet holds its queue and reads the signal with acquire at system scope. -/
  | pktWait (q : Nat)
  /-- WAIT_SATISFIED (R392): A WAIT's signal meets its condition and the queue proceeds. -/
  | waitSatisfied (q : Nat)
  /-- PKT_HINVAL (R298): An HINVAL packet makes later handle issue checks see the rewritten entries. -/
  | pktHinval (q : Nat)
  /-- PKT_LOAD (R396): A LOAD packet checks and loads a graph package and writes its status. -/
  | pktLoad (q : Nat)
  /-- PKT_UNLOAD (R396): An UNLOAD packet unloads an idle package and writes its status. -/
  | pktUnload (q : Nat)
  /-- SIGNAL_DECREMENT (R392): The command processor atomically decrements a completion signal as a system release, sending its MSI-X vector on reaching zero. -/
  | signalDecrement (i : Nat)
  /-- BIN_TIMER_EXPIRY (R398): A bin's timer reaching T forms a batch of every record it holds. -/
  | binTimerExpiry (ctx node : Nat)
  /-- BATCH_PLACEMENT (R400): The distributor places a formed batch whole on one cluster, writes its mailbox and releases the records. -/
  | batchPlacement (clu core : Nat) (slots : List GKey)
  /-- BATCH_END (R403): After its last group has ended and all its copies, tasks, drains and responses are done, the batch frees its allocation and writes its end record. -/
  | batchEnd (b : BTag)
  /-- EMIT_RECORD_ENTRY (R405): An emitted record is read and entered into its bin once there is space. -/
  | emitRecordEntry (i : Nat)
  /-- FWK_RESPONSE (R406): The distributor withdraws up to k records of the node, writes them and the response, and sets the line full. -/
  | fwkResponse (i : Nat)
  /-- RTKT_GRANT (R412): A ring ticket's slot becomes free of retired records and the ticket's payload address is returned. -/
  | rtktGrant (i : Nat)
  /-- RING_POP_GRANT (R414): A stalled stream-register read is granted once enough full records lie below VIS. -/
  | ringPopGrant (g : GKey)
  /-- CHECKPOINT_PAGE_COPIED (R473): A held page is copied to the safe tier and released; the last completes the checkpoint record. -/
  | checkpointPageCopied (ctx page : Nat)
  /-- BUDGET_DEADLOCK_EVICTION (R83): When every resident group of a track is in budget-wait, the group that began waiting last is evicted and its registers saved. -/
  | budgetDeadlockEviction (trk : Nat)
  /-- TRACE_STALL (R88): A path running 2^24 resident core cycles without ending its trace raises Trace-Stall. -/
  | traceStall (g : GKey)
  /-- BANK_IDLE_CLOSE (R429): A bank idle for 128 ns closes its open row. -/
  | bankIdleClose (b : BankId)
  /-- STOP_SKID_EXPIRY (R455): 2,048 core cycles after a stop request, a running trace not yet at commit is discarded and its group stops. -/
  | stopSkidExpiry (clu : Nat)
  /-- CLUSTER_STOPPED (R455): When every group has stopped and every floe is quiescent, the stop table is written and STOPPED set. -/
  | clusterStopped (clu : Nat)
  /-- CHECKPOINT_TIMER_EXPIRY (R473): At the interval a checkpoint stops the context's queues, saves batches, marks written pages held and resumes. -/
  | checkpointTimerExpiry (ctx : Nat)
  /-- FAULT_RECORD_WRITE (R436): The command processor writes a fault record into the host fault ring once the ring has room. -/
  | faultRecordWrite
  /-- TLB_INVALIDATE_DONE (R435): Once every access through dropped entries is performed, the invalidation clears BUSY. -/
  | tlbInvalidateDone
  /-- QUEUE_QUANTUM_EXPIRY (R388): At each quantum the firmware refills the 32 resident queue slots by priority and age. -/
  | queueQuantumExpiry
  /-- GOVERNOR_TICK (R417): Every microsecond the governor may move one unpinned group from an idle stage to a backed-up one. -/
  | governorTick (b : BTag)
  /-- EVICTION (R420): Victim groups stop at trace boundaries and their registers, copies, floe state and scratchpad are saved. -/
  | eviction (victims : List GKey)
  /-- BATCH_RESUME (R423): A saved group or batch is restored on a core with room, its copies and floe state re-issued. -/
  | batchResume (ctx i : Nat) (clu core : Nat) (slots : List GKey)
  /-- CTX_UNBIND (R424): A CTXCMD unbind evicts all the context's batches and removes its queues. -/
  | ctxUnbind (ctx : Nat)
  /-- BANK_REQUEST_SERVICE (R429): A stack bank issues the next queued request, activating a row when it is not open. -/
  | bankRequestService (b : BankId)
  /-- RFM_COMMAND_DONE (R443): A refresh-management command releases the bank after 300 ns. -/
  | rfmCommandDone (b : BankId)
  /-- BACKOFF_EXPIRY (R443): A bank's back-off window ends and activations issue at normal pace. -/
  | backoffExpiry (b : BankId)
  /-- PREEMPTION_START (R419): A batch finding no room triggers the choice of lower-priority victim groups to evict. -/
  | preemptionStart (victims : List GKey)
  /-- FAULT_ANSWER_SERVICED (R233): A FANS write answering serviced drops the page's translation and makes the replay entry ready to re-run. -/
  | faultAnswerServiced (i : Nat)
  /-- FAULT_ANSWER_UNRESOLVABLE (R233): A FANS write answering unresolvable raises Translation for the entry's lanes and starts a batch halt. -/
  | faultAnswerUnresolvable (i : Nat)
  /-- FAULT_ANSWER_RETAINED (R233): A FANS write answering retained leaves the entry in replay. -/
  | faultAnswerRetained (i : Nat)
  /-- TLB_INVALIDATE_RANGE (R435): A TLBICTL GO with ALL clear drops the context's translations overlapping the range. -/
  | tlbInvalidateRange (ctx va len : Nat)
  /-- TLB_INVALIDATE_ALL (R435): A TLBICTL GO with ALL set drops every translation of the context. -/
  | tlbInvalidateAll (ctx : Nat)
  /-- QUEUE_DOORBELL (R387): A write to QDBq makes the command processor re-read the queue's WIDX. -/
  | queueDoorbell (q : Nat)
  /-- PERIODIC_REFRESH (R441): Periodic refresh refreshes a row and sets its activation counter to 0. -/
  | periodicRefresh (b : BankId) (row : Nat)
  /-- CTX_BIND (R481): A CTXCMD bind reads and checks the context descriptor and binds the context. -/
  | ctxBind (ctx : Nat)
  /-- ROW_COUNTER_CONFIG (R442): A write of a stack's activation configuration register sets RTH, BLAST, BOW and BOI, or is ignored whole if out of range. -/
  | rowCounterConfig (stack : Nat) (v : DWord)
  /-- MEMORY_ERROR (R438): A detected memory or storage error is corrected, poisoned, or fails a context or fences a unit, and is logged. -/
  | memoryError (e : MemErr)
  /-- PATROL_SCRUB (R438): Patrol scrub reads each burst once a day and writes back corrected data. -/
  | patrolScrub (paddr : Nat)
  /-- DEBUG_STOP_REQUEST (R455): A DCTL write with STCREQ requests stop-the-cluster for every group of the cluster. -/
  | debugStopRequest (clu : Nat)
  /-- DEBUG_RESUME (R456): A DCTL write with RESUME clears STOPPED and lifts holds of cause 4. -/
  | debugResume (clu : Nat)
  /-- DEBUG_CONTEXT_CHANGE (R449): A DCTL write changing CTXID or clearing EN releases held entries, ends steps and freezes, and resumes the cluster. -/
  | debugContextChange (clu : Nat) (v : DWord)
  /-- DCMD_HOLD (R459): HOLD holds the selected path at its next trace boundary. -/
  | dcmdHold (clu : Nat)
  /-- DCMD_RELEASE (R459): RELEASE lifts the selected path's hold. -/
  | dcmdRelease (clu : Nat) (skipb skipw : Bool)
  /-- DCMD_TSTEP (R458): TSTEP runs one trace of the selected held path and holds its lanes after it. -/
  | dcmdTstep (clu : Nat) (skipb skipw : Bool)
  /-- DCMD_ISTEP (R458): ISTEP issues one instruction of the selected held path and holds it mid-trace. -/
  | dcmdIstep (clu : Nat) (skipb skipw : Bool)
  /-- DCMD_RUN (R459): RUN ends step mode and lifts the group's step holds. -/
  | dcmdRun (clu : Nat)
  /-- DCMD_ABORT (R459): ABORT discards the trace of a mid-trace entry and leaves it held at its start. -/
  | dcmdAbort (clu : Nat)
  /-- DRDATA_WRITE (R460): A DRDATA write sets the committed value of the selected register of a held lane, or is refused. -/
  | drdataWrite (clu : Nat) (v : DWord)
  /-- MEMORY_SAMPLE (R468): Every 2^SMI-th memory instruction of a track is sampled and its record written when its accesses finish. -/
  | memorySample (i : Nat) (lat qsp qtlb qfab qmsc qbank src last : Nat)
  /-- GROUP_SAMPLE (R469): Every 2^GSI core cycles a core samples one group slot into the trace stream. -/
  | groupSample (c : CKey)
  /-- POWER_SAMPLE (R471): Every microsecond the I/O die samples rail currents and writes a power record. -/
  | powerSample (rails : List Nat)
  /-- CHECKPOINT_LOG_THRESHOLD (R472): The order-log buffer reaching three-quarters full starts a checkpoint early. -/
  | checkpointLogThreshold (ctx : Nat)
  /-- REPLAY_DIVERGENCE_TIMEOUT (R477): No logged event progresses for 100 ms, stopping the context with Replay-Diverged. -/
  | replayDivergenceTimeout (ctx : Nat)
  /-- HOST_APERTURE_ACCESS (R482): A host read or write through the aperture reaches device memory or completes with Unsupported Request. -/
  | hostApertureAccess (a : HostAcc)
  /-- REGISTER_WRITE (R479): A host write to a register-window register without its own row sets its fields or is ignored. -/
  | registerWrite (offset len : Nat) (v : DWord)
  /-- DEVICE_RESET (R485): A PCI Express reset, link-down or FLR resets the device, loses contexts and restores the fused life-cycle state. -/
  | deviceReset (why : ResetCause)
  /-- LINK_WINDOW_ARM (R488): An LWCMD arm validates a receive-window entry and arms it. -/
  | linkWindowArm (w : Nat)
  /-- LINK_WINDOW_CLOSE (R488): An LWCMD close disarms a window and closes its shadow. -/
  | linkWindowClose (w : Nat)
  /-- LINK_ROW_RECEIVE (R489): An incoming link row is refused or written into the window's rime and acknowledged. -/
  | linkRowReceive (port w offset : Nat) (bytes : List Byte)
  /-- PEER_ROW_ACK (R487): A peer acknowledges a copy row and its bitmap bit is set. -/
  | peerRowAck (job row : Nat)
  /-- PEER_ROW_REFUSED (R487): A peer refusal or port loss cancels the copy and reports it. -/
  | peerRowRefused (job : Nat) (portDown : Bool)
  /-- FLIT_CRC_FAIL (R486): A flit failing its CRC is replayed from the sender's buffer. -/
  | flitCrcFail (port : Nat)
  /-- LINK_RETRAIN (R486): After 8 consecutive failures a port retrains; three failed retrains in 1 s take it down. -/
  | linkRetrain (port : Nat) (ok : Bool) (margins : List Nat)
  /-- MAILBOX_DOORBELL_UNKNOWN (R493): A doorbell with an unlisted command code writes 0xFFFF_FFFE and sets DONE. -/
  | mailboxDoorbellUnknown
  /-- MGMT_COMMAND_DONE (R493): A command's firmware batch ends, the block is copied back and DONE is set. -/
  | mgmtCommandDone
  /-- CMD_LOGRD (R494): logrd returns up to 126 error records from the log. -/
  | cmdLogrd
  /-- CMD_CNTRD (R494): cntrd returns the predictive counters. -/
  | cmdCntrd
  /-- CMD_SENSE (R508): sense returns die temperatures and rail voltages. -/
  | cmdSense (temps volts : List Nat)
  /-- CMD_RECOV (R235): recov sets or clears recovery mode for a context. -/
  | cmdRecov
  /-- CMD_RELPARK (R235): relpark releases a parked entry to re-run or retire. -/
  | cmdRelpark
  /-- CMD_TSCHED (R507): tsched sets the in-field test period and classes. -/
  | cmdTsched
  /-- CMD_LNKRSV (R490): lnkrsv reserves link ports for checkpoint traffic while no context is bound. -/
  | cmdLnkrsv
  /-- CMD_CKCTL (R472): ckctl writes a context's checkpoint control, starting checkpoint 0 when enabled. -/
  | cmdCkctl
  /-- CMD_CHAL (R500): chal issues a fresh challenge and clears VTOK. -/
  | cmdChal
  /-- CMD_UNLOCK (R503): unlock verifies a TO 2 token, wipes keys, enters Debug-Open, opens ports and extends MEAS3. -/
  | cmdUnlock
  /-- CMD_RELOCK (R503): relock returns the device from Debug-Open to Secured. -/
  | cmdRelock
  /-- CMD_RTN (R503): rtn verifies a TO 3 token and moves the device to Return. -/
  | cmdRtn
  /-- CMD_QUOTE (R505): quote returns a signed report of identity, state and measurements. -/
  | cmdQuote
  /-- CMD_KEYLOAD (R496): keyload stores an encrypted tenant key into a slot. -/
  | cmdKeyload
  /-- CMD_UPDATE (R506): update writes a firmware image chunk into the inactive slot and verifies it. -/
  | cmdUpdate
  /-- IN_FIELD_TEST_PERIOD (R507): Each test period the management core takes units in turn for scan and array self-test. -/
  | inFieldTestPeriod (u : TestUnit)
  /-- IN_FIELD_TEST_DONE (R507): A unit's self-test completes and the unit resumes placement or is fenced. -/
  | inFieldTestDone (u : TestUnit) (passed : Bool)
  /-- THERMAL_LIMIT (R508): A die reaching 105 °C triggers power limiting and 115 °C resets the device. -/
  | thermalLimit (die quarterDegrees : Nat)
  /-- POWER_LIMIT (R18): Measured draw nearing 3,000 W lowers cluster clocks then inserts pass gaps. -/
  | powerLimit (watts : Nat)
  /-- CLOCK_FREQUENCY_CHANGE (R12): The management core changes a cluster's core clock between two core cycles. -/
  | clockFrequencyChange (clu hundredMHz : Nat)
  /-- SAFE_TIER_COPY_FAILURE (R474): A checkpoint's copy of held pages to the safe tier fails, so the checkpoint is not complete and the next one treats every page it held as written. -/
  | safeTierCopyFailure (ctx : Nat)
  /-- CHECKPOINT_RESTORE (R476): Image k is restored from the safe tier into the context's device memory through shadows and PUB over the reserved ports, before the context is bound for replay. -/
  | checkpointRestore (ctx k : Nat)
  /-- TEST_UNIT_STILL_BUSY (R507): A unit taken for in-field test still holds a resident batch 1 s after placement on it stopped, so its test is put off to the next period. -/
  | testUnitStillBusy (u : TestUnit)
  deriving DecidableEq, Repr

end Sys2Proof
end

