-- ==== Sys2Proof/Machine/Checks.lean ====
section
/-! DEFINITION. The checks of R125 on the fields of a word: which operand classes, type codes, MOD codes
and immediates each instruction's block accepts, and the cause of the first check that fails (R126). -/
namespace Sys2Proof.Checks
open Sys2Proof

/-- The three kinds of core that execute Choik words (R124). -/
inductive Profile where
  | trace | cp | mgmt
  deriving DecidableEq, Repr

/-- Cause codes of Undefined-Instruction (R126). -/
inductive Cause where
  | illegal | undefined | profile | reservedOperand | operandClass | modOrImm | pred | syncNx
  deriving DecidableEq, Repr

/-- The 8-bit CAUSE of R126. -/
def Cause.code : Cause → Nat
  | .illegal => 0 | .undefined => 1 | .profile => 2 | .reservedOperand => 3
  | .operandClass => 4 | .modOrImm => 5 | .pred => 6 | .syncNx => 7

/-- What an operand field accepts: an unused field holds 0 and its L bit is 0 (R110). -/
inductive Use where
  | unused
  | used (ok : Opnd → Bool)

def isX : Opnd → Bool | .x _ => true | _ => false
/-- X register k with k + n − 1 ≤ 63 (R110). -/
def isXs (n : Nat) : Opnd → Bool | .x k => decide (k.val + n ≤ 64) | _ => false
/-- An even–odd pair (R110). -/
def isPair : Opnd → Bool | .x k => k.val % 2 == 0 | _ => false
def isP : Opnd → Bool | .p _ => true | _ => false
/-- P6: p0 to p6 (R132). -/
def isP6 : Opnd → Bool | .p k => decide (k.val < 7) | _ => false
def isQ : Opnd → Bool | .q _ => true | _ => false
def isA : Opnd → Bool | .a _ => true | _ => false
def isI : Opnd → Bool | .imm => true | _ => false
def isRsv : Opnd → Bool | .rsvA _ => true | .rsvB _ => true | _ => false
def isZero : Opnd → Bool | .x k => k.val == 0 | _ => false

def uX : Use := .used isX
def uXs (n : Nat) : Use := .used (isXs n)
def uPair : Use := .used isPair
def uP : Use := .used isP
def uP6 : Use := .used isP6
def uA : Use := .used isA
def uXP : Use := .used fun o => isX o || isP o
def uXI : Use := .used fun o => isX o || isI o
def uXQI : Use := .used fun o => isX o || isQ o || isI o
def uPairI : Use := .used fun o => isPair o || isI o
def uI : Use := .used isI
def uIf (c : Bool) (u : Use) : Use := if c then u else .unused

/-- The field meets its use, its L bit included (R110): an L bit stands only at a used x register or p0 to p6. (DEDUCED, log 29.) -/
def Use.ok (u : Use) (o : Opnd) (l : Bool) : Bool :=
  match u with
  | .unused => isZero o && !l
  | .used f => f o && (!l || isX o || isP6 o)

/-- What an instruction's block accepts. -/
structure Block where
  dst : Use
  sa : Use
  sb : Use
  sc : Use
  modOk : Bool
  immOk : Bool
  sync : Bool := false

/-- A 32-bit integer immediate (R115): bits 63:32 are all 0 or all equal to bit 31. -/
def imm32 (v : DWord) : Bool :=
  v.extractLsb' 32 32 == 0#32 || (v.extractLsb' 32 32 == 0xFFFFFFFF#32 && v.getLsbD 31)

/-- Bits 63:n are 0. -/
def immBelow (n : Nat) (v : DWord) : Bool := decide (v.toNat < 2 ^ n)

def anyImm {M : Type} (w : IW M) : Bool := isI w.sa || isI w.sb || isI w.sc

/-- Format A immediate: `ok` where a source holds 127, else 0 (R115). -/
def immA {M : Type} (w : IW M) (ok : DWord → Bool) : Bool := if anyImm w then ok w.imm else w.imm == 0

def opxIn (m : ModA) (l : List Nat) : Bool := l.contains m.opx.toNat
def rnd4 (r : Rnd) : Bool := [Rnd.rne, .rz, .rp, .rm].contains r
def rndNe (r : Rnd) : Bool := r == .rne
def intTy (t : Ty) : Bool := t == .s32 || t == .n32
def intTy64 (t : Ty) : Bool := intTy t || t == .s64 || t == .n64
def is64 (t : Ty) : Bool := t == .s64 || t == .n64
def fpTy (t : Ty) : Bool := [Ty.f32, .bf16, .f16, .e4m3, .e5m2].contains t
def is8 (t : Ty) : Bool := t == .e4m3 || t == .e5m2
def is16 (t : Ty) : Bool := t == .bf16 || t == .f16

/-- A 32-bit integer instruction of R141, R143 and R145. -/
def intBlk (w : IW ModA) (tys : Ty → Bool) (opx : List Nat) (dst sb sc : Use) : Block :=
  { dst := dst, sa := uXQI, sb := sb, sc := sc
    modOk := tys w.mod.tya && w.mod.tyb == .none && opxIn w.mod opx && rndNe w.mod.rnd
    immOk := immA w imm32 }

/-- R141 and R143: X ← X Q I, X I. -/
def int2 (w : IW ModA) (tys : Ty → Bool) (opx : List Nat := [0]) : Block := intBlk w tys opx uX uXI .unused
def int1 (w : IW ModA) (tys : Ty → Bool) (opx : List Nat := [0]) : Block := intBlk w tys opx uX .unused .unused
def tyNone (t : Ty) : Bool := t == .none
def tyS (t : Ty) : Bool := t == .s32
def tyN (t : Ty) : Bool := t == .n32

/-- An FP32 instruction of R183 and R189. -/
def fpBlk (w : IW ModA) (dst sb sc : Use) (rnd : Rnd → Bool) (opx : List Nat := [0]) : Block :=
  { dst := dst, sa := uXQI, sb := sb, sc := sc
    modOk := w.mod.tya == .f32 && w.mod.tyb == .none && opxIn w.mod opx && rnd w.mod.rnd
    immOk := immA w (immBelow 32) }

/-- A packed instruction of R193. -/
def packBlk (w : IW ModA) (sc : Use) (rnd : Rnd → Bool) : Block :=
  { dst := uX, sa := uXQI, sb := uXI, sc := sc
    modOk := is16 w.mod.tya && w.mod.tyb == .none && opxIn w.mod [0] && rnd w.mod.rnd
    immOk := immA w (immBelow 32) }

/-- A predicate instruction of R147. -/
def predBlk (w : IW ModA) (sa sb : Use) : Block :=
  { dst := uP, sa := sa, sb := sb, sc := .unused
    modOk := w.mod == ⟨.none, .none, 0, .rne⟩, immOk := w.imm == 0 }

/-- A guard, EXMN or SUCC of R133 and R137. -/
def iBlk (w : IW ModI) (dst sa sb : Use) (m : Bool) : Block :=
  { dst := dst, sa := sa, sb := sb, sc := .unused
    modOk := m && w.mod.rsv == 0, immOk := immBelow 24 w.imm }

/-- A format S instruction (R121): the accepted sub-operations, and ORD and SCOPE 0. -/
def sBlk (w : IW ModS) (subs : List Nat) (dst sa sb sc : Use) (immOk : Bool) (sync : Bool := false) : Block :=
  { dst := dst, sa := sa, sb := sb, sc := sc
    modOk := subs.contains w.mod.sub.toNat && w.mod.ord == .none && w.mod.scope == .ln && w.mod.rsv == 0
    immOk := immOk && immBelow 32 w.imm, sync := sync }

/-- The system immediate of a field that takes `n` bits when SA is 127, else 0 (R121). -/
def immSa (w : IW ModS) (n : Nat) : Bool := if isI w.sa then immBelow n w.imm else w.imm == 0

/-- Number of registers an access of format M uses (R204), the reserved CNT 11 counted as a power of two like the others. (DESIGN CHOICE, log 94.) -/
def regsOf (m : ModM) : Nat := (if is64 m.ty then 2 else 1) * 2 ^ m.cnt.toNat

/-- Bytes of one element (R204); `.q4` and the codes that are no type have none. -/
def tyBytes : Ty → Option Nat
  | .e4m3 => some 1 | .e5m2 => some 1 | .bf16 => some 2 | .f16 => some 2
  | .s32 => some 4 | .n32 => some 4 | .f32 => some 4 | .s64 => some 8 | .n64 => some 8
  | _ => none

def scopeOk (s : Scope) : Bool := s != .rsv6 && s != .rsv7
/-- Scopes up to `.clu` (R206). -/
def scopeSpad (s : Scope) : Bool := [Scope.ln, .grp, .team, .clu].contains s

/-- A base field SA of format M (R117): PAIR needs an even register, and no pair at 127 or a Q code. -/
def uBase (m : ModM) : Use := .used fun o => if m.pair then isPair o || isQ o || isI o else isX o || isQ o || isI o
def pairOk (w : IW ModM) : Bool := !w.mod.pair || isX w.sa

/-- Data registers of an access: the first is even for a 64-bit type, and the last is at most x63 (R110, R204). -/
def uData (m : ModM) : Use := .used fun o => isXs (regsOf m) o && (!is64 m.ty || isPair o)

/-- Ordering of a load or a store (R202, R113): none with SCOPE 0, or the given one with a scope. -/
def ordOk (m : ModM) (o : Ord2) (scope : Scope → Bool) : Bool :=
  (m.ord == .none && m.scope == .ln) || (m.ord == o && scope m.scope)

/-- LD, LDNC, ST and the scratchpad loads and stores (R207, R211). -/
def memBlk (w : IW ModM) (isStore spad : Bool) (tys : Ty → Bool) (ordered : Bool) : Block :=
  { dst := if isStore then .unused else uData w.mod
    sa := uBase w.mod
    sb := if isStore then uData w.mod else .unused
    sc := .unused
    modOk := tys w.mod.ty && pairOk w && w.mod.aop == 0 && decide (w.mod.cnt.toNat < 3)
      && (match tyBytes w.mod.ty with | some b => decide (b * 2 ^ w.mod.cnt.toNat ≤ 16) | none => false)
      && (!spad || !w.mod.pair)
      && (if ordered then ordOk w.mod (if isStore then .rel else .acq) (if spad then scopeSpad else scopeOk)
          else w.mod.ord == .none && w.mod.scope == .ln)
    immOk := true }

/-- ATM, CAS, ATMS and CASS (R213). -/
def atmBlk (w : IW ModM) (cas spad : Bool) : Block :=
  { dst := uData w.mod, sa := uBase w.mod, sb := uData w.mod, sc := if cas then uData w.mod else .unused
    modOk := pairOk w && w.mod.cnt == 0 && w.mod.ord != .rsv && (!spad || !w.mod.pair)
      && (if spad then scopeSpad w.mod.scope else scopeOk w.mod.scope)
      && (if cas then intTy64 w.mod.ty && w.mod.aop == 0
          else (intTy64 w.mod.ty && decide (w.mod.aop.toNat < 7))
            || (w.mod.ty == .f32 && [0, 1, 2, 6].contains w.mod.aop.toNat))
    immOk := true }

/-- SEAL, UNSL, PRF, FSET, FCLR and FTST (R218, R255). -/
def lineBlk (w : IW ModM) (dst sb : Use) (acq spad : Bool) : Block :=
  { dst := dst, sa := uBase w.mod, sb := sb, sc := .unused
    modOk := w.mod.ty == .none && w.mod.aop == 0 && w.mod.cnt == 0 && pairOk w && (!spad || !w.mod.pair)
      && ((w.mod.ord == .none && w.mod.scope == .ln)
        || (acq && w.mod.ord == .acq && [Scope.grp, .team, .clu].contains w.mod.scope))
    immOk := true }

/-- LXCH, LXUP, LXDN and LXBF (R149). -/
def lxBlk (w : IW ModG) : Block :=
  { dst := uX, sa := uX, sb := uXI, sc := uIf w.mod.chk uP6
    modOk := w.mod.ty == .none && w.mod.opx == 0 && w.mod.slot == 0 && w.mod.scope == .ln
    immOk := if isI w.sb then imm32 w.imm else w.imm == 0 }

/-- VOTE and LCNT (R150, R152). -/
def voteBlk (w : IW ModG) (dst : Use) (n : Nat) : Block :=
  { dst := dst, sa := uXP, sb := .unused, sc := .unused
    modOk := w.mod.ty == .none && decide (w.mod.opx.toNat < n) && !w.mod.chk && w.mod.slot == 0 && w.mod.scope == .ln
    immOk := w.imm == 0 }

/-- LRED and LSCN (R151). -/
def redBlk (w : IW ModG) (codes : List Nat) : Block :=
  { dst := uX, sa := uX, sb := .unused, sc := .unused
    modOk := codes.contains w.mod.opx.toNat && !w.mod.chk && w.mod.slot == 0 && w.mod.scope == .ln
      && (intTy w.mod.ty || (w.mod.ty == .f32 && decide (w.mod.opx.toNat % 8 < 3)))
    immOk := w.imm == 0 }

/-- GATH and SCAT (R223). -/
def gsBlk (w : IW ModG) (scat : Bool) : Block :=
  let d : Use := if is64 w.mod.ty then uPair else uX
  { dst := if scat then .unused else d, sa := uPair, sb := uXI, sc := if scat then d else .unused
    modOk := (intTy64 w.mod.ty || w.mod.ty == .f32) && decide (w.mod.opx.toNat < 2) && !w.mod.chk && scopeOk w.mod.scope
    immOk := !isI w.sb || imm32 w.imm }

/-- A floe instruction (R346): types, PROV and RND as its row gives. -/
def tBlk (w : IW ModT) (dst sa sb sc : Use) (tya : Ty → Bool) (tyb : Ty) (prov : Bool) (rnd : Rnd → Bool)
    (immOk : Bool) (sync : Bool := false) : Block :=
  { dst := dst, sa := sa, sb := sb, sc := sc
    modOk := tya w.mod.tya && w.mod.tyb == tyb && (prov || !w.mod.prov) && rnd w.mod.rnd && w.mod.rsv == 0
    immOk := immOk && immBelow 32 w.imm, sync := sync }

/-- Bits hi:lo of an immediate as a number. -/
def ibits (v : DWord) (hi lo : Nat) : Nat := v.toNat / 2 ^ lo % 2 ^ (hi - lo + 1)

/-- Twice the element width in bytes of an epilogue write (R359). -/
def width2 (t : Ty) : Nat := if t == .q4 then 1 else 2 * (tyBytes t).getD 0

/-- The row pitch of an epilogue immediate meets 16P ≥ 32w and P ≥ 1, and bits 31:28 are 0 (R359). -/
def pitchOk (w : IW ModT) : Bool :=
  decide (32 * width2 w.mod.tya ≤ 32 * ibits w.imm 27 12) && decide (1 ≤ ibits w.imm 27 12) && ibits w.imm 31 28 == 0

/-- An operand of MPOST (R354): an A code; an even X for a scratchpad pair; or K ≤ 32 for a snapshot. -/
def uPost (snap : Bool) : Use := .used fun o => isA o || (if snap then isXs 32 o else isPair o)

/-- A copy instruction (R302). -/
def cBlk (w : IW ModC) (dst sa sb sc : Use) (subs : List Nat) (slot bcnt off : Bool) (sync : Bool := false) : Block :=
  { dst := dst, sa := sa, sb := sb, sc := sc
    modOk := subs.contains w.mod.sub.toNat && (slot || w.mod.slot == 0) && (bcnt || !w.mod.bcnt) && w.mod.rsv == 0
    immOk := if off then immBelow 48 w.imm else w.imm == 0, sync := sync }

/-- Whether CVTF and TCVT accept `.sat` from `src` into `dst` (R194). -/
def satOk (dst src : Ty) : Bool :=
  match dst, src with
  | .bf16, .f32 => true
  | .f16, .f32 => true | .f16, .bf16 => true
  | .e5m2, .f32 => true | .e5m2, .bf16 => true | .e5m2, .f16 => true
  | .e4m3, .f32 => true | .e4m3, .bf16 => true | .e4m3, .f16 => true | .e4m3, .e5m2 => true
  | _, _ => false

/-- Elements a source register of this type holds (R194). -/
def elems (t : Ty) : Nat := if is8 t then 4 else if is16 t then 2 else 1

/-- Special registers of the core's profile (R102, R386, R491). -/
def srListed (p : Profile) (n : Nat) : Bool :=
  decide (n ≤ 5) || (decide (8 ≤ n) && decide (n ≤ 11)) || (decide (0x10 ≤ n) && decide (n ≤ 0x18))
    || (decide (0x20 ≤ n) && decide (n ≤ 0x27))
    || (p == .cp && decide (0x100 ≤ n) && decide (n ≤ 0x102))
    || (p == .mgmt && decide (0x200 ≤ n) && decide (n ≤ 0x201))

/-- Special registers that WRSR writes (R155). -/
def srWritable (n : Nat) : Bool := decide (0x20 ≤ n) && decide (n ≤ 0x27)

/-- A management-profile instruction (R497). -/
def mgBlk (w : IW ModS) (sub : Nat) (sa sb : Use) (n : Nat) : Block :=
  sBlk w [sub] uX sa sb .unused (immBelow n w.imm)

/-- MOD, IMM and operand rules of MPOST to MTOK and of every other block. The device and host events are no
words and have none. (DEDUCED, log 28.) An immediate packed source of CVTN reads as a sign-extended 32-bit integer. (DESIGN CHOICE, log 95.)
CPX with the reserved width code 3 names 8 destination registers. (DESIGN CHOICE, log 94.) -/
def block (p : Profile) : Instr → Option Block
  | .grd w => some (iBlk w .unused uP .unused (w.mod.ty == .none && decide (w.mod.opx.toNat < 2)))
  | .grdc w =>
    let u := if is64 w.mod.ty then uPair else uX
    some (iBlk w .unused u u (intTy64 w.mod.ty && decide (w.mod.opx.toNat < 6)))
  | .grdu w => some (iBlk w .unused uP .unused (w.mod.ty == .none && decide (w.mod.opx.toNat < 2)))
  | .exmr w => some { dst := uX, sa := .unused, sb := .unused, sc := .unused
                      modOk := w.mod == ⟨.none, .none, 0, .rne⟩, immOk := w.imm == 0 }
  | .exmn w => some (iBlk w .unused uX .unused (w.mod.ty == .none && w.mod.opx == 0))
  | .succ w => some (iBlk w uX (uIf (w.mod.opx == 1) uX) .unused (w.mod.ty == .none && decide (w.mod.opx.toNat < 2)))
  | .trap w => some (sBlk w [0] .unused .unused .unused .unused (immBelow 16 w.imm))
  | .bkpt w => some (sBlk w [0] .unused .unused .unused .unused (immBelow 16 w.imm))
  | .yld w => some (sBlk w [0] .unused .unused .unused .unused (w.imm == 0))
  | .nop w => some (sBlk w [0] .unused .unused .unused .unused (w.imm == 0))
  | .add w => some (int2 w intTy [0, 1])
  | .addc w => some (intBlk w tyN [0] uX uXI uP6)
  | .sub w => some (int2 w intTy [0, 1])
  | .subb w => some (intBlk w tyN [0] uX uXI uP6)
  | .neg w => some (int1 w tyS [0, 1])
  | .abs w => some (int1 w tyS [0, 1])
  | .mul w => some (int2 w intTy [0, 1])
  | .mulh w => some (int2 w intTy)
  | .mulw w => some (intBlk w intTy [0] uPair uXI .unused)
  | .mad w => some (intBlk w intTy [0, 1] uX uXI uXI)
  | .madw w => some (intBlk w intTy [0] uPair uXI uPair)
  | .div w => some (int2 w intTy)
  | .rem w => some (int2 w intTy)
  | .min w => some (int2 w intTy)
  | .max w => some (int2 w intTy)
  | .and w => some (int2 w tyNone)
  | .or w => some (int2 w tyNone)
  | .xor w => some (int2 w tyNone)
  | .not w => some (int1 w tyNone)
  | .andn w => some (int2 w tyNone)
  | .shl w => some (int2 w intTy)
  | .shr w => some (int2 w tyN)
  | .sar w => some (int2 w tyS)
  | .rol w => some (int2 w tyN)
  | .clz w => some (int1 w tyN)
  | .ctz w => some (int1 w tyN)
  | .popc w => some (int1 w tyN)
  | .brev w => some (int1 w tyN)
  | .bfx w => some (int2 w intTy)
  | .bfi w => some (intBlk w tyNone [0] uX uXI uXI)
  | .sxt w => some (int2 w tyNone)
  | .zxt w => some (int2 w tyNone)
  | .sel w => some (intBlk w tyNone [0] uX uXI uP)
  | .cmp w =>
    if is64 w.mod.tya then
      some { intBlk w intTy64 [0, 1, 2, 3, 4, 5] uXP uPairI .unused with sa := uPairI, immOk := immA w fun _ => true }
    else some (intBlk w intTy64 [0, 1, 2, 3, 4, 5] uXP uXI .unused)
  | .cmpx w =>
    if is64 w.mod.tya then
      some { intBlk w intTy64 [0, 1, 2, 3, 4, 5] uXP uPairI uP with sa := uPairI, immOk := immA w fun _ => true }
    else some (intBlk w intTy64 [0, 1, 2, 3, 4, 5] uXP uXI uP)
  | .lea w => some { intBlk w intTy [0, 1, 2, 3, 4] uPair uX .unused with sa := uPairI, immOk := immA w fun _ => true }
  | .add64 w => some { intBlk w tyNone [0] uPair uPairI .unused with sa := uPairI, immOk := immA w fun _ => true }
  | .sub64 w => some { intBlk w tyNone [0] uPair uPairI .unused with sa := uPairI, immOk := immA w fun _ => true }
  | .mov w =>
    if is64 w.mod.tya then some { intBlk w (· == .n64) [0] uPair .unused .unused with sa := uPair }
    else some { intBlk w tyNone [0] uX .unused .unused with sa := .used fun o => isX o || isQ o }
  | .movi w => some { intBlk w tyNone [0] uX .unused .unused with sa := uI }
  | .movw w => some { intBlk w tyNone [0] uPair .unused .unused with sa := uI, immOk := true }
  | .pand w => some (predBlk w uP uP)
  | .por w => some (predBlk w uP uP)
  | .pxor w => some (predBlk w uP uP)
  | .pnot w => some (predBlk w uP .unused)
  | .pmov w => some (predBlk w uXP .unused)
  | .lxch w => some (lxBlk w)
  | .lxup w => some (lxBlk w)
  | .lxdn w => some (lxBlk w)
  | .lxbf w => some (lxBlk w)
  | .vote w => some (voteBlk w (if w.mod.opx == 3 then uX else uP) 4)
  | .lred w => some (redBlk w [0, 1, 2, 3, 4, 5])
  | .lscn w => some (redBlk w [0, 1, 2, 3, 4, 5, 8, 9, 10, 11, 12, 13])
  | .lcnt w => some (voteBlk w uX 2)
  | .fadd w => some (fpBlk w uX uXI .unused rnd4)
  | .fsub w => some (fpBlk w uX uXI .unused rnd4)
  | .fmul w => some (fpBlk w uX uXI .unused rnd4)
  | .ffma w => some (fpBlk w uX uXI uXI rnd4)
  | .fmin w => some (fpBlk w uX uXI .unused rndNe)
  | .fmax w => some (fpBlk w uX uXI .unused rndNe)
  | .fabs w => some (fpBlk w uX .unused .unused rndNe)
  | .fneg w => some (fpBlk w uX .unused .unused rndNe)
  | .fcmp w => some (fpBlk w uXP uXI .unused rndNe [0, 1, 2, 3, 4, 5, 6, 7])
  | .fcls w =>
    let b := fpBlk w uXP (uIf (isP w.dst) uXI) .unused rndNe
    some { b with immOk := b.immOk && (!isI w.sb || immBelow 9 w.imm) }
  | .frnd w => some (fpBlk w uX .unused .unused rnd4)
  | .fdiv w => some (fpBlk w uX uXI .unused rnd4)
  | .fsqrt w => some (fpBlk w uX .unused .unused rnd4)
  | .frcp w => some (fpBlk w uX .unused .unused rndNe)
  | .frsq w => some (fpBlk w uX .unused .unused rndNe)
  | .fex2 w => some (fpBlk w uX .unused .unused rndNe)
  | .flg2 w => some (fpBlk w uX .unused .unused rndNe)
  | .fsin w => some (fpBlk w uX .unused .unused rndNe)
  | .fcos w => some (fpBlk w uX .unused .unused rndNe)
  | .fsig w => some (fpBlk w uX .unused .unused rndNe)
  | .ftnh w => some (fpBlk w uX .unused .unused rndNe)
  | .hadd2 w => some (packBlk w .unused rnd4)
  | .hmul2 w => some (packBlk w .unused rnd4)
  | .hfma2 w => some (packBlk w uXI rnd4)
  | .hmin2 w => some (packBlk w .unused rndNe)
  | .hmax2 w => some (packBlk w .unused rndNe)
  | .cvtf w =>
    let k := w.mod.opx.toNat / 4
    some { dst := uX, sa := uXQI, sb := .unused, sc := uIf (w.mod.rnd == .rs) uX
           modOk := fpTy w.mod.tya && fpTy w.mod.tyb && w.mod.tya != w.mod.tyb && decide (k < elems w.mod.tyb)
             && (!w.mod.opx.getLsbD 1 || is8 w.mod.tya || is8 w.mod.tyb)
             && (!w.mod.opx.getLsbD 0 || satOk w.mod.tya w.mod.tyb)
             && (rnd4 w.mod.rnd || (w.mod.rnd == .rs && w.mod.tya != .f32))
           immOk := immA w (immBelow 32) }
  | .cvti w =>
    let k := w.mod.opx.toNat / 4
    some { dst := uX, sa := uXQI, sb := .unused, sc := .unused
           modOk := rnd4 w.mod.rnd
             && ((intTy w.mod.tya && fpTy w.mod.tyb && decide (k < elems w.mod.tyb) && !w.mod.opx.getLsbD 0
                  && (!w.mod.opx.getLsbD 1 || is8 w.mod.tyb))
               || (w.mod.tya == .f32 && intTy w.mod.tyb && w.mod.opx == 0))
           immOk := immA w (if intTy w.mod.tyb then imm32 else immBelow 32) }
  | .cvtn w =>
    some { dst := uX, sa := uXQI, sb := .unused, sc := uIf (w.mod.rnd == .rs) uX
           modOk :=
             (w.mod.tya == .none && w.mod.tyb == .f32 && w.mod.opx == 0 && (rnd4 w.mod.rnd || w.mod.rnd == .rs))
             || (w.mod.tya == .none && w.mod.tyb == .s32 && w.mod.opx == 0 && rndNe w.mod.rnd)
             || ((w.mod.tya == .f32 || w.mod.tya == .s32) && w.mod.tyb == .none && rndNe w.mod.rnd
                 && decide (8 ≤ w.mod.opx.toNat) && decide (w.mod.opx.toNat < 12))
           immOk := immA w (if w.mod.tyb == .f32 then immBelow 32 else imm32) }
  | .cvtq w =>
    some { dst := uPair, sa := uX, sb := uXI, sc := uIf (w.mod.opx == 4) uX
           modOk := w.mod.ty == .q4 && decide (w.mod.opx.toNat < 5) && !w.mod.chk && w.mod.slot == 0 && w.mod.scope == .ln
           immOk := if isI w.sb then immBelow 9 w.imm else w.imm == 0 }
  | .cvte w =>
    some { dst := uX, sa := uX, sb := uX, sc := uIf w.mod.chk uP6
           modOk := w.mod.ty == .q4 && w.mod.opx == 0 && w.mod.slot == 0 && w.mod.scope == .ln
           immOk := w.imm == 0 }
  | .ld w => some (memBlk w false false (fun _ => true) true)
  | .ldnc w => some (memBlk w false false (fun _ => true) true)
  | .st w => some (memBlk w true false (fun _ => true) true)
  | .lds w => some (memBlk w false true (fun _ => true) true)
  | .ldsn w => some (memBlk w false true (fun _ => true) true)
  | .sts w => some (memBlk w true true (fun _ => true) true)
  | .stn w => some (memBlk w true true (fun t => intTy t || t == .f32) false)
  | .atm w => some (atmBlk w false false)
  | .cas w => some (atmBlk w true false)
  | .atms w => some (atmBlk w false true)
  | .cass w => some (atmBlk w true true)
  | .fnc w =>
    some { dst := .unused, sa := .unused, sb := .unused, sc := .unused
           modOk := w.mod.sub == 0 && w.mod.ord != .rsv && w.mod.rsv == 0 && scopeOk w.mod.scope && w.mod.scope != .ln
           immOk := w.imm == 0, sync := true }
  | .seal w => some (lineBlk w uX uX false false)
  | .unsl w => some (lineBlk w uX uX false false)
  | .prf w => some (lineBlk w .unused .unused false false)
  | .gath w => some (gsBlk w false)
  | .scat w => some (gsBlk w true)
  | .rgn w => some (sBlk w [0] uX uXI uX uX (immSa w 2))
  | .step w => some (sBlk w [0] .unused uXI .unused .unused (immSa w 2) true)
  | .stepq w => some (sBlk w [0, 1, 2] uX uXI .unused .unused (immSa w 2))
  | .fset w => some (lineBlk w .unused .unused false true)
  | .fclr w => some (lineBlk w .unused .unused false true)
  | .ftst w => some (lineBlk w uX .unused true true)
  | .bari w => some (sBlk w [0, 1] .unused uXI uX (uIf (w.mod.sub == 0) uX) (immSa w 2))
  | .bara w => some (sBlk w [0] uX .unused uX .unused (w.imm == 0) true)
  | .barw w => some (sBlk w [0, 1] (uIf (w.mod.sub != 0) uX) .unused uX (uIf (w.mod.sub == 0) uX) (w.imm == 0) true)
  | .barx w => some (sBlk w [0] .unused uXI uX .unused (immSa w 32))
  | .barq w => some (sBlk w [0, 1, 2, 3, 4] uX .unused uX .unused (w.imm == 0))
  | .team w => some (sBlk w [0] uX uXI uX .unused (immSa w 2))
  | .cpl w => some (cBlk w uX uX uX (uIf w.mod.bcnt uX) [0, 1, 2] false true true)
  | .cplg w => some (cBlk w uX uX uX (uIf w.mod.bcnt uX) [0, 1, 2] false true true)
  | .cpt w => some (cBlk w uX uX (uXs 4) (uIf w.mod.bcnt uX) [0, 1, 2, 3] true true false)
  | .cpo w => some (cBlk w uX uX (uXs 4) (uIf w.mod.bcnt uX) [0, 1, 2, 3] true true false)
  | .cpx w =>
    some (cBlk w (uXs (2 ^ (w.mod.sub.toNat % 4))) uX (uIf (w.mod.sub.getLsbD 2) uX) (uIf (w.mod.sub.getLsbD 3) uX)
      [0, 1, 2, 4, 5, 6, 8, 9, 10, 12, 13, 14] false false (w.mod.sub.getLsbD 2))
  | .shop w => some (cBlk w uX uX .unused .unused [0, 1, 2] false false false)
  | .pub w => some (cBlk w .unused uX .unused .unused [0] false false false true)
  | .cpq w => some (cBlk w uX (uIf (w.mod.sub == 1) uX) .unused .unused [0, 1, 2, 3, 4] false false false)
  | .cpc w => some (cBlk w .unused .unused .unused .unused [0] true false false)
  | .cpbs w => some (cBlk w uX .unused .unused .unused [0] true false false)
  | .mpost w => some (tBlk w uA (uPost (w.imm.getLsbD 0)) (uPost (w.imm.getLsbD 1)) (uXs 8) tyNone .none false rndNe (immBelow 2 w.imm))
  | .macq w => some (tBlk w uX uA .unused .unused tyNone .none false rndNe (immBelow 1 w.imm))
  | .mrel w => some (tBlk w .unused uA .unused .unused tyNone .none false rndNe (w.imm == 0))
  | .mzer w => some (tBlk w uA .unused .unused .unused tyNone .none false rndNe (w.imm == 0))
  | .mlda w => some (tBlk w uA uX .unused .unused tyNone .none false rndNe (immBelow 16 w.imm && decide (8 ≤ w.imm.toNat)))
  | .mrd w => some (tBlk w uX uA .unused .unused tyNone .none true rndNe (immBelow 5 w.imm))
  | .msta w => some (tBlk w uX uA .unused .unused tyNone .none true rndNe (immBelow 16 w.imm && decide (8 ≤ w.imm.toNat)))
  | .mpub w => some (tBlk w uX uA uX .unused tyNone .none false rndNe (w.imm == 0))
  | .msetl w => some (tBlk w .unused uA .unused .unused tyNone .none false rndNe (w.imm == 0) true)
  | .tadd w => some (tBlk w uA uA uA .unused (· == .f32) .none false rnd4 (immBelow 6 w.imm))
  | .tscl w => some (tBlk w uA uA uX .unused (· == .f32) .none false rnd4 (immBelow 6 w.imm))
  | .taxpy w => some (tBlk w uA uA uA uX (· == .f32) .none false rnd4 (immBelow 6 w.imm))
  | .tmap w =>
    some (tBlk w uX uA .unused .unused (fun t => t == .f32 || t == .bf16) .none true rndNe
      (pitchOk w && ibits w.imm 7 6 == 0 && decide (ibits w.imm 11 8 < 6)))
  | .tmul w =>
    some (tBlk w uX uA uA .unused (fun t => t == .f32 || t == .bf16) .none true rnd4 (pitchOk w && ibits w.imm 11 6 == 0))
  | .tcvt w =>
    some (tBlk w uX uA (uIf (w.mod.tya == .q4) uX) (uIf (w.mod.rnd == .rs) uX)
      (fun t => is16 t || is8 t || t == .q4) .f32 true (fun r => rnd4 r || r == .rs)
      (pitchOk w && ibits w.imm 11 10 == 0 && (w.mod.tya == .q4 || ibits w.imm 9 8 == 0)
        && (ibits w.imm 6 6 == 0 || satOk w.mod.tya .f32) && (ibits w.imm 7 7 == 0 || is8 w.mod.tya)))
  | .tstat w =>
    some (tBlk w uX .unused .unused .unused tyNone .none false rndNe (immBelow 6 w.imm || w.imm == 0x100))
  | .mqui w => some (tBlk w uX .unused .unused .unused tyNone .none false rndNe (w.imm == 0))
  | .mtok w => some (tBlk w uPair uX .unused .unused tyNone .none false rndNe (w.imm == 0))
  | .fwk w => some (sBlk w [0] .unused .unused uX uX (immBelow 12 w.imm) true)
  | .emit w => some (sBlk w [0] .unused .unused uX .unused (immBelow 12 w.imm) true)
  | .sgnl w =>
    some { dst := .unused, sa := uXI, sb := uPair, sc := .unused
           modOk := decide (w.mod.sub.toNat < 2) && w.mod.ord == .rel && (w.mod.scope == .dev || w.mod.scope == .sys)
             && w.mod.rsv == 0
           immOk := immSa w 32, sync := true }
  | .rtkt w => some (sBlk w [0, 1] uX (uIf (w.mod.sub == 1) uXI) uX .unused (immSa w 32))
  | .rput w => some (sBlk w [0] .unused uX uX .unused (w.imm == 0))
  | .qbnd w => some (sBlk w [0, 1] .unused .unused (uIf (w.mod.sub == 0) uX) .unused (immBelow 2 w.imm))
  | .rskp w => some (sBlk w [0] .unused uX uX .unused (w.imm == 0))
  | .prio w => some (sBlk w [0] uX uXI .unused .unused (immSa w 2))
  | .govh w => some (sBlk w [0, 1, 2, 3] .unused .unused (uIf (w.mod.sub == 0) uX) .unused (w.imm == 0))
  | .rdsr w => some (sBlk w [0] uX .unused .unused .unused (immBelow 12 w.imm && srListed p w.imm.toNat))
  | .wrsr w => some (sBlk w [0] .unused uX .unused .unused (immBelow 12 w.imm && srWritable w.imm.toNat))
  | .time w => some (sBlk w [0] uPair .unused .unused .unused (w.imm == 0))
  | .perf w => some (sBlk w [0] uX .unused .unused .unused (decide (w.imm.toNat ≤ 9)))
  | .fusr w => some (mgBlk w 0 .unused .unused 8)
  | .crypHash w => some (mgBlk w 0 uX .unused 0)
  | .crypVrfy w => some (mgBlk w 1 uX .unused 0)
  | .crypSign w => some (mgBlk w 2 uX .unused 0)
  | .crypVtok w => some (mgBlk w 3 uX .unused 0)
  | .wipe w => some (mgBlk w 0 .unused .unused 5)
  | .mext w => some (mgBlk w 0 uX uX 4)
  | .lcst w => some (mgBlk w 0 .unused .unused 2)
  | .dbgo w => some (mgBlk w 0 .unused .unused 2)
  | _ => none

/-- A word with its opcode (R122) and the fields of its format (R114). -/
inductive Fields where
  | a (w : IW ModA)
  | i (w : IW ModI)
  | m (w : IW ModM)
  | g (w : IW ModG)
  | t (w : IW ModT)
  | c (w : IW ModC)
  | s (w : IW ModS)
  deriving DecidableEq, Repr

structure WordOf where
  opc : Nat
  fields : Fields
  deriving DecidableEq, Repr

/-- The opcode and fields of an instruction of the opcode map (R122); a device or host event has none. -/
def wordOf : Instr → Option WordOf
  | .grd w => some ⟨0x000, .i w⟩
  | .grdc w => some ⟨0x001, .i w⟩
  | .grdu w => some ⟨0x002, .i w⟩
  | .exmr w => some ⟨0x003, .a w⟩
  | .exmn w => some ⟨0x004, .i w⟩
  | .succ w => some ⟨0x005, .i w⟩
  | .trap w => some ⟨0x006, .s w⟩
  | .bkpt w => some ⟨0x007, .s w⟩
  | .yld w => some ⟨0x008, .s w⟩
  | .nop w => some ⟨0x009, .s w⟩
  | .add w => some ⟨0x010, .a w⟩
  | .addc w => some ⟨0x011, .a w⟩
  | .sub w => some ⟨0x012, .a w⟩
  | .subb w => some ⟨0x013, .a w⟩
  | .neg w => some ⟨0x014, .a w⟩
  | .abs w => some ⟨0x015, .a w⟩
  | .mul w => some ⟨0x016, .a w⟩
  | .mulh w => some ⟨0x017, .a w⟩
  | .mulw w => some ⟨0x018, .a w⟩
  | .mad w => some ⟨0x019, .a w⟩
  | .madw w => some ⟨0x01A, .a w⟩
  | .div w => some ⟨0x01B, .a w⟩
  | .rem w => some ⟨0x01C, .a w⟩
  | .min w => some ⟨0x01D, .a w⟩
  | .max w => some ⟨0x01E, .a w⟩
  | .and w => some ⟨0x020, .a w⟩
  | .or w => some ⟨0x021, .a w⟩
  | .xor w => some ⟨0x022, .a w⟩
  | .not w => some ⟨0x023, .a w⟩
  | .andn w => some ⟨0x024, .a w⟩
  | .shl w => some ⟨0x025, .a w⟩
  | .shr w => some ⟨0x026, .a w⟩
  | .sar w => some ⟨0x027, .a w⟩
  | .rol w => some ⟨0x028, .a w⟩
  | .clz w => some ⟨0x029, .a w⟩
  | .ctz w => some ⟨0x02A, .a w⟩
  | .popc w => some ⟨0x02B, .a w⟩
  | .brev w => some ⟨0x02C, .a w⟩
  | .bfx w => some ⟨0x02D, .a w⟩
  | .bfi w => some ⟨0x02E, .a w⟩
  | .sxt w => some ⟨0x02F, .a w⟩
  | .zxt w => some ⟨0x030, .a w⟩
  | .sel w => some ⟨0x040, .a w⟩
  | .cmp w => some ⟨0x041, .a w⟩
  | .cmpx w => some ⟨0x042, .a w⟩
  | .lea w => some ⟨0x043, .a w⟩
  | .add64 w => some ⟨0x044, .a w⟩
  | .sub64 w => some ⟨0x045, .a w⟩
  | .mov w => some ⟨0x046, .a w⟩
  | .movi w => some ⟨0x047, .a w⟩
  | .movw w => some ⟨0x048, .a w⟩
  | .pand w => some ⟨0x050, .a w⟩
  | .por w => some ⟨0x051, .a w⟩
  | .pxor w => some ⟨0x052, .a w⟩
  | .pnot w => some ⟨0x053, .a w⟩
  | .pmov w => some ⟨0x054, .a w⟩
  | .lxch w => some ⟨0x080, .g w⟩
  | .lxup w => some ⟨0x081, .g w⟩
  | .lxdn w => some ⟨0x082, .g w⟩
  | .lxbf w => some ⟨0x083, .g w⟩
  | .vote w => some ⟨0x084, .g w⟩
  | .lred w => some ⟨0x085, .g w⟩
  | .lscn w => some ⟨0x086, .g w⟩
  | .lcnt w => some ⟨0x087, .g w⟩
  | .fadd w => some ⟨0x100, .a w⟩
  | .fsub w => some ⟨0x101, .a w⟩
  | .fmul w => some ⟨0x102, .a w⟩
  | .ffma w => some ⟨0x103, .a w⟩
  | .fmin w => some ⟨0x104, .a w⟩
  | .fmax w => some ⟨0x105, .a w⟩
  | .fabs w => some ⟨0x106, .a w⟩
  | .fneg w => some ⟨0x107, .a w⟩
  | .fcmp w => some ⟨0x108, .a w⟩
  | .fcls w => some ⟨0x109, .a w⟩
  | .frnd w => some ⟨0x10A, .a w⟩
  | .fdiv w => some ⟨0x110, .a w⟩
  | .fsqrt w => some ⟨0x111, .a w⟩
  | .frcp w => some ⟨0x112, .a w⟩
  | .frsq w => some ⟨0x113, .a w⟩
  | .fex2 w => some ⟨0x114, .a w⟩
  | .flg2 w => some ⟨0x115, .a w⟩
  | .fsin w => some ⟨0x116, .a w⟩
  | .fcos w => some ⟨0x117, .a w⟩
  | .fsig w => some ⟨0x118, .a w⟩
  | .ftnh w => some ⟨0x119, .a w⟩
  | .hadd2 w => some ⟨0x120, .a w⟩
  | .hmul2 w => some ⟨0x121, .a w⟩
  | .hfma2 w => some ⟨0x122, .a w⟩
  | .hmin2 w => some ⟨0x123, .a w⟩
  | .hmax2 w => some ⟨0x124, .a w⟩
  | .cvtf w => some ⟨0x140, .a w⟩
  | .cvti w => some ⟨0x141, .a w⟩
  | .cvtn w => some ⟨0x142, .a w⟩
  | .cvtq w => some ⟨0x143, .g w⟩
  | .cvte w => some ⟨0x144, .g w⟩
  | .ld w => some ⟨0x180, .m w⟩
  | .ldnc w => some ⟨0x181, .m w⟩
  | .st w => some ⟨0x182, .m w⟩
  | .lds w => some ⟨0x188, .m w⟩
  | .ldsn w => some ⟨0x189, .m w⟩
  | .sts w => some ⟨0x18A, .m w⟩
  | .stn w => some ⟨0x18B, .m w⟩
  | .atm w => some ⟨0x190, .m w⟩
  | .cas w => some ⟨0x191, .m w⟩
  | .atms w => some ⟨0x192, .m w⟩
  | .cass w => some ⟨0x193, .m w⟩
  | .fnc w => some ⟨0x198, .s w⟩
  | .seal w => some ⟨0x199, .m w⟩
  | .unsl w => some ⟨0x19A, .m w⟩
  | .prf w => some ⟨0x19B, .m w⟩
  | .gath w => some ⟨0x1A0, .g w⟩
  | .scat w => some ⟨0x1A1, .g w⟩
  | .rgn w => some ⟨0x200, .s w⟩
  | .step w => some ⟨0x201, .s w⟩
  | .stepq w => some ⟨0x202, .s w⟩
  | .fset w => some ⟨0x204, .m w⟩
  | .fclr w => some ⟨0x205, .m w⟩
  | .ftst w => some ⟨0x206, .m w⟩
  | .bari w => some ⟨0x208, .s w⟩
  | .bara w => some ⟨0x209, .s w⟩
  | .barw w => some ⟨0x20A, .s w⟩
  | .barx w => some ⟨0x20B, .s w⟩
  | .barq w => some ⟨0x20C, .s w⟩
  | .team w => some ⟨0x210, .s w⟩
  | .cpl w => some ⟨0x240, .c w⟩
  | .cplg w => some ⟨0x241, .c w⟩
  | .cpt w => some ⟨0x242, .c w⟩
  | .cpo w => some ⟨0x243, .c w⟩
  | .cpx w => some ⟨0x244, .c w⟩
  | .shop w => some ⟨0x245, .c w⟩
  | .pub w => some ⟨0x246, .c w⟩
  | .cpq w => some ⟨0x247, .c w⟩
  | .cpc w => some ⟨0x248, .c w⟩
  | .cpbs w => some ⟨0x249, .c w⟩
  | .mpost w => some ⟨0x280, .t w⟩
  | .macq w => some ⟨0x281, .t w⟩
  | .mrel w => some ⟨0x282, .t w⟩
  | .mzer w => some ⟨0x283, .t w⟩
  | .mlda w => some ⟨0x284, .t w⟩
  | .mrd w => some ⟨0x285, .t w⟩
  | .msta w => some ⟨0x286, .t w⟩
  | .mpub w => some ⟨0x287, .t w⟩
  | .msetl w => some ⟨0x288, .t w⟩
  | .tadd w => some ⟨0x290, .t w⟩
  | .tscl w => some ⟨0x291, .t w⟩
  | .taxpy w => some ⟨0x292, .t w⟩
  | .tmap w => some ⟨0x293, .t w⟩
  | .tmul w => some ⟨0x294, .t w⟩
  | .tcvt w => some ⟨0x295, .t w⟩
  | .tstat w => some ⟨0x2A0, .t w⟩
  | .mqui w => some ⟨0x2A1, .t w⟩
  | .mtok w => some ⟨0x2A2, .t w⟩
  | .fwk w => some ⟨0x300, .s w⟩
  | .emit w => some ⟨0x301, .s w⟩
  | .sgnl w => some ⟨0x302, .s w⟩
  | .rtkt w => some ⟨0x308, .s w⟩
  | .rput w => some ⟨0x309, .s w⟩
  | .qbnd w => some ⟨0x30A, .s w⟩
  | .rskp w => some ⟨0x30B, .s w⟩
  | .prio w => some ⟨0x310, .s w⟩
  | .govh w => some ⟨0x311, .s w⟩
  | .rdsr w => some ⟨0x340, .s w⟩
  | .wrsr w => some ⟨0x341, .s w⟩
  | .time w => some ⟨0x342, .s w⟩
  | .perf w => some ⟨0x343, .s w⟩
  | .fusr w => some ⟨0x370, .s w⟩
  | .crypHash w => some ⟨0x371, .s w⟩
  | .crypVrfy w => some ⟨0x371, .s w⟩
  | .crypSign w => some ⟨0x371, .s w⟩
  | .crypVtok w => some ⟨0x371, .s w⟩
  | .wipe w => some ⟨0x372, .s w⟩
  | .mext w => some ⟨0x373, .s w⟩
  | .lcst w => some ⟨0x374, .s w⟩
  | .dbgo w => some ⟨0x375, .s w⟩
  | _ => none

/-- The profile of R124: which opcodes a core of each kind executes. LD, LDNC, ST, ATM, CAS and FNC are
0x180 to 0x182, 0x190, 0x191 and 0x198. -/
def inProfile (p : Profile) (opc : Nat) : Bool :=
  if opc < 0x100 then true
  else if opc < 0x180 then p != .mgmt
  else if opc < 0x200 then p == .trace || [0x180, 0x181, 0x182, 0x190, 0x191, 0x198].contains opc
  else if opc < 0x300 then p == .trace
  else if opc < 0x340 then p != .mgmt
  else if opc < 0x370 then true
  else p == .mgmt

/-- Checks 3 to 7 of R126 on the fields of one word, against its block. (DEDUCED, log 28.) -/
def fieldCause {M : Type} (w : IW M) (b : Block) : Option Cause :=
  if isRsv w.dst || isRsv w.sa || isRsv w.sb || isRsv w.sc then some .reservedOperand
  else if !(b.dst.ok w.dst false && b.sa.ok w.sa w.la && b.sb.ok w.sb w.lb && b.sc.ok w.sc w.lc
      && decide ([w.sa, w.sb, w.sc].countP isI ≤ 1) && decide ([w.sa, w.sb, w.sc].countP isQ ≤ 1))
    then some .operandClass
  else if !(b.modOk && b.immOk) then some .modOrImm
  else if w.psns && w.pidx.val == 7 then some .pred
  else if b.sync && w.nx == .seq then some .syncNx
  else none

/-- `fieldCause` whatever the format. -/
def Fields.cause (f : Fields) (b : Block) : Option Cause :=
  match f with
  | .a w => fieldCause w b
  | .i w => fieldCause w b
  | .m w => fieldCause w b
  | .g w => fieldCause w b
  | .t w => fieldCause w b
  | .c w => fieldCause w b
  | .s w => fieldCause w b

/-- The first check of R125 that an instruction fails on a core of profile `p`, in the order of R126. A
device or host event is no word and fails none. -/
def cause (p : Profile) (i : Instr) : Option Cause :=
  match wordOf i with
  | none => none
  | some w =>
    if inProfile p w.opc then
      match block p i with
      | some b => w.fields.cause b
      | none => some .undefined
    else some .profile

end Sys2Proof.Checks
end

