-- ==== Sys2Proof/WellFormed.lean ====
section
/-! DEFINITION. Which instructions are well formed (R125): a word that meets every check on a core of the given
profile. A device or host event is not a word and has no check. -/
namespace Sys2Proof

/-- Every check of R125 holds on a core of profile `p`. -/
def WellFormed (p : Checks.Profile) (i : Instr) : Prop := Checks.cause p i = none

/-- The same as a test. -/
def wellFormed (p : Checks.Profile) (i : Instr) : Bool := Checks.cause p i == none

end Sys2Proof
end

