-- ==== Sys2Proof/Decode.lean ====
section
/-! DEFINITION. The 128-bit words of the SW9 (R107 to R122): their fields, the opcode map, the decoder, which
refuses a word by the cause of R126, and the encoder. -/
namespace Sys2Proof
namespace Decode
open Sys2Proof.Checks

/-- The fields of a word in ascending order of place: each a width and a value. -/
def packNat : List (Nat × Nat) → Nat
  | [] => 0
  | (n, v) :: r => v % 2 ^ n + 2 ^ n * packNat r

/-- The values of consecutive fields of the given widths, from bit 0 up. -/
def splitNat : List Nat → Nat → List Nat
  | [], _ => []
  | n :: r, v => v % 2 ^ n :: splitNat r (v / 2 ^ n)

/-- NX (R107). -/
def nxCode : Nx → Nat
  | .seq => 0
  | .stop => 1
  | .link => 2
  | .quit => 3

/-- NX (R107). -/
def nxOf : Nat → Nx
  | 0 => .seq
  | 1 => .stop
  | 2 => .link
  | _ => .quit

/-- Type codes (R111). -/
def tyCode : Ty → Nat
  | .none => 0
  | .s32 => 1
  | .n32 => 2
  | .s64 => 3
  | .n64 => 4
  | .f32 => 5
  | .bf16 => 6
  | .f16 => 7
  | .e4m3 => 8
  | .e5m2 => 9
  | .q4 => 10
  | .rB => 11
  | .rC => 12
  | .rD => 13
  | .rE => 14
  | .rF => 15

/-- Type codes (R111). -/
def tyOf : Nat → Ty
  | 0 => .none
  | 1 => .s32
  | 2 => .n32
  | 3 => .s64
  | 4 => .n64
  | 5 => .f32
  | 6 => .bf16
  | 7 => .f16
  | 8 => .e4m3
  | 9 => .e5m2
  | 10 => .q4
  | 11 => .rB
  | 12 => .rC
  | 13 => .rD
  | 14 => .rE
  | _ => .rF

/-- ORD (R113). -/
def ordCode : Ord2 → Nat
  | .none => 0
  | .acq => 1
  | .rel => 2
  | .rsv => 3

/-- ORD (R113). -/
def ordOf : Nat → Ord2
  | 0 => .none
  | 1 => .acq
  | 2 => .rel
  | _ => .rsv

/-- SCOPE (R113). -/
def scopeCode : Scope → Nat
  | .ln => 0
  | .grp => 1
  | .team => 2
  | .clu => 3
  | .dev => 4
  | .sys => 5
  | .rsv6 => 6
  | .rsv7 => 7

/-- SCOPE (R113). -/
def scopeOf : Nat → Scope
  | 0 => .ln
  | 1 => .grp
  | 2 => .team
  | 3 => .clu
  | 4 => .dev
  | 5 => .sys
  | 6 => .rsv6
  | _ => .rsv7

/-- RND (R113). -/
def rndCode : Rnd → Nat
  | .rne => 0
  | .rz => 1
  | .rp => 2
  | .rm => 3
  | .rs => 4
  | .rsv5 => 5
  | .rsv6 => 6
  | .rsv7 => 7

/-- RND (R113). -/
def rndOf : Nat → Rnd
  | 0 => .rne
  | 1 => .rz
  | 2 => .rp
  | 3 => .rm
  | 4 => .rs
  | 5 => .rsv5
  | 6 => .rsv6
  | _ => .rsv7

/-- Operand codes (R109). -/
def opndCode : Opnd → Nat
  | .x n => n.val
  | .p n => 64 + n.val
  | .q n => 72 + n.val
  | .rsvA n => 76 + n.val
  | .a n => 80 + n.val
  | .rsvB n => 88 + n.val
  | .imm => 127

/-- Operand codes (R109); a code is below 128. -/
def opndOf (c : Nat) : Opnd :=
  if c < 64 then .x (Fin.ofNat 64 c)
  else if c < 72 then .p (Fin.ofNat 8 (c - 64))
  else if c < 76 then .q (Fin.ofNat 4 (c - 72))
  else if c < 80 then .rsvA (Fin.ofNat 4 (c - 76))
  else if c < 88 then .a (Fin.ofNat 8 (c - 80))
  else if c < 127 then .rsvB (Fin.ofNat 39 (c - 88))
  else .imm

def bitOf (n : Nat) : Bool := n == 1
def bitCode (b : Bool) : Nat := if b then 1 else 0

/-- MOD of format A (R115), from bit 64 up: RND, OPX, TYB, TYA. -/
def packA (m : ModA) : Nat := packNat [(3, rndCode m.rnd), (4, m.opx.toNat), (4, tyCode m.tyb), (4, tyCode m.tya)]
def unpackA (n : Nat) : ModA :=
  match splitNat [3, 4, 4, 4] n with
  | [r, o, b, a] => ⟨tyOf a, tyOf b, BitVec.ofNat 4 o, rndOf r⟩
  | _ => ⟨.none, .none, 0, .rne⟩

/-- MOD of format I (R116): reserved, OPX, TY. -/
def packI (m : ModI) : Nat := packNat [(7, m.rsv.toNat), (4, m.opx.toNat), (4, tyCode m.ty)]
def unpackI (n : Nat) : ModI :=
  match splitNat [7, 4, 4] n with
  | [r, o, t] => ⟨tyOf t, BitVec.ofNat 4 o, BitVec.ofNat 7 r⟩
  | _ => ⟨.none, 0, 0⟩

/-- MOD of format M (R117): PAIR, CNT, AOP, SCOPE, ORD, TY. -/
def packM (m : ModM) : Nat :=
  packNat [(1, bitCode m.pair), (2, m.cnt.toNat), (3, m.aop.toNat), (3, scopeCode m.scope), (2, ordCode m.ord), (4, tyCode m.ty)]
def unpackM (n : Nat) : ModM :=
  match splitNat [1, 2, 3, 3, 2, 4] n with
  | [p, c, a, s, o, t] => ⟨tyOf t, ordOf o, scopeOf s, BitVec.ofNat 3 a, BitVec.ofNat 2 c, bitOf p⟩
  | _ => ⟨.none, .none, .ln, 0, 0, false⟩

/-- MOD of format G (R118): SCOPE, SLOT, CHK, OPX, TY. -/
def packG (m : ModG) : Nat :=
  packNat [(3, scopeCode m.scope), (3, m.slot.val), (1, bitCode m.chk), (4, m.opx.toNat), (4, tyCode m.ty)]
def unpackG (n : Nat) : ModG :=
  match splitNat [3, 3, 1, 4, 4] n with
  | [s, l, c, o, t] => ⟨tyOf t, BitVec.ofNat 4 o, bitOf c, Fin.ofNat 8 l, scopeOf s⟩
  | _ => ⟨.none, 0, false, 0, .ln⟩

/-- MOD of format T (R119): reserved, RND, PROV, TYB, TYA. -/
def packT (m : ModT) : Nat :=
  packNat [(3, m.rsv.toNat), (3, rndCode m.rnd), (1, bitCode m.prov), (4, tyCode m.tyb), (4, tyCode m.tya)]
def unpackT (n : Nat) : ModT :=
  match splitNat [3, 3, 1, 4, 4] n with
  | [v, r, p, b, a] => ⟨tyOf a, tyOf b, bitOf p, rndOf r, BitVec.ofNat 3 v⟩
  | _ => ⟨.none, .none, false, .rne, 0⟩

/-- MOD of format C (R120): reserved, SUB, BCNT, SLOT. -/
def packC (m : ModC) : Nat := packNat [(7, m.rsv.toNat), (4, m.sub.toNat), (1, bitCode m.bcnt), (3, m.slot.val)]
def unpackC (n : Nat) : ModC :=
  match splitNat [7, 4, 1, 3] n with
  | [r, s, b, l] => ⟨Fin.ofNat 8 l, bitOf b, BitVec.ofNat 4 s, BitVec.ofNat 7 r⟩
  | _ => ⟨0, false, 0, 0⟩

/-- MOD of format S (R121): reserved, SCOPE, ORD, SUB. -/
def packS (m : ModS) : Nat := packNat [(6, m.rsv.toNat), (3, scopeCode m.scope), (2, ordCode m.ord), (4, m.sub.toNat)]
def unpackS (n : Nat) : ModS :=
  match splitNat [6, 3, 2, 4] n with
  | [r, c, o, s] => ⟨BitVec.ofNat 4 s, ordOf o, scopeOf c, BitVec.ofNat 6 r⟩
  | _ => ⟨0, .none, .ln, 0⟩

/-- A whole word (R107), from bit 0 up: IMM, MOD, SC, SB, SA, DST, PIDX, PSNS, L for SC, SB and SA, S, U, NX, OPC. -/
def packW {M : Type} (f : M → Nat) (opc : Nat) (w : IW M) : IWord :=
  BitVec.ofNat 128 (packNat [(64, w.imm.toNat), (15, f w.mod), (7, opndCode w.sc), (7, opndCode w.sb), (7, opndCode w.sa),
    (7, opndCode w.dst), (3, w.pidx.val), (1, bitCode w.psns), (1, bitCode w.lc), (1, bitCode w.lb), (1, bitCode w.la),
    (1, bitCode w.s), (1, bitCode w.u), (2, nxCode w.nx), (10, opc)])

/-- The fields of a word of the format whose MOD field `f` reads (R107). -/
def unpackW {M : Type} (f : Nat → M) (v : IWord) : IW M :=
  match splitNat [64, 15, 7, 7, 7, 7, 3, 1, 1, 1, 1, 1, 1, 2, 10] v.toNat with
  | [imm, m, sc, sb, sa, dst, pi, ps, lc, lb, la, s, u, nx, _] =>
    ⟨nxOf nx, bitOf u, bitOf s, bitOf la, bitOf lb, bitOf lc, bitOf ps, Fin.ofNat 8 pi, opndOf dst, opndOf sa, opndOf sb,
      opndOf sc, f m, BitVec.ofNat 64 imm⟩
  | _ => ⟨.seq, false, false, false, false, false, false, 0, .x 0, .x 0, .x 0, .x 0, f 0, 0⟩

/-- OPC, bits 127:118 (R107). -/
def opcOfWord (v : IWord) : Nat := v.toNat / 2 ^ 118

/-- How the fields of a format become an instruction. -/
inductive Maker where
  | a (f : IW ModA → Instr)
  | i (f : IW ModI → Instr)
  | m (f : IW ModM → Instr)
  | g (f : IW ModG → Instr)
  | t (f : IW ModT → Instr)
  | c (f : IW ModC → Instr)
  | s (f : IW ModS → Instr)

/-- The instruction that a word holds whose opcode has this entry. -/
def Maker.make (k : Maker) (v : IWord) : Instr :=
  match k with
  | .a f => f (unpackW unpackA v)
  | .i f => f (unpackW unpackI v)
  | .m f => f (unpackW unpackM v)
  | .g f => f (unpackW unpackG v)
  | .t f => f (unpackW unpackT v)
  | .c f => f (unpackW unpackC v)
  | .s f => f (unpackW unpackS v)

/-- CRYP is one opcode whose SUB names the operation (R499); a SUB that names none fails check 3 of R125 as the
first operation's word does. -/
def cryp (w : IW ModS) : Instr :=
  match w.mod.sub.toNat with
  | 1 => .crypVrfy w
  | 2 => .crypSign w
  | 3 => .crypVtok w
  | _ => .crypHash w

/-- The opcode map (R122): the first opcode of each row and the row's instructions, which take the next opcodes
in turn. -/
def opcodeMap : List (Nat × List Maker) := [
  (0x000, [.i .grd, .i .grdc, .i .grdu]),
  (0x003, [.a .exmr]),
  (0x004, [.i .exmn, .i .succ]),
  (0x006, [.s .trap, .s .bkpt, .s .yld, .s .nop]),
  (0x010, [.a .add, .a .addc, .a .sub, .a .subb, .a .neg, .a .abs, .a .mul, .a .mulh, .a .mulw, .a .mad, .a .madw, .a .div, .a .rem, .a .min, .a .max]),
  (0x020, [.a .and, .a .or, .a .xor, .a .not, .a .andn, .a .shl, .a .shr, .a .sar, .a .rol, .a .clz, .a .ctz, .a .popc, .a .brev, .a .bfx, .a .bfi, .a .sxt, .a .zxt]),
  (0x040, [.a .sel, .a .cmp, .a .cmpx, .a .lea, .a .add64, .a .sub64, .a .mov, .a .movi, .a .movw]),
  (0x050, [.a .pand, .a .por, .a .pxor, .a .pnot, .a .pmov]),
  (0x080, [.g .lxch, .g .lxup, .g .lxdn, .g .lxbf, .g .vote, .g .lred, .g .lscn, .g .lcnt]),
  (0x100, [.a .fadd, .a .fsub, .a .fmul, .a .ffma, .a .fmin, .a .fmax, .a .fabs, .a .fneg, .a .fcmp, .a .fcls, .a .frnd]),
  (0x110, [.a .fdiv, .a .fsqrt, .a .frcp, .a .frsq, .a .fex2, .a .flg2, .a .fsin, .a .fcos, .a .fsig, .a .ftnh]),
  (0x120, [.a .hadd2, .a .hmul2, .a .hfma2, .a .hmin2, .a .hmax2]),
  (0x140, [.a .cvtf, .a .cvti, .a .cvtn]),
  (0x143, [.g .cvtq, .g .cvte]),
  (0x180, [.m .ld, .m .ldnc, .m .st]),
  (0x188, [.m .lds, .m .ldsn, .m .sts, .m .stn]),
  (0x190, [.m .atm, .m .cas, .m .atms, .m .cass]),
  (0x198, [.s .fnc]),
  (0x199, [.m .seal, .m .unsl, .m .prf]),
  (0x1A0, [.g .gath, .g .scat]),
  (0x200, [.s .rgn, .s .step, .s .stepq]),
  (0x204, [.m .fset, .m .fclr, .m .ftst]),
  (0x208, [.s .bari, .s .bara, .s .barw, .s .barx, .s .barq]),
  (0x210, [.s .team]),
  (0x240, [.c .cpl, .c .cplg, .c .cpt, .c .cpo, .c .cpx, .c .shop, .c .pub, .c .cpq, .c .cpc, .c .cpbs]),
  (0x280, [.t .mpost, .t .macq, .t .mrel, .t .mzer, .t .mlda, .t .mrd, .t .msta, .t .mpub, .t .msetl]),
  (0x290, [.t .tadd, .t .tscl, .t .taxpy, .t .tmap, .t .tmul, .t .tcvt]),
  (0x2A0, [.t .tstat, .t .mqui, .t .mtok]),
  (0x300, [.s .fwk, .s .emit, .s .sgnl]),
  (0x308, [.s .rtkt, .s .rput, .s .qbnd, .s .rskp]),
  (0x310, [.s .prio, .s .govh]),
  (0x340, [.s .rdsr, .s .wrsr, .s .time, .s .perf]),
  (0x370, [.s .fusr, .s cryp, .s .wipe, .s .mext, .s .lcst, .s .dbgo])]

/-- The entry of an opcode, if R122 lists it. -/
def lookup (opc : Nat) : List (Nat × List Maker) → Option Maker
  | [] => none
  | (first, l) :: r => if first ≤ opc ∧ opc < first + l.length then l[opc - first]? else lookup opc r

/-- The instruction of a word with a listed opcode, whatever its fields; `none` for an opcode R122 does not list. -/
def rawDecode (v : IWord) : Option Instr := (lookup (opcOfWord v) opcodeMap).map fun k => k.make v

/-- R125 and R126: the instruction a word is on a core of profile `p`, or the cause of the first check that it
fails, in the order of R126. -/
def decode (p : Profile) (v : IWord) : Except Cause Instr :=
  if opcOfWord v = 0x3FF then .error .illegal
  else
    match rawDecode v with
    | none => .error .undefined
    | some i =>
      match cause p i with
      | some c => .error c
      | none => .ok i

/-- The fields of a format with their opcode, as a word. -/
def encodeFields (opc : Nat) : Fields → IWord
  | .a w => packW packA opc w
  | .i w => packW packI opc w
  | .m w => packW packM opc w
  | .g w => packW packG opc w
  | .t w => packW packT opc w
  | .c w => packW packC opc w
  | .s w => packW packS opc w

/-- The word of an instruction (R107, R122); a device or host event has none. -/
def encode (i : Instr) : Option IWord := (wordOf i).map fun w => encodeFields w.opc w.fields

/-- The 16 bytes of a word from the lowest address (R107: little-endian). -/
def wordBytes (v : IWord) : List Byte := (List.range 16).map fun k => v.extractLsb' (8 * k) 8

/-- The word that 16 bytes hold, the first byte lowest (R107). -/
def wordOfBytes (l : List Byte) : IWord := BitVec.ofNat 128 (packNat (l.map fun b => (8, b.toNat)))

/-- The profile whose opcode it is (R124): the management core's for 0x370 to 0x375, else the trace core's. -/
def profileOf (v : IWord) : Profile :=
  if 0x370 ≤ opcOfWord v ∧ opcOfWord v ≤ 0x375 then .mgmt else .trace

end Decode

/-- The instruction that the decoder reads from the bits of `w`, laid out as 16 bytes with the lowest byte first, on
the core whose profile has its opcode. A word has 128 bits (R107); bits above `nbits` are 0. -/
def decodeTableWord (nbits w : Nat) : Option Instr :=
  let v := Decode.wordOfBytes (Decode.wordBytes (BitVec.ofNat 128 (w % 2 ^ nbits)))
  match Decode.decode (Decode.profileOf v) v with
  | .ok i => some i
  | .error _ => none

end Sys2Proof
end

