-- ==== Sys2Proof/Machine/Store.lean ====
section
/-! DEFINITION. Sparse tables in one canonical form: keys strictly rising and no entry equal to what an unlisted key
reads as. Memory is such a table of bytes; so is every array of units, groups and entries. -/
namespace Sys2Proof.Machine
open Sys2Proof

/-- A sparse table from a key to plain data. -/
abbrev SMap (α : Type) := List (Nat × α)

/-- The entry of key `k`; `d` where it is not listed. -/
def sget {α : Type} (d : α) : SMap α → Nat → α
  | [], _ => d
  | (j, v) :: r, k => if j = k then v else sget d r k

/-- Insert an entry before the first greater key. -/
def sins {α : Type} (k : Nat) (v : α) : SMap α → SMap α
  | [] => [(k, v)]
  | (j, u) :: r => if k < j then (k, v) :: (j, u) :: r else (j, u) :: sins k v r

/-- Make key `k` read as `v`, keeping the canonical form. -/
def sset {α : Type} [DecidableEq α] (d : α) (m : SMap α) (k : Nat) (v : α) : SMap α :=
  let r := m.filter fun e => e.1 != k
  if v = d then r else sins k v r

/-- Every key above `b` and strictly rising, and no entry equal to `d`. -/
def swf {α : Type} [DecidableEq α] (d : α) : Option Nat → SMap α → Bool
  | _, [] => true
  | b, (j, v) :: r => (match b with | none => true | some k => decide (k < j)) && decide (v ≠ d) && swf d (some j) r

/-- The table that reads as `a` at the keys `sel` picks and as `b` elsewhere. -/
def smerge {α : Type} [DecidableEq α] (d : α) (sel : Nat → Bool) (a b : SMap α) : SMap α :=
  (a.filter fun e => sel e.1).foldr (fun e m => sset d m e.1 e.2) (b.filter fun e => !sel e.1)

/-- Apply `f` to the entry of key `k`. -/
def supd {α : Type} [DecidableEq α] (d : α) (m : SMap α) (k : Nat) (f : α → α) : SMap α := sset d m k (f (sget d m k))

/-- Memory: bytes by address. An unlisted byte reads as 0. -/
abbrev Memory := List Host.Cell

/-- The canonical form of a memory. -/
def memWf (m : Memory) : Bool := swf (0 : Byte) none m

def memGet (m : Memory) (a : Nat) : Byte := sget 0 m a
def memSet (m : Memory) (a : Nat) (v : Byte) : Memory := sset 0 m a v

/-- Bytes `a`, `a + 1`, ..., in ascending order of address. -/
def memRead (m : Memory) (a : Nat) : Nat → List Byte
  | 0 => []
  | n + 1 => memGet m a :: memRead m (a + 1) n

def memWrite (m : Memory) (a : Nat) : List Byte → Memory
  | [] => m
  | v :: r => memWrite (memSet m a v) (a + 1) r

/-- A little-endian number (R3). -/
def leNat : List Byte → Nat
  | [] => 0
  | v :: r => v.toNat + 256 * leNat r

/-- The `n` low bytes of a number, lowest first (R3). -/
def leBytes : Nat → Nat → List Byte
  | 0, _ => []
  | n + 1, v => BitVec.ofNat 8 v :: leBytes n (v / 256)

/-- Bits hi:lo of a number. -/
def nbits (v hi lo : Nat) : Nat := v / 2 ^ lo % 2 ^ (hi + 1 - lo)

/-- `v` placed at bit `lo` in a field of `n` bits. -/
def fieldAt (lo n v : Nat) : Nat := v % 2 ^ n * 2 ^ lo

/-- The number with its field of `n` bits at `lo` replaced by `v`. -/
def setField (w lo n v : Nat) : Nat := w - nbits w (lo + n - 1) lo * 2 ^ lo + fieldAt lo n v

/-- Two's complement reading of the low `n` bits. -/
def toSigned (n v : Nat) : Int := if v % 2 ^ n < 2 ^ (n - 1) then (v % 2 ^ n : Nat) else (v % 2 ^ n : Nat) - (2 ^ n : Nat)

/-- An integer modulo 2^n. -/
def ofSigned (n : Nat) (v : Int) : Nat := (v % (2 ^ n : Nat)).toNat

end Sys2Proof.Machine
end

