-- ==== Sys2Proof/Machine/GroupState.lean ====
section
/-! DEFINITION. The state of one resident group: its paths, its versioned registers, its running trace, its buffered
effects, and what its lanes wait for (R71 to R106). -/
namespace Sys2Proof.Machine
open Sys2Proof Sys2Proof.Checks

/-- States of a path-table entry (R79). -/
inductive PState where
  | empty | ready | running | budgetWait | fetchWait | syncWait | replay | parked | halted | held
  deriving DecidableEq, Repr

/-- STATE of R79. -/
def PState.code : PState → Nat
  | .empty => 0 | .ready => 1 | .running => 2 | .budgetWait => 3 | .fetchWait => 4 | .syncWait => 5
  | .replay => 6 | .parked => 7 | .halted => 8 | .held => 9

/-- Where a byte of an access stands: device memory, host memory, a scratchpad of a cluster, the management SRAM. -/
inductive Space where
  | dev | host | spad | sram
  deriving DecidableEq, Repr

/-- A trap as it is raised (R236): what its record will carry. -/
structure Trap where
  code : Nat
  cause : Nat := 0
  off : Nat := 0
  addr : Nat := 0
  tcode : Nat := 0
  word : IWord := 0
  deriving DecidableEq, Repr

/-- Why a lane left the execution mask (R84, R231, R236, R454). -/
inductive Leave where
  | stop
  | alt (t : Nat)
  | fault (addr : Nat) (kind : AccKind) (wr : Bool)
  | trap (t : Trap)
  deriving DecidableEq, Repr

/-- Operations of an atomic (R117 AOP, R213). -/
inductive AtOp where
  | add | min | max | and | or | xor | exch | cas
  deriving DecidableEq, Repr

/-- The copies (R302). -/
inductive CopyKind where
  | cpl | cplg | cpt | cpo | cpx
  deriving DecidableEq, Repr

/-- A copy as it is issued (R303 to R307), one for a lane or one for a tile. `pages` are the pages of the range that it was
checked against (R298), by index; `ofs` is the place of the range's first byte in its first page. `saddr` is the
cluster address, `goff` the offset in the range, `len` the bytes of a lane copy. `desc` is the tile's descriptor and `fmt`
its storage format. `handle` is none for the scratchpad source of CPX. -/
structure CopyReq where
  kind : CopyKind
  handle : Option Nat := none
  shadow : Bool := false
  vbase : Nat := 0
  psize : Nat := 1
  ofs : Nat := 0
  pages : List (Nat × Nat) := []
  lane : Nat := 0
  saddr : Nat := 0
  goff : Nat := 0
  len : Nat := 0
  desc : Nat := 0
  fmt : Nat := 0
  slot : Nat := 0
  bar : Option Nat := none
  dst : Nat := 0
  deriving DecidableEq, Repr

/-- The tile operations (R347). -/
inductive TileKind where
  | mrel | mzer | mlda | mrd | msta | mpub | tadd | tscl | taxpy | tmap | tmul | tcvt
  deriving DecidableEq, Repr

/-- A tile operation with its operands (R346). Tiles are numbers of the quad's floe; 8 names none. `h` is the handle that
MREL and MPUB release, `grp` the group that MPUB names. -/
structure TileReq where
  kind : TileKind
  d : Nat := 8
  a : Nat := 8
  b : Nat := 8
  addr : Nat := 0
  saddr : Nat := 0
  k : Nat := 0
  seed : Nat := 0
  pitch : Nat := 0
  tid : Nat := 0
  ty : Ty := .none
  rnd : Rnd := .rne
  sat : Bool := false
  ftz : Bool := false
  qk : Nat := 0
  fn : Nat := 0
  prov : Bool := false
  row : Nat := 0
  dst : Nat := 0
  h : Nat := 0
  grp : Nat := 0
  deriving DecidableEq, Repr

/-- A buffered or committed effect (R53, R89). -/
inductive Eff where
  | store (sp : Space) (va pa : Nat) (bytes : List Byte)
  | stn (addr : Nat) (ty : Ty) (data : List Word)
  | atom (sp : Space) (va pa : Nat) (op : AtOp) (ty : Ty) (b c : Nat) (dst : Nat)
  | scat (sp : Space) (va pa : Nat) (bytes : List Byte) (slot : Nat)
  | line (addr : Nat) (full : Bool)
  | bari (addr : Nat) (slot : Nat) (exp : Nat)
  | barx (addr : Nat) (amount : Nat)
  | rgn (slot : Nat) (place config : Word) (dst : Nat)
  | team (slot : Nat) (b : Word) (dst : Nat)
  | seal (undo : Bool) (va len : Nat) (dst : Nat)
  | prio (lvl : Word) (dst : Nat)
  | govh (sub : Nat) (addr : Nat)
  | rtkt (hdr : Nat) (byteRing : Bool) (len : Nat) (dst : Nat)
  | rput (hdr addr : Nat) (pad : Bool)
  | retire (hdr recd : Nat)
  | qbnd (n : Nat) (off : Option Nat)
  | wrsr (slot : Nat) (v : Word)
  | fwk (node addr cap : Nat)
  | copy (c : CopyReq)
  | shop (handle : Nat) (sub : Nat) (dst : Nat)
  | cpc (slot : Nat)
  | cpbs (slot dst : Nat)
  | post (recd : Nat) (snapA snapB : Option Nat)
  | macq (h : Nat) (own : Bool) (dst : Nat)
  | tile (t : TileReq)
  | tstat (tid : Option Nat) (dst : Nat)
  | emit (addr : Nat)
  | fusr (n : Nat) (dst : Nat)
  | cryp (sub : Nat) (addr : Nat) (dst : Nat)
  | wipe (mask : Nat) (dst : Nat)
  | mext (n : Nat) (addr len : Nat) (dst : Nat)
  | lcst (nxt : Nat) (dst : Nat)
  | lcstWipe (dst : Nat)
  | dbgo (mask : Nat) (dst : Nat)
  deriving DecidableEq, Repr

/-- One effect-buffer entry: the lanes it stands for (one, or every acting lane of an effect that acts once for the
path), its ordering (R113) and the offset of its instruction. -/
structure Buffered where
  lanes : Mask
  eff : Eff
  ord : Ord2 := .none
  scope : Scope := .ln
  off : Nat := 0
  deriving DecidableEq, Repr

/-- What the lanes of a path in sync-wait wait for (R79, R123). -/
inductive Sync where
  | none
  | step (tmx tix off : Nat) (word : IWord)
  | barArrive (addr : Nat) (dst : Nat) (wait : Bool)
  | barWait (addr tok : Nat) (dst : Option Nat)
  | fence (ord : Ord2) (scope : Scope)
  | fwk (node addr cap : Nat)
  | emit (node : Nat)
  | sgnl (sp : Space) (addr : Nat) (amount : Nat) (irq : Bool) (scope : Scope)
  | pub (handle : Nat)
  | msetl (tile serial : Nat)
  deriving DecidableEq, Repr

/-- One entry of the path table (R78), with what the debug chapter adds to it (R450, R452, R458, R459), the counts of faults
(R232) and version replays (R468) of its next trace, `wakeHold`, the cause with which lanes in sync-wait are held when
their effect completes (R458), `tno` and `stix`, the number and index of the trace whose synchronising effect they wait for, and `since`, the order in which
entries began to wait for registers (R83). -/
structure Path where
  tix : Nat := 0
  state : PState := .empty
  mask : Mask := 0
  sync : Sync := .none
  ust : PState := .empty
  cause : Nat := 0
  mid : Bool := false
  off : Nat := 0
  soff : Nat := 0
  wv : Bool := false
  wpn : Nat := 0
  addr : Nat := 0
  disc : Bool := false
  rcnt : Nat := 0
  vrep : Nat := 0
  skipB : Bool := false
  skipW : Bool := false
  wakeHold : Nat := 0
  tno : Nat := 0
  stix : Nat := 0
  since : Nat := 0
  again : List Nat := []
  deriving DecidableEq, Repr

/-- One version of the group's registers (R93, R94). Keys: 64 × lane + k for x, 8 × lane + k for p, the lane for the
CLOCK latch, 4 × lane + n for the stream bindings (an offset from SPB, plus 1; 0 is unbound). `pend` says what a register
still waits for (R99 to R101; Ops gives its values).
`ghost` holds results still on their way to registers that have been written since: key and `pend` value (R101).
`uni` marks registers in uniform form (R96). -/
structure Vers where
  x : SMap Word := []
  p : SMap Bool := []
  pend : SMap Nat := []
  ghost : List (Nat × Nat) := []
  clk : SMap DWord := []
  qb : SMap Nat := []
  uni : DWord := 0
  deriving DecidableEq, Repr

/-- A record popped by the running trace: the lane, the ring header and the record's place (R414). -/
structure Pop where
  lane : Nat
  hdr : Nat
  recd : Nat
  deriving DecidableEq, Repr

/-- The synchronising instruction that ends a trace, as it was issued (R123). -/
structure SyncReq where
  lanes : Mask
  slot : Nat
  sync : Sync
  deriving DecidableEq, Repr

/-- Why a path stopped at an instruction (R454). -/
structure PathStop where
  cause : Nat
  soff : Nat
  wpn : Option Nat := none
  addr : Nat := 0
  deriving DecidableEq, Repr

/-- What the end of a trace finds: the lanes that commit, those that version replay takes, and the traps. -/
structure EndPlan where
  commit : Mask
  lost : Mask
  traps : List (Nat × Trap)
  deriving DecidableEq, Repr

/-- A commit that has begun (R86): its plan, the effects still to leave the core, the slots that its SCATs have bound with the masks that they
started from (R226), and the registers and link stacks at trace entry, which the slot of a trap shows (R238). -/
structure Sending where
  plan : EndPlan
  rest : List Buffered
  com : Vers
  link : SMap (List Nat)
  bound : List (Nat × Word) := []
  deriving DecidableEq, Repr

/-- The running trace of a group (R80 to R90). `sending` is its commit once that has begun, `smp` the offsets and acting lanes of its instructions
that were sampled, `again` the offsets that are sampled again (R468). -/
structure Run where
  path : Nat
  tix : Nat
  entry : Mask
  exm : Mask
  words : List IWord
  off : Nat := 0
  sk : Nat := 0
  link : Nat := 0
  succ : Nat := 0
  retix : Nat := 0
  regs : Nat := 0
  nx : Nx := .seq
  ended : Bool := false
  leaves : SMap (Option Leave) := []
  bufs : List Buffered := []
  dyingX : SMap Bool := []
  dyingP : SMap Bool := []
  written : DWord := 0
  sync : Option SyncReq := none
  wrote : SMap Bool := []
  slots : List Nat := []
  scats : List Nat := []
  gath : List (Nat × Nat × Word) := []
  pops : List Pop := []
  vread : List (Nat × Nat × Nat) := []
  tno : Nat := 0
  rcnt : Nat := 0
  vrep : Nat := 0
  again : List Nat := []
  smp : List (Nat × Mask) := []
  skipB : Bool := false
  skipW : Bool := false
  hold : Nat := 0
  pathStop : Option PathStop := none
  sending : Option Sending := none
  deriving DecidableEq, Repr

/-- An element of a GATH that has not arrived: its virtual address, its bytes, and where it goes (R225, R227). -/
structure Elem where
  slot : Nat
  lane : Nat
  va : Nat
  n : Nat
  dst : Nat
  deriving DecidableEq, Repr

/-- State of a completion-bitmap slot (R106, R224). -/
inductive CpbState where
  | done | preset | bound
  deriving DecidableEq, Repr

structure Cpb where
  val : Word := 0
  st : CpbState := .done
  deriving DecidableEq, Repr

/-- Step mode of a group (R458): off, on with nothing to run, running a trace, issuing one instruction, waiting for that
instruction's results. -/
inductive StepMode where
  | off | idle | trace | inst | settle
  deriving DecidableEq, Repr

/-- One resident group. Links are keyed by lane, with the top of the stack first (R77). `perf` holds the counters of
R157, `lcn` the lane commit numbers of R475, `twice` 1 + the trace index at which a lane last met version replay, and `vhold` lane, trace index and object where it met it twice in a
row (R22). `elems` are the elements of GATHs on their way, `rescat` says that elements of SCATs were issued anew at a resume (R227). `stepRegs` are the
results that a stepped instruction waits for, `late` the deferred results since the last instruction with S = 1 (R458).
`walkFault` are the pages whose walk faulted, with WR. `sbw` holds the scoreboarded elements on their way to registers: (kind of access, slot, lane, register, value). `hskid` and `hdisc` tell of the stop for a
batch halt (R241), `skid` and `disc` of the debugger's (R450). `still` says that the group's last turn to issue was a stall, `lastTix` is the trace index
of its last commit (R469). -/
structure Group where
  res : Bool := false
  ctx : Nat := 0
  btag : Nat := 0
  gnum : Nat := 0
  clu : Nat := 0
  core : Nat := 0
  trk : Nat := 0
  slot : Nat := 0
  prof : Profile := .trace
  live : Mask := 0
  paths : SMap Path := []
  com : Vers := {}
  work : Vers := {}
  run : Option Run := none
  link : SMap (List Nat) := []
  cpb : SMap Cpb := []
  team : SMap Nat := []
  hnd : SMap Nat := []
  perf : SMap Word := []
  lcn : SMap Nat := []
  alloc : DWord := 0
  dead : SMap Bool := []
  sbw : List (Nat × Nat × Nat × Nat × Word) := []
  walkFault : List (Nat × Bool) := []
  twice : SMap Nat := []
  vhold : List (Nat × Nat × Nat) := []
  elems : List Elem := []
  rescat : Bool := false
  stopped : Bool := false
  hskid : Nat := 0
  hdisc : Bool := false
  skid : Nat := 0
  disc : Bool := false
  stopTix : Nat := 0
  stopState : PState := .empty
  parked : Bool := false
  yielded : Bool := false
  step : StepMode := .off
  stepPath : Nat := 0
  stepRegs : List Nat := []
  late : List Nat := []
  frozen : Bool := false
  debugStop : Bool := false
  stopPath : Nat := 32
  recoveryStop : Bool := false
  evict : Bool := false
  still : Bool := false
  lastTix : Option Nat := none
  deriving DecidableEq, Repr

end Sys2Proof.Machine
end

