-- ==== Sys2Proof/Machine/UnitState.lean ====
section
/-! DEFINITION. The state of batches, teams, contexts, packages, bins, queues and translations (R230 to R300 and
R386 to R447). -/
namespace Sys2Proof.Machine
open Sys2Proof Sys2Proof.Checks

/-- A committed effect that has left its core and is not yet performed (R53). `lanes` are the lanes it stands for and
`tno` the trace that held it, by which a release finds the other effects of its trace (R67). `gnum` and `lcn` name the group and, for
a lane's own effect, the lane's commit number (R475). -/
structure Flight where
  g : GKey
  btag : BTag
  gnum : Nat := 0
  lcn : Nat := 0
  lanes : Mask
  tno : Nat
  eff : Eff
  ord : Ord2 := .none
  scope : Scope := .ln
  off : Nat := 0
  deriving DecidableEq, Repr

/-- A group as a party (R49), by its cluster, batch and number, which it keeps wherever it stands. -/
structure Party where
  clu : Nat
  btag : Nat
  gnum : Nat
  deriving DecidableEq, Repr

/-- What carries a write to those who acquire it (R65): a release by a group or by the command processor, or a line set full. -/
inductive Mark where
  | cp
  | rel (p : Party)
  | line (n : Nat)
  deriving DecidableEq, Repr

/-- What some lanes still see of a write that others already see (R52, R54, R63): the bytes as they stood before it. `writer` is the
group that wrote, `marks` are the events that have carried the write since. -/
structure Stale where
  g : GKey
  lanes : Mask
  sp : Space
  pa : Nat
  old : List Byte
  writer : Party
  marks : List Mark := []
  deriving DecidableEq, Repr

/-- Term state of one element of a dual region (R281). An exact `.f32` sum is an integer count of 2^(−149). -/
structure Term where
  w : Bool := false
  m : Bool := false
  rank : Nat := 0
  lane : Nat := 0
  wgrp : Nat := 0
  n : Nat := 0
  cap : Bool := false
  sum : Int := 0
  nan : Bool := false
  pinf : Bool := false
  ninf : Bool := false
  pos : Bool := false
  deriving DecidableEq, Repr

/-- Records that committing lanes of a path emit, in lane order: lane and scratchpad address (R405). -/
structure Emit where
  g : GKey
  tno : Nat
  ctx : Nat
  btag : Nat
  node : Nat
  items : List (Nat × Nat)
  deriving DecidableEq, Repr

/-- One trap record of a halt (R239, R511), with the registers, predicates and link-stack depths at trace entry that its slot
takes (R238), keyed as in a version, and the collision block of a Plane-Collision (R285). -/
structure HaltRec where
  g : GKey
  path : Nat
  lanes : Mask
  exms : Mask
  tix : Nat
  trap : Trap
  gnum : Nat
  clu : Nat
  core : Nat
  trk : Nat
  slot : Option Nat := none
  collision : Option (Nat × List Nat) := none
  ended : Bool := false
  regs : SMap Word := []
  preds : SMap Bool := []
  depths : SMap Nat := []
  deriving DecidableEq, Repr

/-- A batch halt in progress (R240). -/
structure Halt where
  seq : Nat
  recs : List HaltRec := []
  expired : Bool := false
  running : Bool := false
  deriving DecidableEq, Repr

/-- A resident batch (R71, R400). `regions` holds the 64-bit entries of R257, `pstore` the place of each region's
second plane, counted from SPB (R258), `settle` the bytes of settle store that the launch gave it (R281), `placed` the order of
placements (R419). -/
structure Batch where
  res : Bool := false
  ctx : Nat := 0
  node : Nat := 0
  corr : Nat := 0
  prio : Nat := 0
  rank : Nat := 1
  clu : Nat := 0
  core : Nat := 0
  spb : Nat := 0
  sps : Nat := 0
  mbox : Nat := 0
  planes : Nat := 0
  codeBase : Nat := 0
  codeLen : Nat := 0
  ttBase : Nat := 0
  ttNum : Nat := 0
  groups : SMap GKey := []
  ngroups : Nat := 0
  ended : SMap Bool := []
  regions : SMap Nat := []
  pstore : SMap Nat := []
  terms : SMap Term := []
  masked : Bool := false
  parent : Option (BTag × Nat) := none
  halt : Option Halt := none
  gov : Option Nat := none
  origins : List Nat := []
  settle : Nat := 0
  placed : Nat := 0
  deriving DecidableEq, Repr

/-- A team-table entry (R264). `members` and `arrived` have bit g for group g of the batch. -/
structure Team where
  v : Bool := false
  btag : BTag := 0
  members : Nat := 0
  nmem : Nat := 0
  nlive : Nat := 0
  narr : Nat := 0
  arrived : Nat := 0
  steps : Nat := 0
  lastG : GKey := 0
  lastNum : Nat := 0
  lastPath : Nat := 0
  lastTix : Nat := 0
  lastOff : Nat := 0
  lastWord : IWord := 0
  deriving DecidableEq, Repr

/-- A node of a loaded package (R396), with what its kernel declares (n7 to n63). `teams` holds a slot and its groups for each
`.team` line, `regions` a region-table entry without TMX and the slot of its team for each `.region` line, `edges` the
node indices that the kernel's EMIT and FWK may name. -/
structure Node where
  groups : Nat := 1
  coalesce : Nat := 1
  timer : Nat := 0
  record : Nat := 0
  entry : Nat := 0
  codeBase : Nat := 0
  codeLen : Nat := 0
  ttBase : Nat := 0
  ttNum : Nat := 0
  spad : Nat := 0
  teams : List (Nat × List Nat) := []
  regions : List (Nat × Option Nat) := []
  edges : List Nat := []
  deriving DecidableEq, Repr

structure Package where
  num : Nat
  nodes : List Node
  pages : List Nat := []
  deriving DecidableEq, Repr

/-- What the bytes of a graph package say (R396): its declared revision and its nodes. -/
structure PackageImage where
  rev : Nat
  nodes : List Node
  deriving DecidableEq, Repr

/-- One record in a bin: its bytes, the DISPATCHes it descends from, its priority. -/
structure Rec where
  bytes : List Byte := []
  origins : List Nat := []
  prio : Nat := 0
  deriving DecidableEq, Repr

/-- A node's bin (R398). -/
structure Bin where
  recs : List Rec := []
  deriving DecidableEq, Repr

/-- A batch formed and not yet placed (R399, R400); `seq` is its number among the batches of its node. A handler batch has its parent, record index and mailbox. -/
structure Formed where
  ctx : Nat
  node : Nat
  recs : List Rec
  prio : Nat
  corr : Nat := 0
  parent : Option (BTag × Nat) := none
  seq : Nat := 0
  deriving DecidableEq, Repr

/-- A DISPATCH in progress (R399, R402). `prio` is the priority of its queue (R401), `away` whether another context has taken the queue over
since (R9). -/
structure Dispatch where
  id : Nat
  ctx : Nat
  q : Nat
  node : Nat
  addr : Nat
  count : Nat
  entered : Nat := 0
  signal : Nat := 0
  pkt : Nat := 0
  prio : Nat := 0
  away : Bool := false
  deriving DecidableEq, Repr

/-- A shadow beside its handle-table entry (R311 to R313): the rime page reserved for each page of the range, the pages
written, and whether it was opened clear, which its SST no longer says while a publish is pending. -/
structure Shadow where
  idx : Nat
  clear : Bool := false
  rime : List Nat := []
  written : List Nat := []
  deriving DecidableEq, Repr

/-- An entry of a copy engine (R293): the copies of one instruction of one trace, and the lanes or rows that have landed;
`start` is the bitmap that the slot started from (R307), `off` the offset of the instruction. Its group is the one of its batch and number, which pre-emption may
have saved; `g` is the slot where it stands. A CPBS waits in an entry of its own, with no copy. -/
structure Job where
  core : CKey
  g : GKey
  btag : BTag
  gnum : Nat := 0
  ctx : Nat
  lanes : Mask
  tno : Nat
  items : List CopyReq := []
  start : Mask := 0
  landed : Mask := 0
  off : Nat := 0
  cpbs : Option (Nat × Nat) := none
  deriving DecidableEq, Repr

/-- A PUB that waits for the copies through its shadow (R313). -/
structure PubWait where
  g : GKey
  tno : Nat
  ctx : Nat
  handle : Nat
  deriving DecidableEq, Repr

/-- An accumulator tile with its tile-table entry (R326). Element (r, c) stands at 32r + c. -/
structure Tile where
  v : Bool := false
  tst : Nat := 0
  btag : Nat := 0
  group : Nat := 0
  el : SMap Word := []
  deriving DecidableEq, Repr

/-- States of a reservation entry (R328). -/
inductive EntState where
  | free | waiting | eligible | running | settling | writing
  deriving DecidableEq, Repr

/-- A reservation entry (R328). `born` is the CLOCK count at its post and `age` what a save has added; `lin` is the lineage
entry of a cream task, `derived` whether it is a matrix derivation; `nan0` are the elements that were NaN when the task
began (R177); `heldA` and `heldB` are rows that a split BF16 group still waits with (R336). -/
structure Ent where
  st : EntState := .free
  recd : Nat := 0
  done : Nat := 0
  age : Nat := 0
  born : Nat := 0
  serial : Nat := 0
  g : GKey := 0
  lanes : Mask := 0
  tno : Nat := 0
  snapA : Option Nat := none
  snapB : Option Nat := none
  lin : Option Nat := none
  derived : Bool := false
  nan0 : List Nat := []
  heldA : List (List Byte) := []
  heldB : List (List Byte) := []
  deriving DecidableEq, Repr

/-- An entry of the tile-operation queue (R347). `lanes` are those that it answers, `com` those that commit with it (R348). `lin` is the lineage entry that it makes, `prov` the PROV
sources that stood in an open lineage (R373). -/
structure TileOp where
  serial : Nat
  g : GKey
  btag : Nat
  lanes : Mask
  com : Mask := 0
  tno : Nat := 0
  req : TileReq
  lin : Option Nat := none
  prov : List Nat := []
  deriving DecidableEq, Repr

/-- A lineage entry with its whey tile (R369, R370). `clsSerial` is the serial of the close, `made` that of the creation. -/
structure Lin where
  v : Bool := false
  kind : Nat := 0
  lvl : Nat := 0
  par : Nat := 0
  root : Nat := 0
  cls : Bool := false
  whc : Bool := false
  stl : Bool := false
  ghost : Bool := false
  tile : Nat := 0
  rnd : Rnd := .rne
  nder : Nat := 0
  arg : Nat := 0
  tid : Nat := 0
  btag : Nat := 0
  made : Nat := 0
  clsSerial : Nat := 0
  whey : SMap Word := []
  deriving DecidableEq, Repr

/-- A statistics drain under way (R179): its counts, and the TSTAT that waits for it. -/
structure Drain where
  ctx : Nat
  btag : Nat
  counts : List (Nat × Nat)
  g : Option (GKey × Mask × Nat) := none
  deriving DecidableEq, Repr

/-- A floe (R323 to R383). `stats` is keyed 3 × identifier + (0 SAT, 1 FTZ, 2 NAN). -/
structure Floe where
  tiles : SMap Tile := []
  ents : SMap Ent := []
  snaps : SMap (List Word) := []
  queue : List TileOp := []
  lins : SMap Lin := []
  serial : Nat := 0
  stats : SMap Nat := []
  statCtx : Nat := 0
  drains : List Drain := []
  inFlight : Option Nat := none
  churn : Option Nat := none
  quiesce : Bool := false
  quiet : Bool := false
  deriving DecidableEq, Repr

/-- A context (R394). Address fields are those of its descriptor. -/
structure Ctx where
  bound : Bool := false
  failed : Bool := false
  rev1 : Bool := false
  recov : Bool := false
  nh : Nat := 0
  ptroot : Nat := 0
  htab : Nat := 0
  shdw : Nat := 0
  trapn : Nat := 0
  rime : Nat := 0
  trapa : Nat := 0
  cola : Nat := 0
  stata : Nat := 0
  savea : Nat := 0
  savel : Nat := 0
  bina : Nat := 0
  faila : Nat := 0
  pkgs : List Package := []
  bins : SMap Bin := []
  seqs : SMap Nat := []
  haltSeq : Nat := 0
  slots : Nat := 0
  fwkSeq : Nat := 0
  stoppedQueues : Bool := false
  unbinding : Bool := false
  shadows : List Shadow := []
  deriving DecidableEq, Repr

/-- A packet that has started, in parse step `step`, and is not complete (R390). -/
structure Packet where
  idx : Nat
  op : Nat
  bytes : List Byte
  step : Nat := 0
  deriving DecidableEq, Repr

/-- A queue known to the command processor (R387, R388). `bad` is the context for which its descriptor was reported as malformed. -/
structure Queue where
  resident : Bool := false
  ctx : Nat := 0
  rbase : Nat := 0
  rsize : Nat := 0
  prio : Nat := 0
  enabled : Bool := false
  ridx : Nat := 0
  widx : Nat := 0
  inProg : List Packet := []
  waiting : Bool := false
  stopped : Bool := false
  outSince : Nat := 0
  slot : Nat := 0
  bad : Option Nat := none
  deriving DecidableEq, Repr

/-- A translation held by the TLB of a cluster, or of one of its cores (R433). -/
structure Tlb where
  clu : Nat
  ctx : Nat
  vpage : Nat
  size : Nat
  ppage : Nat
  w : Bool
  sealed : Bool
  host : Bool
  core : Option Nat := none
  deriving DecidableEq, Repr

/-- A page walk asked for by a core (R433): for a group, or for PRF, which waits for nothing and loads the line too; `wr` for a write. Those of one
die for one page are one walk. -/
structure Walk where
  clu : Nat
  core : Nat
  ctx : Nat
  va : Nat
  g : Option GKey
  wr : Bool := false
  deriving DecidableEq, Repr

/-- A fault record (R232) waiting to be written to a ring, or written and unanswered (R436). `unres` keeps an answer Unresolvable that came
while the group was saved or its batch's handlers ran (R233, R247). -/
structure FaultRec where
  g : GKey
  btag : BTag
  path : Nat
  ctx : Nat
  va : Nat
  kind : AccKind
  wr : Bool
  tix : Nat
  rcnt : Nat
  lanes : Mask
  gnum : Nat
  clu : Nat
  core : Nat
  trk : Nat
  mgmt : Bool := false
  idx : Option Nat := none
  unres : Bool := false
  deriving DecidableEq, Repr

/-- A decrement of a completion signal on its way (R392, R393); `g` is the group and the trace whose lanes wait for it,
`pkt` the queue and index of the packet that it completes. -/
structure SigDec where
  ctx : Nat
  sp : Space
  addr : Nat
  amount : Nat
  irq : Bool := false
  g : Option (GKey × Nat) := none
  scope : Scope := .sys
  pkt : Option (Nat × Nat) := none
  deriving DecidableEq, Repr

/-- A code line that a core holds, or a poisoned copy that it has dropped and not fetched again (R128, R248). -/
structure CodeLine where
  core : CKey
  ctx : Nat
  line : Nat
  poison : Bool := false
  dropped : Bool := false
  deriving DecidableEq, Repr

/-- An answer owed to a withdrawal of records (R406). -/
structure Fwk where
  g : GKey
  btag : BTag
  ctx : Nat
  node : Nat
  clu : Nat
  addr : Nat
  cap : Nat
  deriving DecidableEq, Repr

/-- A ring ticket taken at commit whose payload address waits for room (R412). -/
structure Ticket where
  g : GKey
  lane : Nat
  dst : Nat
  hdr : Nat
  clu : Nat
  btag : BTag
  byteRing : Bool
  t : Nat
  f : Nat
  len : Nat
  pad : Bool
  value : Nat
  deriving DecidableEq, Repr

end Sys2Proof.Machine
end

