-- ==== Sys2Proof/Machine/DeviceState.lean ====
section
/-! DEFINITION. The state of the parts that serve the whole device: the register window and the management core. -/
namespace Sys2Proof.Machine
open Sys2Proof Sys2Proof.Checks

/-- The registers of the register window that hold a value (R434, R436, R464, R480, R481, R488, R493), and how far the host has resized the
aperture beyond 1 GiB, as a power of two (R479). (DESIGN CHOICE, log 5.) -/
structure HostRegs where
  qtbase : DWord := 0
  qtn : DWord := 0
  ctbase : DWord := 0
  ctxcmd : DWord := 0
  hcfg : DWord := 0
  apbase : DWord := 0
  tlbiva : DWord := 0
  tlbilen : DWord := 0
  tlbictl : DWord := 0
  frbase : DWord := 0
  frwr : DWord := 0
  fans : DWord := 0
  tsbase : DWord := 0
  tslen : DWord := 0
  tswr : DWord := 0
  tsrd : DWord := 0
  lwbase : DWord := 0
  lwcmd : DWord := 0
  mbsts : DWord := 0
  apsize : Nat := 0
  deriving DecidableEq, Repr

/-- What the bytes of a firmware image say (R502, R506): its signed payload, the place of the command-processor section in it, the signing
key's modulus, the signature, its version and its rollback floor. -/
structure FwImage where
  payload : List Byte
  cpOff : Nat
  cpLen : Nat
  modulus : List Byte
  sig : List Byte
  version : Nat
  floor : Nat
  deriving DecidableEq, Repr

/-- A unit taken out of use (R2, R438, R507): where an error stood, or the unit whose test failed. -/
inductive Fence where
  | unit (e : MemErr)
  | tested (u : TestUnit)
  deriving DecidableEq, Repr

/-- The 1 s window of a link port (R447): its start, and the flit replays and CRC retries in it. -/
structure Win where
  start : Nat := 0
  replays : Nat := 0
  retries : Nat := 0
  deriving DecidableEq, Repr

/-- A bank of a stack (R429, R443): its queue of rows, the rows that wait for it in the die fabric, the open row, the refresh-management commands still to send, with whether
each also stands in for a periodic refresh (R446), and whether it is in back-off. -/
structure Bank where
  queue : List Nat := []
  fabric : List Nat := []
  opened : Option Nat := none
  rfm : List (Nat × Bool) := []
  backoff : Bool := false
  deriving DecidableEq, Repr

/-- The management core's state beside its group and its SRAM (R491 to R508). `vtok` holds TO and the digest, `meas` is keyed by
register with nothing listed for 64 zero bytes, `fuses` are words 8 and 9, `cmd` is the code of the command under way, `stage` how many of its steps are done, `from_` the life-cycle state before it, and `ran` whether its batch has ended, `traps` are the
headers of its batches' trap records (R492), `log` holds the records of R439, `rowErrs` (stack, row, count) the rows that
erred most recently, last first, `margins` are keyed 256 × port + lane, `failRun` counts the failures in a row of a port's flit, `failed` holds the times of a port's retrains that failed, `test` is the
period in minutes and the classes, `testPos` how far the order of units the current period has come, `testStart` when it began, `testDue` a unit whose
test fell due during a command, `testing` the units under test, `fencing` the fences that wait until
their unit may be reached (R28), `clocks` the clock of a cluster in 100 MHz, `slots` the
firmware slots that an update has written, `noFw` that neither slot is valid, `reserved` the mask of reserved ports. (DESIGN CHOICE, log 8.) -/
structure Mgmt where
  lcs : Nat := 0
  wiping : Bool := false
  ports : Nat := 0
  keys : SMap (List Byte) := []
  vtok : Option (Nat × List Byte) := none
  chal : Option (List Byte) := none
  fuses : SMap Word := []
  meas : SMap (List Byte) := []
  mailbox : Memory := []
  cmd : Option Nat := none
  ran : Bool := false
  stage : Nat := 0
  from_ : Nat := 0
  traps : List Nat := []
  mcmd : Word := 0x00100000#32
  log : List Nat := []
  rowErrs : List (Nat × Nat × Nat) := []
  replays : SMap Word := []
  retries : SMap Word := []
  margins : SMap (Option Nat) := []
  portWin : SMap Win := []
  thRow : Nat := 16
  thReplay : Nat := 1000
  thRetry : Nat := 100
  thMargin : Nat := 24
  portDown : SMap Bool := []
  failRun : SMap Nat := []
  failed : SMap (List Nat) := []
  test : Nat × Nat := (0, 0)
  testPos : Option Nat := none
  testStart : Nat := 0
  testDue : Option TestUnit := none
  testing : List TestUnit := []
  fenced : List Fence := []
  fencing : List Fence := []
  clocks : SMap Nat := []
  gaps : Bool := false
  slots : SMap (Option (List Byte)) := []
  active : Nat := 0
  next : Nat := 0
  noFw : Bool := false
  reserved : Nat := 0
  deriving DecidableEq, Repr

/-- The debug block of a cluster (R448 to R461). `stopping` is a stop-the-cluster request under way. -/
structure Debug where
  ctx : Nat := 0
  en : Bool := false
  istep : Bool := false
  bkact : Nat := 0
  stopping : Bool := false
  stopped : Bool := false
  area : DWord := 0
  sel : DWord := 0
  drsel : DWord := 0
  err : Nat := 0
  done : Bool := false
  busy : Bool := false
  wpa : SMap DWord := []
  wpc : SMap DWord := []
  deriving DecidableEq, Repr

/-- A sampled memory instruction whose accesses are not all finished (R468). -/
structure Sample where
  g : GKey
  btag : Nat
  ctx : Nat
  corr : Nat
  gnum : Nat
  path : Nat
  tix : Nat
  off : Nat
  opc : Nat
  act : Mask
  sect : Nat
  lines : Nat
  trep : Nat
  vrep : Nat
  tno : Nat
  store : Bool
  dst : List Nat
  disc : Bool := false
  deriving DecidableEq, Repr

/-- A choice that the architecture leaves to timing, as the order log keeps it (R475). -/
inductive LogEntry where
  | atomic (sp : Space) (loc btag gnum lane commit : Nat)
  | ticket (ring btag gnum lane commit t : Nat)
  | grant (node : Nat) (seq : Option Nat) (n : Nat)
  | move (btag gnum : Nat) (stage vis : Nat)
  deriving DecidableEq, Repr

/-- A batch, or evicted groups of a resident batch, as the pre-emption engine keeps them (R288, R420 to R422). `scats` are the elements of
SCATs that the save cancelled (R227), `counts` the counts of its context that its floes held (R179).
The bytes, full/empty bits and barriers are counted from SPB; addresses elsewhere are those of the old place, which the batch and its
groups still name. (DESIGN CHOICE, log 58.) -/
structure Saved where
  btag : BTag
  ctx : Nat
  batch : Option Batch := none
  groups : List Group := []
  bytes : List (Nat × Byte) := []
  empties : List Nat := []
  teams : List (Nat × Team) := []
  jobs : List Job := []
  emits : List Emit := []
  fwks : List Fwk := []
  tickets : List Ticket := []
  floes : List (FKey × Floe) := []
  counts : List (FKey × SMap Nat) := []
  bars : List Nat := []
  scats : List Flight := []
  formed : List Formed := []
  deriving DecidableEq, Repr

/-- The BTAG that a batch of a node got, by its number among the node's batches in the order of their formation. (DESIGN CHOICE, log 103.) -/
structure BatchNo where
  node : Nat
  seq : Nat
  btag : BTag
  deriving DecidableEq, Repr

/-- An image in the safe tier (R474): the context's device memory at the cut, as the bytes of each 16 KiB page by virtual address, the pages of
its open rime by physical address, its handle table, its saved batches with what else the context held and they wait for, its queues with their
RIDX, and the log up to the cut. `run` counts the times that EN was set. -/
structure Image where
  ctx : Nat
  k : Nat
  cx : Ctx := {}
  mem : List (Nat × Memory) := []
  rime : List (Nat × Memory) := []
  saved : List Saved := []
  formed : List Formed := []
  dispatches : List Dispatch := []
  queues : List (Nat × Queue) := []
  logs : List LogEntry := []
  run : Nat := 0
  htab : Memory := []
  pubWaits : List PubWait := []
  faults : List FaultRec := []
  tags : List BatchNo := []
  deriving DecidableEq, Repr

/-- Checkpointing of a context (R472 to R475). `next` is the number of the next checkpoint, `cutting` a checkpoint that waits for its batches
to be saved, `held` are physical addresses of 16 KiB pages not yet copied, `cut` of all that it held, `redo` of those that a
failed copy leaves as written, `base` the device memory at the last cut, `image` the image under way, `buffer` the log buffer and `replay`
the entries of the log that replay has still to meet. `tags` and `retags` are the BTAGs that go with the two. -/
structure Ckpt where
  en : Bool := false
  log : Bool := false
  tms : Nat := 0
  next : Nat := 0
  running : Bool := false
  cutting : Bool := false
  cutTime : DWord := 0
  held : List Nat := []
  cut : List Nat := []
  redo : List Nat := []
  base : Memory := []
  image : Option Image := none
  buffer : List LogEntry := []
  replay : List LogEntry := []
  run : Nat := 0
  tags : List BatchNo := []
  retags : List BatchNo := []
  deriving DecidableEq, Repr

/-- A failure or another report that the command processor or the function gives the driver or host (R512, R387, R320, R477, R482, R487, R488). -/
inductive Report where
  | ctxFailed (ctx reason detail slot seq : Nat)
  | bindRefused (ctx : Nat)
  | queueMalformed (q : Nat)
  | packetMalformed (q idx : Nat)
  | copyDropped (ctx handle : Nat)
  | linkRefused (ctx handle port : Nat)
  | linkDown (ctx handle port : Nat)
  | windowRefused (w : Nat)
  | unsupportedRequest (offset : Nat)
  | replayDiverged (ctx : Nat) (first : Option LogEntry)
  deriving DecidableEq, Repr

end Sys2Proof.Machine
end

