-- ==== Sys2Proof/Config.lean ====
section
/-! DEFINITION. What the manual leaves open: constants and functions without a body. Nothing can evaluate them, so a
statement about one holds for every value. The assumption log names each. -/
namespace Sys2Proof.Config
open Sys2Proof Sys2Proof.Machine

/-- A fresh free value for each count of `State.free` (time samples, pass times, random bits). (DESIGN CHOICE, log 10; DESIGN CHOICE, log 13.) -/
opaque freeValue : Nat → BitVec 64

/-- What a byte of an object reads as that the driver should have pinned and mapped and has not. (DESIGN CHOICE, log 15.) -/
opaque unmappedByte : Nat → Byte

/-- The six functions of R191, which every core of the part computes alike and the manual does not give (R192). (DESIGN CHOICE, log 14.) -/
opaque fex2 : Word → Word
/-- A function of R191 (DESIGN CHOICE, log 14.) -/
opaque flg2 : Word → Word
/-- A function of R191 (DESIGN CHOICE, log 14.) -/
opaque fsin : Word → Word
/-- A function of R191 (DESIGN CHOICE, log 14.) -/
opaque fcos : Word → Word
/-- A function of R191 (DESIGN CHOICE, log 14.) -/
opaque fsig : Word → Word
/-- A function of R191 (DESIGN CHOICE, log 14.) -/
opaque ftnh : Word → Word

/-- The attestation key of the part, as modulus and private exponent, where it is a pair (R495). (DESIGN CHOICE, log 17.) -/
opaque attestFused : Nat × Nat

/-- The fuse words that stand since Manufacture: DEVID and the digests of the two signing keys (R495). (DESIGN CHOICE, log 8.) -/
opaque fusedWord : Nat → Word

/-- Whether blowing a fuse word fails (R503), for each count of `State.free`. (DESIGN CHOICE, log 8.) -/
opaque fuseFails : Nat → Bool

/-- The addresses of the management SRAM's firmware area (R501), which the manual does not give. (DESIGN CHOICE, log 2.) -/
opaque firmwareArea : Nat → Bool

/-- What the bytes of a graph package at an address say (R396): none where they are malformed. The manual gives the
sections and not their layout. (DESIGN CHOICE, log 16.) -/
opaque parsePackage : Nat → List Byte → Option PackageImage

/-- Whether the bin area at an address is too small for bins of so many bytes (R396). The manual gives no length of the area. (DESIGN CHOICE, log 16.) -/
opaque binAreaSmall : Nat → Nat → Bool

/-- The completion status of an AtomicOp to host memory, 0 where it succeeds (R483), for each count of `State.free`. (DESIGN CHOICE, log 17.) -/
opaque atomicStatus : Nat → Nat

/-- The bytes that a firmware slot holds until an update writes it (R506). (DESIGN CHOICE, log 2.) -/
opaque factoryImage : Nat → List Byte

/-- What the bytes of a firmware image say: none where they are malformed. The manual gives the fields and not their layout. (DESIGN CHOICE, log 2.) -/
opaque parseImage : List Byte → Option FwImage

/-- How `cntrd` lays out the predictive counters (R447, R494): the counts of rows, the flit replays, the CRC retries, the lane margins. The
manual gives the counters and not their layout. (DESIGN CHOICE, log 16.) -/
opaque counterLayout : List (Nat × Nat × Nat) → SMap Word → SMap Word → SMap (Option Nat) → List Byte

end Sys2Proof.Config
end

