-- ==== Sys2Proof/Machine/Crypto.lean ====
section
/-! DEFINITION. SHA-512 and RSASSA-PSS with SHA-512, MGF1, a 64-byte salt and exponent 65,537 (R499), as the public
standards that the manual names define them. -/
namespace Sys2Proof.Machine
open Sys2Proof

/-- Round constants 0 to 19. -/
def shaK0 : List DWord :=
  [0x428A2F98D728AE22#64, 0x7137449123EF65CD#64, 0xB5C0FBCFEC4D3B2F#64, 0xE9B5DBA58189DBBC#64,
   0x3956C25BF348B538#64, 0x59F111F1B605D019#64, 0x923F82A4AF194F9B#64, 0xAB1C5ED5DA6D8118#64,
   0xD807AA98A3030242#64, 0x12835B0145706FBE#64, 0x243185BE4EE4B28C#64, 0x550C7DC3D5FFB4E2#64,
   0x72BE5D74F27B896F#64, 0x80DEB1FE3B1696B1#64, 0x9BDC06A725C71235#64, 0xC19BF174CF692694#64,
   0xE49B69C19EF14AD2#64, 0xEFBE4786384F25E3#64, 0x0FC19DC68B8CD5B5#64, 0x240CA1CC77AC9C65#64]

/-- Round constants 20 to 39. -/
def shaK1 : List DWord :=
  [0x2DE92C6F592B0275#64, 0x4A7484AA6EA6E483#64, 0x5CB0A9DCBD41FBD4#64, 0x76F988DA831153B5#64,
   0x983E5152EE66DFAB#64, 0xA831C66D2DB43210#64, 0xB00327C898FB213F#64, 0xBF597FC7BEEF0EE4#64,
   0xC6E00BF33DA88FC2#64, 0xD5A79147930AA725#64, 0x06CA6351E003826F#64, 0x142929670A0E6E70#64,
   0x27B70A8546D22FFC#64, 0x2E1B21385C26C926#64, 0x4D2C6DFC5AC42AED#64, 0x53380D139D95B3DF#64,
   0x650A73548BAF63DE#64, 0x766A0ABB3C77B2A8#64, 0x81C2C92E47EDAEE6#64, 0x92722C851482353B#64]

/-- Round constants 40 to 59. -/
def shaK2 : List DWord :=
  [0xA2BFE8A14CF10364#64, 0xA81A664BBC423001#64, 0xC24B8B70D0F89791#64, 0xC76C51A30654BE30#64,
   0xD192E819D6EF5218#64, 0xD69906245565A910#64, 0xF40E35855771202A#64, 0x106AA07032BBD1B8#64,
   0x19A4C116B8D2D0C8#64, 0x1E376C085141AB53#64, 0x2748774CDF8EEB99#64, 0x34B0BCB5E19B48A8#64,
   0x391C0CB3C5C95A63#64, 0x4ED8AA4AE3418ACB#64, 0x5B9CCA4F7763E373#64, 0x682E6FF3D6B2B8A3#64,
   0x748F82EE5DEFB2FC#64, 0x78A5636F43172F60#64, 0x84C87814A1F0AB72#64, 0x8CC702081A6439EC#64]

/-- Round constants 60 to 79. -/
def shaK3 : List DWord :=
  [0x90BEFFFA23631E28#64, 0xA4506CEBDE82BDE9#64, 0xBEF9A3F7B2C67915#64, 0xC67178F2E372532B#64,
   0xCA273ECEEA26619C#64, 0xD186B8C721C0C207#64, 0xEADA7DD6CDE0EB1E#64, 0xF57D4F7FEE6ED178#64,
   0x06F067AA72176FBA#64, 0x0A637DC5A2C898A6#64, 0x113F9804BEF90DAE#64, 0x1B710B35131C471B#64,
   0x28DB77F523047D84#64, 0x32CAAB7B40C72493#64, 0x3C9EBE0A15C9BEBC#64, 0x431D67C49C100D4C#64,
   0x4CC5D4BECB3E42B6#64, 0x597F299CFC657E2A#64, 0x5FCB6FAB3AD6FAEC#64, 0x6C44198C4A475817#64]

/-- The 80 round constants: cube roots of the first 80 primes. -/
def shaK : List DWord := shaK0 ++ shaK1 ++ shaK2 ++ shaK3

/-- The first hash value: square roots of the first 8 primes. -/
def shaH0 : List DWord :=
  [0x6A09E667F3BCC908#64, 0xBB67AE8584CAA73B#64, 0x3C6EF372FE94F82B#64, 0xA54FF53A5F1D36F1#64,
   0x510E527FADE682D1#64, 0x9B05688C2B3E6C1F#64, 0x1F83D9ABFB41BD6B#64, 0x5BE0CD19137E2179#64]

def beNat (bs : List Byte) : Nat := bs.foldl (fun n b => 256 * n + b.toNat) 0
/-- n bytes of a number, highest first. -/
def beBytes (n v : Nat) : List Byte := (leBytes n v).reverse

def rotr (x : DWord) (n : Nat) : DWord := x.rotateRight n
def shaS0 (x : DWord) : DWord := rotr x 1 ^^^ rotr x 8 ^^^ (x >>> 7)
def shaS1 (x : DWord) : DWord := rotr x 19 ^^^ rotr x 61 ^^^ (x >>> 6)
def shaB0 (x : DWord) : DWord := rotr x 28 ^^^ rotr x 34 ^^^ rotr x 39
def shaB1 (x : DWord) : DWord := rotr x 14 ^^^ rotr x 18 ^^^ rotr x 41

/-- Extend the message schedule, newest word first. -/
def shaExtend : Nat → List DWord → List DWord
  | 0, w => w
  | n + 1, w => shaExtend n ((shaS1 (w.getD 1 0) + w.getD 6 0 + shaS0 (w.getD 14 0) + w.getD 15 0) :: w)

/-- One round over the eight working words. -/
def shaRound (v : List DWord) (k : DWord × DWord) : List DWord :=
  match v with
  | [a, b, c, d, e, f, g, h] =>
    let t1 := h + shaB1 e + ((e &&& f) ^^^ (~~~e &&& g)) + k.1 + k.2
    let t2 := shaB0 a + ((a &&& b) ^^^ (a &&& c) ^^^ (b &&& c))
    [t1 + t2, a, b, c, d + t1, e, f, g]
  | v => v

/-- Cut a list into pieces of n, at most `fuel` of them. -/
def cut {α : Type} (n : Nat) : Nat → List α → List (List α)
  | 0, _ => []
  | f + 1, l => if l.isEmpty then [] else l.take n :: cut n f (l.drop n)

def shaBlock (h : List DWord) (block : List Byte) : List DWord :=
  let w0 := (cut 8 16 block).map fun b => BitVec.ofNat 64 (beNat b)
  let w := (shaExtend 64 w0.reverse).reverse
  (h.zip ((shaK.zip w).foldl shaRound h)).map fun e => e.1 + e.2

/-- The padded message. -/
def shaPad (m : List Byte) : List Byte :=
  m ++ [0x80#8] ++ List.replicate ((239 - m.length % 128) % 128) 0 ++ beBytes 16 (8 * m.length)

/-- SHA-512: the 64 bytes of the digest in the order in which the function gives them. (PRESUMED, log 27.) -/
def sha512 (m : List Byte) : List Byte :=
  let p := shaPad m
  (((cut 128 (p.length / 128) p).foldl shaBlock shaH0).map fun w => beBytes 8 w.toNat).flatten

def xorBytes (a b : List Byte) : List Byte := (a.zip b).map fun e => e.1 ^^^ e.2

/-- MGF1 with SHA-512. (PRESUMED, log 27.) -/
def mgf1 (seed : List Byte) (n : Nat) : List Byte :=
  (((List.range ((n + 63) / 64)).map fun i => sha512 (seed ++ beBytes 4 i)).flatten).take n

/-- x^65537 mod n. -/
def rsaPublic (x n : Nat) : Nat :=
  let sq := (List.range 16).foldl (fun y _ => y * y % n) (x % n)
  sq * x % n

/-- Clear the top bit of the first byte. -/
def clearTop : List Byte → List Byte
  | [] => []
  | b :: r => (b &&& 0x7F#8) :: r

/-- RSASSA-PSS verification for a 4,096-bit modulus. (PRESUMED, log 27.) -/
def pssVerify (modulus msg sig : List Byte) : Bool :=
  let n := beNat modulus
  let s := beNat sig
  let em := beBytes 512 (rsaPublic s n)
  let masked := em.take 447
  let h := (em.drop 447).take 64
  let db := clearTop (xorBytes masked (mgf1 h 447))
  let salt := db.drop 383
  decide (s < n) && em.getD 511 0 == 0xBC#8 && !((masked.headD 0).getLsbD 7)
    && db.take 382 == List.replicate 382 0 && db.getD 382 0 == 1#8
    && h == sha512 (List.replicate 8 0 ++ sha512 msg ++ salt)

/-- The encoded message that a signature with a given salt is made over. (PRESUMED, log 27.) -/
def pssEncode (msg salt : List Byte) : List Byte :=
  let h := sha512 (List.replicate 8 0 ++ sha512 msg ++ salt)
  let db := List.replicate 382 0 ++ [1#8] ++ salt
  clearTop (xorBytes db (mgf1 h 447)) ++ h ++ [0xBC#8]

/-- RSAES-OAEP decoding with SHA-512 and an empty label (R494 keyload): the message, or none. (PRESUMED, log 27.) -/
def oaepDecode (em : List Byte) : Option (List Byte) :=
  let seedM := (em.drop 1).take 64
  let dbM := em.drop 65
  let seed := xorBytes seedM (mgf1 dbM 64)
  let db := xorBytes dbM (mgf1 seed 447)
  let rest := (db.drop 64).dropWhile fun b => b == 0#8
  match rest with
  | b :: m => if em.headD 1 == 0#8 && db.take 64 == sha512 [] && b == 1#8 then some m else none
  | [] => none

/-! ### The attestation key (R495) -/

/-- x^d mod n, for d below 2^fuel. -/
def powMod (n : Nat) : Nat → Nat → Nat → Nat
  | 0, _, _ => 1 % n
  | f + 1, x, d => let h := powMod n f (x * x % n) (d / 2); if d % 2 = 1 then x * h % n else h

/-- A modulus of 4,096 bits and a private exponent that undoes the exponent 65,537. -/
def isKey (k : Nat × Nat) : Bool :=
  decide (2 ^ 4095 ≤ k.1) && decide (k.1 < 2 ^ 4096) && (List.range k.1).all fun x => rsaPublic (powMod k.1 4096 x k.2) k.1 == x

/-- The primes from 41 to 2917, whose product has 4,096 bits, and the exponent that goes with it: there is a key. -/
def somePrimes : List Nat :=
  (List.range 2918).filter fun p => decide (41 ≤ p) && (List.range 55).all fun k => decide (k < 2) || p % k != 0 || k = p
def someExp : Nat :=
  0x1240F6D722CE3564CAB1A6BCBBA8C914C1815066D2BF78404DE8568D74CD0795CF8B714B04E0CCCA2C1FCCEF92F64BBE5CF2B085D7CC9719B42C21E69D03D3086D72679D08AFA90AB15E7B6535994D981B8E352C123BA478F5C2AC8CF9431B628C1452EA329A428354BDE01

/-- The attestation key, modulus and private exponent: whatever pair was made at Manufacture (R495). (DESIGN CHOICE, log 17.) -/
def attestKey : Nat × Nat := if isKey Config.attestFused then Config.attestFused else (somePrimes.prod, someExp)

/-- The private operation, which never leaves the crypto engine. -/
def attestPrivate (x : Nat) : Nat := powMod attestKey.1 4096 x attestKey.2

/-- The modulus as the 512 bytes that R499 takes. -/
def attestModulus : List Byte := beBytes 512 attestKey.1

end Sys2Proof.Machine
end

