-- ==== Sys2Proof/Machine/Float.lean ====
section
/-! DEFINITION. Number formats, rounding and sums (R159 to R176), and the functions of R190 to R192. A real value is
exact: a sign, a whole number and a power of two, with a mark where something was dropped below its last bit. -/
namespace Sys2Proof.Machine
open Sys2Proof

/-- A floating-point format (R159): exponent bits, mantissa bits, bias, whether it is E4M3. -/
structure Fmt where
  e : Nat
  m : Nat
  bias : Nat
  e4m3 : Bool := false
  deriving DecidableEq, Repr

def fmtF32 : Fmt := ⟨8, 23, 127, false⟩
def fmtBf16 : Fmt := ⟨8, 7, 127, false⟩
def fmtF16 : Fmt := ⟨5, 10, 15, false⟩
def fmtE4m3 : Fmt := ⟨4, 3, 7, true⟩
def fmtE5m2 : Fmt := ⟨5, 2, 15, false⟩

/-- The format of a type code; FP32 for a code that is no floating-point type. -/
def fmtOf : Ty → Fmt
  | .bf16 => fmtBf16
  | .f16 => fmtF16
  | .e4m3 => fmtE4m3
  | .e5m2 => fmtE5m2
  | _ => fmtF32

def fmtBits (f : Fmt) : Nat := 1 + f.e + f.m
/-- Code of +∞, or of the first code above the finite ones (R159). -/
def fmtTop (f : Fmt) : Nat := if f.e4m3 then 0x7F else (2 ^ f.e - 1) * 2 ^ f.m
/-- Code of the largest finite value. -/
def fmtMax (f : Fmt) : Nat := fmtTop f - 1
/-- Canonical NaN. -/
def fmtNaN (f : Fmt) : Nat := if f.e4m3 then 0x7F else (2 ^ f.e - 1) * 2 ^ f.m + 2 ^ (f.m - 1)
def fmtSign (f : Fmt) : Nat := 2 ^ (f.e + f.m)
def fmtNeg (f : Fmt) (neg : Bool) (code : Nat) : Nat := if neg then fmtSign f + code else code

/-- A value: NaN, an infinity, or (−1)^neg × num × 2^exp. -/
inductive FVal where
  | nan
  | inf (neg : Bool)
  | fin (neg : Bool) (num : Nat) (exp : Int)
  deriving DecidableEq, Repr

/-- The value of a code (R159). -/
def fDecode (f : Fmt) (c : Nat) : FVal :=
  let neg := c.testBit (f.e + f.m)
  let ex := c / 2 ^ f.m % 2 ^ f.e
  let mn := c % 2 ^ f.m
  if f.e4m3 && c % 128 = 0x7F then .nan
  else if !f.e4m3 && ex = 2 ^ f.e - 1 then (if mn = 0 then .inf neg else .nan)
  else if ex = 0 then .fin neg mn (1 - (f.bias : Int) - f.m)
  else .fin neg (2 ^ f.m + mn) ((ex : Int) - f.bias - f.m)

/-- A code that is subnormal and nonzero. -/
def fSubnormal (f : Fmt) (c : Nat) : Bool := c / 2 ^ f.m % 2 ^ f.e = 0 && c % 2 ^ f.m != 0

/-- An operand under flushing (R171): a subnormal E4M3 or E5M2 code reads as zero of its sign. -/
def fDecodeFtz (f : Fmt) (ftz : Bool) (c : Nat) : FVal :=
  match fDecode f c with
  | .fin neg n e => if ftz && fSubnormal f c then .fin neg 0 e else .fin neg n e
  | v => v

def isNaNv : FVal → Bool | .nan => true | _ => false
def isInfv : FVal → Bool | .inf _ => true | _ => false

/-- What happened when a result was rounded: a clamp to a finite limit, a flush (R177). -/
structure RoundOut where
  code : Nat
  sat : Bool := false
  ftz : Bool := false
  deriving DecidableEq, Repr

/-- Stochastic hash of R172. -/
def rsHash (seed l i : Nat) : Nat :=
  let w := 2 ^ 32
  let h := (seed % w) ^^^ (l * 0x9E3779B9 % w) ^^^ (i * 0x85EBCA6B % w)
  let h := h ^^^ (h / 2 ^ 16)
  let h := h * 0x7FEB352D % w
  let h := h ^^^ (h / 2 ^ 15)
  let h := h * 0x846CA68B % w
  h ^^^ (h / 2 ^ 16)

/-- Whether a magnitude m + rem / 2^s (with a sticky part below it) rounds up (R168, R172). -/
def roundUp (mode : Rnd) (neg odd : Bool) (rem s : Nat) (sticky : Bool) (h : Nat) : Bool :=
  match mode with
  | .rz => false
  | .rp => !neg && (rem != 0 || sticky)
  | .rm => neg && (rem != 0 || sticky)
  | .rs => decide (h < rem * 2 ^ 32 / 2 ^ s)
  | _ => decide (2 ^ s < 2 * rem) || (2 * rem = 2 ^ s && s != 0 && (sticky || odd))

/-- A magnitude num × 2^exp, with a sticky part below, as mantissa count and lowest place of a format: the place is
that of the subnormal spacing or higher (R168). -/
def roundMag (mode : Rnd) (neg : Bool) (num : Nat) (exp : Int) (sticky : Bool) (place : Int) (h : Nat) : Nat :=
  if exp ≥ place then
    let m := num * 2 ^ (exp - place).toNat
    if roundUp mode neg (m % 2 = 1) 0 0 sticky h && mode != .rs then m + 1 else m
  else
    let s := (place - exp).toNat
    let m := num / 2 ^ s
    if roundUp mode neg (m % 2 = 1) (num % 2 ^ s) s sticky h then m + 1 else m

/-- `round(v, F, mode)` for a finite nonzero value (R168 to R172), with `.sat` and `.ftz`. -/
def roundFin (f : Fmt) (mode : Rnd) (sat ftz : Bool) (h : Nat) (neg : Bool) (num : Nat) (exp : Int) (sticky : Bool) : RoundOut :=
  let low : Int := 1 - (f.bias : Int) - f.m
  let top : Int := (Nat.log2 num : Int) + exp
  let place : Int := max low (top - f.m)
  let codeOf (mode : Rnd) : Nat := (place - low).toNat * 2 ^ f.m + roundMag mode neg num exp sticky place h
  let c0 := codeOf mode
  let trunc := codeOf .rz
  let beyond := decide (fmtMax f < trunc) || (trunc = fmtMax f && decide (fmtMax f < codeOf .rp || fmtMax f < codeOf .rm))
  let c := if mode = .rs && beyond then codeOf .rne else c0
  if f.e4m3 then
    if fmtMax f < c then ⟨fmtNeg f neg (fmtMax f), true, false⟩
    else if ftz && fSubnormal f c then ⟨fmtNeg f neg 0, false, true⟩
    else ⟨fmtNeg f neg c, false, false⟩
  else if fmtMax f < c then
    let toInf := match mode with
      | .rz => false
      | .rp => !neg
      | .rm => neg
      | _ => true
    if toInf && !sat then ⟨fmtNeg f neg (fmtTop f), false, false⟩
    else ⟨fmtNeg f neg (fmtMax f), toInf, false⟩
  else if ftz && (f.e = 5 && f.m = 2) && fSubnormal f c then ⟨fmtNeg f neg 0, false, true⟩
  else ⟨fmtNeg f neg c, false, false⟩

/-- `round(v, F, mode)` for any value. An infinity into E4M3 is ±448 (R170). -/
def fRound (f : Fmt) (mode : Rnd) (sat ftz : Bool) (h : Nat) (v : FVal) (sticky : Bool := false) : RoundOut :=
  match v with
  | .nan => ⟨fmtNaN f, false, false⟩
  | .inf neg => if f.e4m3 then ⟨fmtNeg f neg (fmtMax f), true, false⟩ else ⟨fmtNeg f neg (fmtTop f), false, false⟩
  | .fin neg num exp =>
    if num = 0 then ⟨fmtNeg f neg 0, false, false⟩ else roundFin f mode sat ftz h neg num exp sticky

def fEnc (f : Fmt) (mode : Rnd) (v : FVal) (sticky : Bool := false) : Nat := (fRound f mode false false 0 v sticky).code

/-! ### Exact arithmetic on values -/

def fvNeg : FVal → FVal
  | .nan => .nan
  | .inf n => .inf (!n)
  | .fin n m e => .fin (!n) m e

/-- The exact product; 0 × ∞ is NaN (R184). -/
def fvMul (a b : FVal) : FVal :=
  match a, b with
  | .nan, _ => .nan
  | _, .nan => .nan
  | .inf s, .inf t => .inf (xor s t)
  | .inf s, .fin t n _ => if n = 0 then .nan else .inf (xor s t)
  | .fin s n _, .inf t => if n = 0 then .nan else .inf (xor s t)
  | .fin s n e, .fin t m d => .fin (xor s t) (n * m) (e + d)

/-- A finite value as an integer multiple of 2^p, where p is at most its exponent. -/
def fvInt (neg : Bool) (n : Nat) (e p : Int) : Int :=
  let v : Int := (n * 2 ^ (e - p).toNat : Nat)
  if neg then -v else v

/-- The exact sum; the sign of a zero sum follows R184. -/
def fvAdd (mode : Rnd) (a b : FVal) : FVal :=
  match a, b with
  | .nan, _ => .nan
  | _, .nan => .nan
  | .inf s, .inf t => if s = t then .inf s else .nan
  | .inf s, .fin _ _ _ => .inf s
  | .fin _ _ _, .inf t => .inf t
  | .fin s n e, .fin t m d =>
    let p := min e d
    let v := fvInt s n e p + fvInt t m d p
    if v = 0 then .fin (if s = t then s else mode = .rm) 0 0
    else .fin (decide (v < 0)) v.natAbs p

/-- Numeric order of two finite or infinite values, ±0 equal. -/
def fvCmp (a b : FVal) : Ordering :=
  match a, b with
  | .inf s, .inf t => if s = t then .eq else if s then .lt else .gt
  | .inf s, _ => if s then .lt else .gt
  | _, .inf t => if t then .gt else .lt
  | .fin s n e, .fin t m d => compare (fvInt s n e (min e d)) (fvInt t m d (min e d))
  | _, _ => .eq

/-! ### FP32 and packed operations (R184 to R188, R193) -/

def fAdd (f : Fmt) (mode : Rnd) (a b : Nat) : Nat := fEnc f mode (fvAdd mode (fDecode f a) (fDecode f b))
def fSub (f : Fmt) (mode : Rnd) (a b : Nat) : Nat := fEnc f mode (fvAdd mode (fDecode f a) (fvNeg (fDecode f b)))
def fMul (f : Fmt) (mode : Rnd) (a b : Nat) : Nat := fEnc f mode (fvMul (fDecode f a) (fDecode f b))
def fFma (f : Fmt) (mode : Rnd) (a b c : Nat) : Nat :=
  fEnc f mode (fvAdd mode (fvMul (fDecode f a) (fDecode f b)) (fDecode f c))

/-- FMIN and FMAX (R185): −0 is below +0, and a single NaN is passed over. -/
def fMinMax (f : Fmt) (isMax : Bool) (a b : Nat) : Nat :=
  let va := fDecode f a
  let vb := fDecode f b
  if isNaNv va && isNaNv vb then fmtNaN f
  else if isNaNv va then b
  else if isNaNv vb then a
  else
    let less := match fvCmp va vb with
      | .lt => true
      | .gt => false
      | .eq => a.testBit (f.e + f.m)
    if less != isMax then a else b

def fAbs (f : Fmt) (a : Nat) : Nat := if isNaNv (fDecode f a) then fmtNaN f else a % fmtSign f
def fNeg (f : Fmt) (a : Nat) : Nat :=
  if isNaNv (fDecode f a) then fmtNaN f else if fmtSign f ≤ a then a - fmtSign f else a + fmtSign f

/-- FCMP's condition (R186). -/
def fCompare (c : Cond) (a b : FVal) : Bool :=
  let un := isNaNv a || isNaNv b
  let o := fvCmp a b
  match c with
  | .eq => !un && o == .eq
  | .ne => un || o != .eq
  | .lt => !un && o == .lt
  | .le => !un && o != .gt
  | .gt => !un && o == .gt
  | .ge => !un && o != .lt
  | .un => un
  | .or => !un

/-- The class bit of R187. -/
def fClass (a : Nat) : Nat :=
  match fDecode fmtF32 a with
  | .nan => 8
  | .inf neg => if neg then 0 else 7
  | .fin neg n _ =>
    let k := if n = 0 then 3 else if fSubnormal fmtF32 a then 2 else 1
    if neg then k else 7 - k

/-- The integer that a mode chooses for a finite value (R168), as a magnitude. -/
def roundInt (mode : Rnd) (neg : Bool) (n : Nat) (e : Int) (h : Nat := 0) : Nat := roundMag mode neg n e false 0 h

/-- FRND (R188). -/
def fRnd (mode : Rnd) (a : Nat) : Nat :=
  match fDecode fmtF32 a with
  | .nan => fmtNaN fmtF32
  | .inf _ => a
  | .fin neg n e =>
    if n = 0 || decide (23 ≤ (Nat.log2 n : Int) + e) then a
    else fEnc fmtF32 .rne (.fin neg (roundInt mode neg n e) 0)

/-- The integer of a value under a mode, clamped (R170, R195, R196). NaN gives 0. -/
def fToInt (mode : Rnd) (v : FVal) (lo hi : Int) (h : Nat := 0) : Int :=
  match v with
  | .nan => 0
  | .inf neg => if neg then lo else hi
  | .fin neg n e =>
    let r : Int := roundInt mode neg n e h
    let r := if neg then -r else r
    max lo (min hi r)

/-- An integer as FP32 (R195). -/
def fOfInt (mode : Rnd) (v : Int) : Nat := fEnc fmtF32 mode (.fin (decide (v < 0)) v.natAbs 0)

/-! ### Correctly rounded functions (R190) -/

/-- Quotient of two nonzero magnitudes, to 64 bits below the result's precision, with a sticky part. -/
def quotient (n : Nat) (e : Int) (m : Nat) (d : Int) : Nat × Int × Bool :=
  let k := 96 + Nat.log2 m
  (n * 2 ^ k / m, e - d - k, n * 2 ^ k % m != 0)

/-- FDIV (R190). An infinity over a finite value, zero included, gives an infinity with the XOR of the signs. (DESIGN CHOICE, log 98.) -/
def fDiv (mode : Rnd) (a b : Nat) : Nat :=
  match fDecode fmtF32 a, fDecode fmtF32 b with
  | .nan, _ => fmtNaN fmtF32
  | _, .nan => fmtNaN fmtF32
  | .inf _, .inf _ => fmtNaN fmtF32
  | .inf s, .fin t _ _ => fEnc fmtF32 mode (.inf (xor s t))
  | .fin s _ _, .inf t => fEnc fmtF32 mode (.fin (xor s t) 0 0)
  | .fin s n e, .fin t m d =>
    if m = 0 then (if n = 0 then fmtNaN fmtF32 else fEnc fmtF32 mode (.inf (xor s t)))
    else if n = 0 then fEnc fmtF32 mode (.fin (xor s t) 0 0)
    else
      let r := quotient n e m d
      fEnc fmtF32 mode (.fin (xor s t) r.1 r.2.1) r.2.2

/-- Square root of n × 2^e as a number with a sticky part; 2^k scales n so that its root has 96 bits and more. -/
def rootOf (n : Nat) (e : Int) : Nat × Int × Bool :=
  let n := if e % 2 = 0 then n else 2 * n
  let e := if e % 2 = 0 then e else e - 1
  let w := n * 2 ^ 256
  let r := Nat.sqrt w
  (r, (e - 256) / 2, r * r != w)

def fSqrt (mode : Rnd) (a : Nat) : Nat :=
  match fDecode fmtF32 a with
  | .nan => fmtNaN fmtF32
  | .inf neg => if neg then fmtNaN fmtF32 else a
  | .fin neg n e =>
    if n = 0 then a
    else if neg then fmtNaN fmtF32
    else
      let r := rootOf n e
      fEnc fmtF32 mode (.fin false r.1 r.2.1) r.2.2

def fRcp (a : Nat) : Nat :=
  match fDecode fmtF32 a with
  | .nan => fmtNaN fmtF32
  | .inf neg => fmtNeg fmtF32 neg 0
  | .fin neg n e =>
    if n = 0 then fmtNeg fmtF32 neg (fmtTop fmtF32)
    else
      let r := quotient 1 0 n e
      fEnc fmtF32 .rne (.fin neg r.1 r.2.1) r.2.2

/-- 1 / √v: the root of 2^512 / n, with a sticky part where either division or root dropped something. -/
def fRsq (a : Nat) : Nat :=
  match fDecode fmtF32 a with
  | .nan => fmtNaN fmtF32
  | .inf neg => if neg then fmtNaN fmtF32 else 0
  | .fin neg n e =>
    if n = 0 then fmtNeg fmtF32 neg (fmtTop fmtF32)
    else if neg then fmtNaN fmtF32
    else
      let n := if e % 2 = 0 then n else 2 * n
      let e := if e % 2 = 0 then e else e - 1
      let w := 2 ^ 512 / n
      let r := Nat.sqrt w
      fEnc fmtF32 .rne (.fin false r (-256 - e / 2)) (r * r * n != 2 ^ 512)

/-! ### The six functions whose results the architecture only bounds (R191, R192)

The part computes a fixed function of the input: a function of `Config` without a body. It is taken where it meets the
bound of R191; the bound is tested on a fixed-point value with 320 bits below the point. -/

/-- π and ln 2 times 2^320, rounded down. -/
def piFix : Nat := 6710401180212168915155840974220003240804194089427148950727106424351713218671805380099500388914039
def ln2Fix : Nat := 1480553391661173448385607439722553250922680800745876974795605978609098082859138712941075737848984
def fixOne : Nat := 2 ^ 320

/-- Σ x^k / k! for a fixed-point x of small magnitude. -/
def expSeries : Nat → Nat → Int → Int → Int → Int
  | 0, _, _, _, acc => acc
  | n + 1, k, x, t, acc =>
    let t := t * x / (fixOne : Int) / (k : Int)
    expSeries n (k + 1) x t (acc + t)

/-- e^r for |r| ≤ 1, in fixed point. -/
def expFix (r : Int) : Int := expSeries 90 1 r (fixOne : Int) (fixOne : Int)

/-- e^x for a fixed-point x, as a fixed-point number times 2^n. -/
def expScaled (x : Int) : Int × Int :=
  let n := x / (ln2Fix : Int)
  (expFix (x - n * (ln2Fix : Int)), n)

/-- Σ t^(2k+1) / (2k+1). -/
def atanhSeries : Nat → Nat → Int → Int → Int → Int
  | 0, _, _, _, acc => acc
  | n + 1, k, t2, p, acc => atanhSeries n (k + 2) t2 (p * t2 / (fixOne : Int)) (acc + p / (k : Int))

/-- log2 of a number of [1, 2), in fixed point. -/
def log2Fix (m : Int) : Int :=
  let t := (m - (fixOne : Int)) * (fixOne : Int) / (m + (fixOne : Int))
  2 * atanhSeries 110 1 (t * t / (fixOne : Int)) t 0 * (fixOne : Int) / (ln2Fix : Int)

/-- Σ (−1)^k x^(2k+s) / (2k+s)!, from the term t on. -/
def trigSeries : Nat → Nat → Int → Int → Int → Int
  | 0, _, _, _, acc => acc
  | n + 1, k, x2, t, acc =>
    let t := -(t * x2 / (fixOne : Int)) / ((k * (k + 1) : Nat) : Int)
    trigSeries n (k + 2) x2 t (acc + t)

def sinFix (x : Int) : Int := trigSeries 50 2 (x * x / (fixOne : Int)) x x
def cosFix (x : Int) : Int := trigSeries 50 1 (x * x / (fixOne : Int)) (fixOne : Int) (fixOne : Int)

/-- A finite value in fixed point, rounded down below 2^(−320). -/
def toFix (neg : Bool) (n : Nat) (e : Int) : Int :=
  let v : Int := if 0 ≤ e + 320 then ((n * 2 ^ (e + 320).toNat : Nat) : Int) else ((n / 2 ^ (-(e + 320)).toNat : Nat) : Int)
  if neg then -v else v

/-- sin and cos of a finite value: the argument less a multiple of π/2. -/
def sinCos (cos : Bool) (x : Int) : Int :=
  let half : Int := (piFix : Int) / 2
  let k := (2 * x + half) / (2 * half)
  let r := x - k * half
  match ((k + if cos then 1 else 0) % 4).toNat with
  | 0 => sinFix r
  | 1 => cosFix r
  | 2 => -sinFix r
  | _ => -cosFix r

/-- A value y × 2^n with y in fixed point, rounded to FP32 by nearest even. -/
def fixRound (y : Int) (n : Int) : Nat := fEnc fmtF32 .rne (.fin (decide (y < 0)) y.natAbs (n - 320)) true

/-- |v − y × 2^n| is at most k units of spacing at y × 2^n (R191). The exact result is a power of two, or v at its bound from it, only where the fixed
point is exact too; elsewhere it is farther from either than the fixed point's error. -/
def inUlp (k : Nat) (v : Nat) (y : Int) (n : Int) : Bool :=
  match fDecode fmtF32 v with
  | .fin s m e =>
    let top : Int := (Nat.log2 y.natAbs : Int) + n - 320
    let ulp : Int := max (top - 23) (-149)
    let p := min e (min (n - 320) ulp)
    let d := fvInt s m e p - fvInt (decide (y < 0)) y.natAbs (n - 320) p
    decide (d.natAbs ≤ k * 2 ^ (ulp - p).toNat)
  | _ => false

/-- |v − y| ≤ 2^(−22). -/
def inAbs (v : Nat) (y : Int) : Bool :=
  match fDecode fmtF32 v with
  | .fin s m e => decide ((toFix s m e - y).natAbs ≤ 2 ^ 298)
  | _ => false

/-- The part's value where it meets the bound, else the nearest value. -/
def pick (v : Nat) (ok : Bool) (near : Nat) : Nat := if ok then v else near

def fEx2 (a : Nat) : Nat :=
  match fDecode fmtF32 a with
  | .nan => fmtNaN fmtF32
  | .inf neg => if neg then 0 else fmtTop fmtF32
  | .fin neg n e =>
    let x := toFix neg n e
    if n = 0 then 0x3F800000
    else if 128 * (fixOne : Int) ≤ x then fmtTop fmtF32
    else if x ≤ -150 * (fixOne : Int) then 0
    else
      let w := x / (fixOne : Int)
      let r := x - w * (fixOne : Int)
      if r = 0 && decide (0 ≤ e + 320) then fEnc fmtF32 .rne (.fin false 1 w)
      else
        let y := expFix (r * (ln2Fix : Int) / (fixOne : Int))
        let v := (Config.fex2 (BitVec.ofNat 32 a)).toNat
        pick v (inUlp 1 v y w) (fixRound y w)

def fLg2 (a : Nat) : Nat :=
  match fDecode fmtF32 a with
  | .nan => fmtNaN fmtF32
  | .inf neg => if neg then fmtNaN fmtF32 else fmtTop fmtF32
  | .fin neg n e =>
    if n = 0 then fmtSign fmtF32 + fmtTop fmtF32
    else if neg then fmtNaN fmtF32
    else
      let k := Nat.log2 n
      let w : Int := (k : Int) + e
      if n = 2 ^ k then fOfInt .rne w
      else
        let y := w * (fixOne : Int) + log2Fix (toFix false n (-(k : Int)))
        let v := (Config.flg2 (BitVec.ofNat 32 a)).toNat
        pick v (if fixOne ≤ 2 * y.natAbs then inUlp 1 v y 0 else inAbs v y) (fixRound y 0)

def fSin (a : Nat) : Nat :=
  match fDecode fmtF32 a with
  | .nan => fmtNaN fmtF32
  | .inf _ => fmtNaN fmtF32
  | .fin neg n e =>
    if n = 0 || decide ((Nat.log2 n : Int) + e < -12) then a
    else
      let y := sinCos false (toFix neg n e)
      let v := (Config.fsin (BitVec.ofNat 32 a)).toNat
      pick v (inAbs v y) (fixRound y 0)

def fCos (a : Nat) : Nat :=
  match fDecode fmtF32 a with
  | .nan => fmtNaN fmtF32
  | .inf _ => fmtNaN fmtF32
  | .fin neg n e =>
    if n = 0 then 0x3F800000
    else
      let y := sinCos true (toFix neg n e)
      let v := (Config.fcos (BitVec.ofNat 32 a)).toNat
      pick v (inAbs v y) (fixRound y 0)

/-- 1 / (1 + e^(−x)) as a fixed-point number times 2^n, written e^x / (1 + e^x) below zero. -/
def sigFix (x : Int) : Int × Int :=
  if 0 ≤ x then
    let z := expScaled (-x)
    let ez := if z.2 < -400 then 0 else z.1 / 2 ^ (-z.2).toNat
    ((fixOne : Int) * (fixOne : Int) / ((fixOne : Int) + ez), 0)
  else
    let z := expScaled x
    let ez := if z.2 < -400 then 0 else z.1 / 2 ^ (-z.2).toNat
    (z.1 * (fixOne : Int) / ((fixOne : Int) + ez), z.2)

def fSig (a : Nat) : Nat :=
  match fDecode fmtF32 a with
  | .nan => fmtNaN fmtF32
  | .inf neg => if neg then 0 else 0x3F800000
  | .fin neg n e =>
    let x := toFix neg n e
    if (35 : Int) * (fixOne : Int) ≤ 2 * x then 0x3F800000
    else if x ≤ -1000 * (fixOne : Int) then
      let v := (Config.fsig (BitVec.ofNat 32 a)).toNat
      pick v (decide (v ≤ 2) || v = fmtSign fmtF32 || v = fmtSign fmtF32 + 1) 0
    else
      let y := sigFix x
      let v := (Config.fsig (BitVec.ofNat 32 a)).toNat
      pick v (inUlp 2 v y.1 y.2) (fixRound y.1 y.2)

/-- tanh of a nonnegative fixed-point number. -/
def tanhFix (x : Int) : Int :=
  let z := expScaled (-2 * x)
  let ez := if z.2 < -400 then 0 else z.1 / 2 ^ (-z.2).toNat
  ((fixOne : Int) - ez) * (fixOne : Int) / ((fixOne : Int) + ez)

/-- tanh of n × 2^e, as a fixed-point number times 2^m. Near zero it is x − x³ / 3, which the fixed point alone would not tell from x. -/
def tanhVal (n : Nat) (e : Int) : Int × Int :=
  if (Nat.log2 n : Int) + e < -40 then ((n : Int) * 2 ^ 700 - (n : Int) ^ 3 * 2 ^ (700 + 2 * e).toNat / 3, e - 380)
  else (tanhFix (toFix false n e), 0)

/-- FTNH is odd: the magnitude is that of |A|. -/
def fTnh (a : Nat) : Nat :=
  match fDecode fmtF32 a with
  | .nan => fmtNaN fmtF32
  | .inf neg => fmtNeg fmtF32 neg 0x3F800000
  | .fin neg n e =>
    if n = 0 then a
    else
      let x := toFix false n e
      if (19 : Int) * (fixOne : Int) ≤ 2 * x then fmtNeg fmtF32 neg 0x3F800000
      else
        let y := tanhVal n e
        let v := (Config.ftnh (BitVec.ofNat 32 (a % fmtSign fmtF32))).toNat
        fmtNeg fmtF32 neg (pick v (inUlp 2 v y.1 y.2) (fixRound y.1 y.2))

/-! ### Four-bit blocks (R165 to R167) -/

/-- Magnitudes of a KIND, doubled so that they are whole (R166). -/
def q4Mags2 (kind : Nat) : List Nat :=
  match kind with
  | 1 => [0, 1, 2, 3, 4, 6, 8, 12]
  | 2 => [0, 2, 4, 8, 16, 32, 64, 128]
  | _ => [0, 1, 2, 3, 4, 8, 16, 32]

/-- The value of a code before scaling, as a sign and a doubled magnitude (R166). -/
def q4Val2 (kind c : Nat) : Bool × Nat :=
  if kind = 0 then (decide (8 ≤ c), if 8 ≤ c then 2 * (16 - c) else 2 * c)
  else (decide (8 ≤ c) && c % 8 != 0, (q4Mags2 kind).getD (c % 8) 0)

/-- The value of a code under a scale byte (R165, R166). -/
def q4Value (scale c : Nat) : FVal :=
  let v := q4Val2 (scale / 64 % 4) (c % 16)
  .fin v.1 v.2 ((scale % 64 : Nat) - 33)

/-- Index of the magnitude that a mode chooses in a rising list of doubled magnitudes: `w` is n × 2^e (R167). -/
def q4Index (mode : Rnd) (neg : Bool) (mags : List Nat) (n : Nat) (e : Int) (h : Nat) : Nat :=
  let p := min e (-1)
  let w := n * 2 ^ (e - p).toNat
  let at_ (i : Nat) : Nat := mags.getD i 0 * 2 ^ (-1 - p).toNat
  let below := (List.range mags.length).foldl (fun a i => if at_ i ≤ w then i else a) 0
  if below + 1 ≥ mags.length then below
  else
    let lo := at_ below
    let hi := at_ (below + 1)
    let up := match mode with
      | .rz => false
      | .rp => !neg && decide (lo < w)
      | .rm => neg && decide (lo < w)
      | .rs => decide (h < (w - lo) * 2 ^ 32 / (hi - lo))
      | _ => decide (hi - w < w - lo) || (w - lo = hi - w && below % 2 = 1)
    if up then below + 1 else below

/-- A code and whether the value was saturated (R167). `scale` is the block's scale byte. -/
def q4Encode (mode : Rnd) (scale : Nat) (h : Nat) (v : FVal) : Nat × Bool :=
  let kind := scale / 64 % 4
  let s : Int := (scale % 64 : Nat) - 32
  match v with
  | .nan => (0, false)
  | .inf neg => (if kind = 0 then (if neg then 8 else 7) else (if neg then 15 else 7), true)
  | .fin neg n e =>
    if kind = 0 then
      let r := roundInt mode neg n (e - s) h
      let past := match fvCmp (.fin false n (e - s)) (.fin false (if neg then 8 else 7) 0) with | .gt => true | _ => false
      (if neg then (16 - Nat.min 8 r) % 16 else Nat.min 7 r, past)
    else
      let mags := q4Mags2 kind
      let i := q4Index mode neg mags n (e - s) h
      let past := match fvCmp (.fin false n (e - s)) (.fin false (mags.getD 7 0) (-1)) with | .gt => true | _ => false
      (if i = 0 then 0 else if neg then 8 + i else i, past)

/-! ### The group sum of a floe (R173 to R175) -/

/-- floor(log2) of a nonzero magnitude. -/
def magLog (n : Nat) (e : Int) : Int := (Nat.log2 n : Int) + e

/-- `group_sum` of exact terms (R175), as an FP32 code. -/
def groupSum (ts : List FVal) : Nat :=
  let pinf := ts.any fun t => t == .inf false
  let ninf := ts.any fun t => t == .inf true
  if ts.any isNaNv || (pinf && ninf) then fmtNaN fmtF32
  else if pinf then fmtTop fmtF32
  else if ninf then fmtSign fmtF32 + fmtTop fmtF32
  else
    let z := ts.filterMap fun t => match t with | .fin s n e => if n = 0 then none else some (s, n, e) | _ => none
    match z with
    | [] => if ts.all fun t => match t with | .fin s _ _ => s | _ => false then fmtSign fmtF32 else 0
    | t0 :: _ =>
      let emax := z.foldl (fun a t => max a (magLog t.2.1 t.2.2)) (magLog t0.2.1 t0.2.2)
      let q := emax - 48
      let part (t : Bool × Nat × Int) : Nat :=
        if q ≤ t.2.2 then t.2.1 * 2 ^ (t.2.2 - q).toNat else t.2.1 / 2 ^ (q - t.2.2).toNat
      let exact (t : Bool × Nat × Int) : Bool := decide (q ≤ t.2.2) || t.2.1 % 2 ^ (q - t.2.2).toNat = 0
      let total : Int := (z.map fun t => if t.1 then -(part t : Int) else (part t : Int)).sum
      let sticky := z.any fun t => !exact t
      if total = 0 then 0 else fEnc fmtF32 .rne (.fin (decide (total < 0)) total.natAbs q) sticky

/-- The value of an `.f32` sum interval (R261, R282): an exact count of 2^(−149) with its marks. -/
def f32Sum (sum : Int) (nan pinf ninf allNegZero : Bool) : Nat :=
  if nan || (pinf && ninf) then fmtNaN fmtF32
  else if pinf then fmtTop fmtF32
  else if ninf then fmtSign fmtF32 + fmtTop fmtF32
  else if sum = 0 then (if allNegZero then fmtSign fmtF32 else 0)
  else fEnc fmtF32 .rne (.fin (decide (sum < 0)) sum.natAbs (-149))

end Sys2Proof.Machine
end

