-- ==== Sys2Proof/Machine/State.lean ====
section
/-! DEFINITION. The whole state of the device, and the state after reset. -/
namespace Sys2Proof.Machine
open Sys2Proof Sys2Proof.Checks

/-- Why the machine stops with a fault. -/
inductive Fault where
  /-- A named address of device memory at or above R425's end, reached by an engine that no rule refuses. Raised by no
  lane instruction (a walk refuses such a page, R432). Safe: the machine stops where the device has no storage. -/
  | absentMemory
  deriving DecidableEq, Repr

/-- Why the machine refuses an instruction. -/
inductive Refusal where
  /-- An instruction without a meaning yet. Raised by `exec`'s arms only. Safe: nothing happens. -/
  | notModelled (mnemonic : String)
  deriving DecidableEq, Repr

/-- Everything that the SW9 holds, with the model's own `free`, `cur`, `stuck`, `agenda` and `stalled`. `rr` holds the slot that issued last on a
track (R91), `parse` the queues whose lanes have still to act in parse step `parseNo` (R390), `stuck` the groups that have stalled since
anything else happened. -/
structure State where
  dmem : Memory := []
  hmem : Memory := []
  sram : Memory := []
  spad : Memory := []
  emptyLine : SMap Bool := []
  groups : SMap Group := []
  batches : SMap Batch := []
  teams : SMap Team := []
  flight : List Flight := []
  stale : List Stale := []
  tlb : List Tlb := []
  walks : List Walk := []
  code : List CodeLine := []
  ctxs : SMap Ctx := []
  queues : SMap Queue := []
  formed : List Formed := []
  dispatches : List Dispatch := []
  faults : List FaultRec := []
  sigs : List SigDec := []
  fwks : List Fwk := []
  emits : List Emit := []
  tickets : List Ticket := []
  saved : List Saved := []
  jobs : List Job := []
  floes : SMap Floe := []
  pubWaits : List PubWait := []
  bars : List Nat := []
  regs : HostRegs := {}
  mg : Mgmt := {}
  debugs : SMap Debug := []
  sctl : SMap DWord := []
  memCount : SMap Nat := []
  cursor : SMap Nat := []
  samples : List Sample := []
  slotLast : SMap Nat := []
  tsSeq : Nat := 0
  banks : SMap Bank := []
  cached : List Nat := []
  actCount : SMap Nat := []
  actCfg : SMap DWord := []
  poison : SMap Bool := []
  ckpts : SMap Ckpt := []
  safe : List Image := []
  reports : List Report := []
  msix : List Nat := []
  pubs : List (Nat × Nat × Nat) := []
  inval : Option (Nat × Option (Nat × Nat)) := none
  dropped : List Tlb := []
  clock : SMap DWord := []
  time : DWord := 0
  serial : Nat := 0
  corr : Nat := 1
  parse : List Nat := []
  parseNo : Nat := 0
  free : Nat := 0
  cur : GKey := 0
  rr : SMap Nat := []
  stuck : List GKey := []
  agenda : List Instr := []
  stalled : Bool := false
  deriving DecidableEq, Repr

/-- The machine right after reset. (DESIGN CHOICE, log 5; DESIGN CHOICE, log 7; DEDUCED, log 12.) -/
def State.reset : State := {}

end Sys2Proof.Machine
end

