-- ==== Sys2Proof/Machine/Ops.lean ====
section
/-! DEFINITION. The operations that the meanings share: lanes and masks, registers, memory and translation, traps,
halts and the return from them. -/
namespace Sys2Proof.Machine
open Sys2Proof Sys2Proof.Checks

abbrev Out := Host.Outcome State Fault Refusal

/-! ### Lanes -/

/-- The lanes of a mask in ascending order (R48). -/
def lanesOf (m : Mask) : List Nat := allLanes.filter fun l => m.getLsbD l

/-- The mask of one lane. -/
def laneBit (l : Nat) : Mask := BitVec.ofNat 32 (2 ^ l)

/-- The mask of the lanes that `f` picks. -/
def maskOf (f : Nat → Bool) : Mask := BitVec.ofNat 32 ((allLanes.map fun l => if f l then 2 ^ l else 0).sum)

/-- The lowest lane of a mask. -/
def lowLane (m : Mask) : Option Nat := (lanesOf m).head?

/-- Number of lanes in a mask. -/
def laneCount (m : Mask) : Nat := (lanesOf m).length

/-! ### Units -/

def noGroup : Group := {}
def noBatch : Batch := {}
def noTeam : Team := {}
def noCtx : Ctx := {}
def noPath : Path := {}
def noQueue : Queue := {}

def getG (s : State) (g : GKey) : Group := sget noGroup s.groups g
def setG (s : State) (g : GKey) (v : Group) : State := { s with groups := sset noGroup s.groups g v }
def updG (s : State) (g : GKey) (f : Group → Group) : State := setG s g (f (getG s g))
def getB (s : State) (b : BTag) : Batch := sget noBatch s.batches b
def setB (s : State) (b : BTag) (v : Batch) : State := { s with batches := sset noBatch s.batches b v }
def updB (s : State) (b : BTag) (f : Batch → Batch) : State := setB s b (f (getB s b))
def getT (s : State) (t : Nat) : Team := sget noTeam s.teams t
def setT (s : State) (t : Nat) (v : Team) : State := { s with teams := sset noTeam s.teams t v }
def getC (s : State) (c : Nat) : Ctx := sget noCtx s.ctxs c
def setC (s : State) (c : Nat) (v : Ctx) : State := { s with ctxs := sset noCtx s.ctxs c v }
def updC (s : State) (c : Nat) (f : Ctx → Ctx) : State := setC s c (f (getC s c))
def getP (g : Group) (i : Nat) : Path := sget noPath g.paths i
def setP (g : Group) (i : Nat) (p : Path) : Group := { g with paths := sset noPath g.paths i p }

/-- The key of a group slot (R11). -/
def gkey (clu core trk slot : Nat) : GKey := ((clu * 192 + core) * 8 + trk) * 16 + slot
/-- The cluster of a group key. -/
def gclu (g : GKey) : Nat := g / (16 * 8 * 192)
/-- The key of the floe of a core's quad (R11). -/
def floeOf (clu core : Nat) : FKey := clu * 48 + core / 4
/-- The key of a team-table entry. -/
def tkey (clu tmx : Nat) : Nat := clu * 256 + tmx

/-- The next free value, and the state that has counted it. -/
def fresh (s : State) : BitVec 64 × State := (Config.freeValue s.free, { s with free := s.free + 1 })

/-! ### Registers -/

def rdX (v : Vers) (l k : Nat) : Word := sget 0 v.x (64 * l + k)
/-- p7 reads true (R93). -/
def rdP (v : Vers) (l k : Nat) : Bool := decide (7 ≤ k) || sget false v.p (8 * l + k)
/-- The result that a register waits for, with another value written there, is still on its way (R101). -/
def ghosts (v : Vers) (l k : Nat) : List (Nat × Nat) :=
  let p := sget 0 v.pend (64 * l + k)
  if p = 0 || p % 4 = 3 then v.ghost else (64 * l + k, p) :: v.ghost
/-- A written register is no longer pending. (DEDUCED, log 32.) -/
def wrX (v : Vers) (l k : Nat) (w : Word) : Vers :=
  { v with x := sset 0 v.x (64 * l + k) w, pend := sset 0 v.pend (64 * l + k) 0, ghost := ghosts v l k }
/-- A write of p7 has no effect (R93). -/
def wrP (v : Vers) (l k : Nat) (b : Bool) : Vers :=
  if 7 ≤ k then v else { v with p := sset false v.p (8 * l + k) b }
def rdPend (v : Vers) (l k : Nat) : Nat := sget 0 v.pend (64 * l + k)
def setPend (v : Vers) (l k n : Nat) : Vers := { v with pend := sset 0 v.pend (64 * l + k) n, ghost := ghosts v l k }
/-- A 64-bit pair, low word in the even register (R110). -/
def rdPair (v : Vers) (l k : Nat) : DWord := rdX v l (k + 1) ++ rdX v l k

/-! A `pend` value: 0 for none, 1 for a load's result, 4t + 2 for a return held to commit, 4t + 3 for a scoreboarded
register. The tag t is 256 × the number of the trace + the offset of its instruction; an effect names its destination as
64t + the register, so that a return meets only the register that still waits for it. -/

def isLoadPend (p : Nat) : Bool := p % 4 = 1
def isHeldPend (p : Nat) : Bool := p % 4 = 2
def isScored (p : Nat) : Bool := p % 4 = 3

/-- A result has come: the register is no longer pending. -/
def noPend (v : Vers) (l k : Nat) : Vers := { v with pend := sset 0 v.pend (64 * l + k) 0 }

/-- A return or scoreboarded result arrives at destination d in a version that still waits for it (R99, R100); one whose register has been
written since is dropped. -/
def arrive (v : Vers) (l d : Nat) (w : Word) : Vers :=
  let p := rdPend v l (d % 64)
  if (isHeldPend p || isScored p) && p / 4 = d / 64 then wrX (noPend v l (d % 64)) l (d % 64) w
  else { v with ghost := v.ghost.filter fun e => !(e.1 = 64 * l + d % 64 && e.2 = 4 * (d / 64) + 2) }

/-- A pending result of lane `l` arrives at destination `d` with value `w`. (DEDUCED, log 32.) -/
def arriveAt (l d : Nat) (w : Word) (q : Group) : Group := { q with com := arrive q.com l d w, work := arrive q.work l d w }
def deliver (s : State) (g : GKey) (l d : Nat) (w : Word) : State := updG s g (arriveAt l d w)

/-- The same for each lane of a mask. -/
def deliverAll (s : State) (g : GKey) (m : Mask) (d : Nat) (w : Word) : State :=
  (lanesOf m).foldl (fun s l => deliver s g l d w) s

/-- Some group by its batch and number: in slot g, or saved (R290). -/
def standsAt (s : State) (g : GKey) (b : BTag) (n : Nat) : Bool := (getG s g).res && (getG s g).btag = b && (getG s g).gnum = n

def getOwn (s : State) (g : GKey) (b : BTag) (n : Nat) : Group :=
  if standsAt s g b n then getG s g
  else ((s.saved.map Saved.groups).flatten.find? fun q => q.btag = b && q.gnum = n).getD noGroup

def updOwn (s : State) (g : GKey) (b : BTag) (n : Nat) (f : Group → Group) : State :=
  if standsAt s g b n then updG s g f
  else { s with saved := s.saved.map fun v => { v with groups := v.groups.map fun q => if q.btag = b && q.gnum = n then f q else q } }

/-- A load's result arrives: its value stands in the register since issue. With it comes what was on its way there before. -/
def settleV (v : Vers) (l k : Nat) : Vers :=
  let v := { v with ghost := v.ghost.filter fun e => !(e.1 = 64 * l + k && isLoadPend e.2) }
  if isLoadPend (rdPend v l k) then noPend v l k else v
/-- DEDUCED, log 32. -/
def settlePend (s : State) (g : GKey) (l k : Nat) : State :=
  updG s g fun q => { q with com := settleV q.com l k, work := settleV q.work l k }

def perfAdd (q : Group) (sel n : Nat) : Group :=
  { q with perf := supd 0 q.perf sel fun v => v + BitVec.ofNat 32 n }

/-- Add to a counter of a group by an amount of time that the manual leaves open (R157). -/
def perfTime (s : State) (g : GKey) (sel : Nat) : State :=
  let (v, s) := fresh s
  updG s g fun q => perfAdd q sel v.toNat

/-! ### Memory -/

/-- End of device memory (R425). -/
def devEnd : Nat := 0x12000000000

/-- The key of a cluster address. -/
def spadKey (clu a : Nat) : Nat := clu * 2 ^ 26 + a

def spaceRead (s : State) (sp : Space) (a n : Nat) : List Byte :=
  match sp with
  | .dev => memRead s.dmem a n
  | .host => memRead s.hmem a n
  | .spad => memRead s.spad a n
  | .sram => memRead s.sram a n

def spaceWrite (s : State) (sp : Space) (a : Nat) (v : List Byte) : State :=
  match sp with
  | .dev => { s with dmem := memWrite s.dmem a v }
  | .host => { s with hmem := memWrite s.hmem a v }
  | .spad => { s with spad := memWrite s.spad a v }
  | .sram => { s with sram := memWrite s.sram a v }

/-- The full/empty bit of the line of a scratchpad key (R254). -/
def lineEmpty (s : State) (key : Nat) : Bool := sget false s.emptyLine (key / 128)
def setLine (s : State) (key : Nat) (full : Bool) : State :=
  { s with emptyLine := sset false s.emptyLine (key / 128) (!full) }

/-! ### Page tables (R430 to R432) -/

/-- What a walk finds: a leaf, or a fault of WR 0. -/
inductive WalkRes where
  | leaf (t : Tlb) (entry : Nat)
  | bad
  deriving DecidableEq, Repr

/-- One level: the lowest VA bit that indexes it, the index width, its number. -/
def ptLevels : List (Nat × Nat × Nat) := [(48, 9, 5), (39, 9, 4), (30, 9, 3), (21, 9, 2), (14, 7, 1)]

/-- An entry of R431 that breaks R8. -/
def pteBad (e : Nat) : Bool := nbits e 63 57 != 0 || nbits e 9 5 != 0

/-- The physical address in an entry. -/
def ptePa (e : Nat) : Nat := nbits e 56 10 * 1024

/-- The table that an entry of a level names, where it names one (R431). -/
def pteTable (lvl e : Nat) : Option Nat :=
  if e % 2 = 0 || pteBad e || e.testBit 2 || lvl = 1 || e.testBit 3 || ptePa e % (if lvl = 2 then 1024 else 4096) != 0 then none else some (ptePa e)

/-- The leaf of a level is one that R431 and R432 allow. -/
def pteLeaf (lo lvl e : Nat) : Bool :=
  e % 2 = 1 && !pteBad e && e.testBit 2 && decide (lvl < 4) && ptePa e % 2 ^ lo = 0 && (e.testBit 3 || decide (ptePa e + 2 ^ lo ≤ devEnd))

/-- DEDUCED, log 25. -/
def walkFrom (s : State) (clu ctx va : Nat) : List (Nat × Nat × Nat) → Nat → WalkRes
  | [], _ => .bad
  | (lo, n, lvl) :: r, base =>
    let at_ := base + 8 * nbits va (lo + n - 1) lo
    let e := leNat (memRead s.dmem at_ 8)
    if devEnd ≤ at_ then .bad
    else if pteLeaf lo lvl e then
      .leaf ⟨clu, ctx, va / 2 ^ lo * 2 ^ lo, 2 ^ lo, ptePa e, e.testBit 1, e.testBit 4, e.testBit 3, none⟩ at_
    else match pteTable lvl e with
      | some pa => walkFrom s clu ctx va r pa
      | none => .bad

/-- A walk of the context's tables for a virtual address (R432). (DEDUCED, log 24.) -/
def walk (s : State) (clu ctx va : Nat) : WalkRes := walkFrom s clu ctx va ptLevels (getC s ctx).ptroot

/-- The space and address of a virtual address under a translation. -/
def Tlb.place (t : Tlb) (va : Nat) : Space × Nat := (if t.host then .host else .dev, t.ppage + (va - t.vpage))

/-- The translation that a core finds for a virtual address, in its own TLB or its cluster's (R433). (DEDUCED, log 24.) -/
def tlbFind (s : State) (clu core ctx va : Nat) : Option Tlb :=
  s.tlb.find? fun t => t.clu = clu && (t.core = none || t.core = some core) && t.ctx = ctx && decide (t.vpage ≤ va) && decide (va < t.vpage + t.size)

/-- Entries of a core's TLB and of a cluster's (R433). -/
def tlbSize : Option Nat → Nat
  | none => 4096
  | some _ => 256

/-- A translation enters a TLB, which gives up its oldest where it is full (R433). (DEDUCED, log 24.) -/
def tlbPut (s : State) (t : Tlb) : State :=
  let mine (x : Tlb) : Bool := x.clu = t.clu && x.core = t.core
  if s.tlb.contains t then s
  else if (s.tlb.filter mine).length < tlbSize t.core then { s with tlb := s.tlb ++ [t] }
  else { s with tlb := s.tlb.eraseP mine ++ [t] }

/-- How a lane's global access is translated at issue (R205). -/
inductive Xlat where
  | ok (sp : Space) (pa : Nat) (frozen : Bool)
  | wait
  | fault (wr : Bool)
  deriving DecidableEq, Repr

/-- Bytes of the management SRAM, which the management core reaches untranslated (R491). -/
def sramSize : Nat := 0x400000

/-- A page that a checkpoint holds: writes to it wait (R473). -/
def heldPage (s : State) (sp : Space) (pa : Nat) : Bool :=
  sp == .dev && s.ckpts.any fun e => e.2.held.contains (pa / 0x4000 * 0x4000)

/-- Translate a lane's access. A translation that no TLB holds is walked for, and a walk that faulted is met once. -/
def translate (s : State) (q : Group) (va : Nat) (write : Bool) : Xlat :=
  if q.prof = .mgmt then
    .ok .sram va false
  else
    match tlbFind s q.clu q.core q.ctx va with
    | some t =>
      if write && !t.w then .fault true
      else if write && heldPage s (t.place va).1 (t.place va).2 then .wait
      else .ok (t.place va).1 (t.place va).2 t.sealed
    | none => match q.walkFault.find? fun e => e.1 = va / 16384 && (!e.2 || write) with
      | some e => .fault e.2
      | none => .wait

/-- A core asks for a walk, unless it finds the translation or has asked (R433). (DEDUCED, log 24.) -/
def startWalk (s : State) (w : Walk) : State :=
  if (tlbFind s w.clu w.core w.ctx w.va).isSome || s.walks.any fun x => { x with va := x.va / 16384 } = { w with va := w.va / 16384 } then s
  else { s with walks := s.walks ++ [w] }

/-- Two requests are one walk: of one compute die, for one page of one context (R10, R433). -/
def Walk.same (w x : Walk) : Bool := w.clu / 2 = x.clu / 2 && w.ctx = x.ctx && w.va / 16384 = x.va / 16384

/-- A walk is among the 64 that its die runs (R433). -/
def walkRuns (s : State) (w : Walk) : Bool :=
  (((s.walks.takeWhile fun x => !w.same x).filter fun x => x.clu / 2 = w.clu / 2).map fun x => (x.ctx, x.va / 16384)).eraseDups.length < 64

/-- Read an object that the driver pins, through the context's tables as they stand (R394, R399). (DESIGN CHOICE, log 15.) -/
def ctxRead (s : State) (ctx va : Nat) : Nat → List Byte
  | 0 => []
  | n + 1 =>
    (match walk s 0 ctx va with
      | .leaf t _ => (spaceRead s (t.place va).1 (t.place va).2 1).headD 0
      | .bad => Config.unmappedByte va) :: ctxRead s ctx (va + 1) n

/-- Write an object that the driver pins. A byte that no page holds is dropped. (DESIGN CHOICE, log 15.)
The code-page set does not stop the device's own writes. (DESIGN CHOICE, log 104.) -/
def ctxWrite (s : State) (ctx va : Nat) : List Byte → State
  | [] => s
  | v :: r =>
    match walk s 0 ctx va with
    | .leaf t _ => ctxWrite (spaceWrite s (t.place va).1 (t.place va).2 [v]) ctx (va + 1) r
    | .bad => ctxWrite s ctx (va + 1) r

/-! ### Paths (R78 to R81) -/

/-- Index of the ready entry at a trace index, if one exists (R81). (DESIGN CHOICE, log 37.) -/
def readyAt (q : Group) (t : Nat) : Option Nat :=
  (List.range 32).find? fun i => (getP q i).state = .ready && (getP q i).tix = t

/-- The first empty entry; one exists while every live lane stands in one entry (R78). (DESIGN CHOICE, log 37.) -/
def emptyPath (q : Group) : Option Nat := (List.range 32).find? fun i => (getP q i).state = .empty

/-- Insert lanes ready at a trace index (R81): they join the ready entry there or take an empty one. What `p` says of the
entry's next trace joins with them. -/
def insReadyAs (q : Group) (m : Mask) (t : Nat) (p : Path) : Group :=
  if m = 0 then q
  else
    let t := t % 2 ^ 24
    match readyAt q t with
    | some i =>
      let o := getP q i
      setP q i { o with mask := o.mask ||| m, rcnt := Nat.max o.rcnt p.rcnt, vrep := Nat.max o.vrep p.vrep
                        skipB := o.skipB || p.skipB, skipW := o.skipW || p.skipW, disc := o.disc || p.disc
                        again := (o.again ++ p.again).eraseDups }
    | none =>
      match emptyPath q with
      | some i => setP q i { tix := t, state := .ready, mask := m, rcnt := p.rcnt, vrep := p.vrep, skipB := p.skipB
                             skipW := p.skipW, disc := p.disc, again := p.again }
      | none => q

/-- Insert lanes ready at a trace index (R81). (DESIGN CHOICE, log 37.) -/
def insReady (q : Group) (m : Mask) (t : Nat) : Group := insReadyAs q m t noPath

/-- Insert lanes in an entry of their own (R81: entries that are not ready never merge). -/
def insPath (q : Group) (m : Mask) (p : Path) : Group :=
  if m = 0 then q
  else
    match emptyPath q with
    | some i => setP q i { p with mask := m }
    | none => q

/-- Lanes that stay in the entry whose trace ended; where it has taken others, in an entry of their own. -/
def insAt (q : Group) (i : Nat) (m : Mask) (p : Path) : Group :=
  if m = 0 then q
  else if (getP q i).state = .empty then setP q i { p with mask := m }
  else insPath q m p

/-- An entry changes to ready at an index: it joins the ready entry there, or stays where it is (R81). -/
def becomeReady (q : Group) (i : Nat) (t : Nat) (p : Path) : Group :=
  let q := setP q i noPath
  match readyAt q (t % 2 ^ 24) with
  | some _ => insReadyAs q p.mask t p
  | none =>
    if p.mask = 0 then q
    else setP q i { tix := t % 2 ^ 24, state := .ready, mask := p.mask, rcnt := p.rcnt, vrep := p.vrep, skipB := p.skipB
                    skipW := p.skipW, disc := p.disc, again := p.again }

/-- An entry changes to ready, merging with a ready entry at its index (R81). A held entry changes only its underlying state
(R452), one that a stop of the cluster holds in a frozen group with CAUSE 6 (R461); lanes of a stepped trace are held when their effect completes (R458). -/
def makeReady (q : Group) (i : Nat) (t : Nat) : Group :=
  let p := getP q i
  if p.state = .held then
    setP q i { p with ust := .ready, sync := .none, tix := t % 2 ^ 24, cause := if q.frozen && p.cause = 4 then 6 else p.cause }
  else if p.wakeHold != 0 then
    setP q i { p with state := .held, ust := .ready, sync := .none, tix := t % 2 ^ 24, cause := p.wakeHold, wakeHold := 0 }
  else becomeReady q i t p

/-- The path of a lane. -/
def pathOfLane (q : Group) (l : Nat) : Option Nat := (List.range 32).find? fun i => (getP q i).mask.getLsbD l

/-! ### Register footprint (R83, R95, R96) -/

/-- Group-registers a version holds: one for each register in per-lane form, and one for each 32 in uniform form. (DEDUCED, log 41.) -/
def footprint (alloc uni : DWord) : Nat :=
  let per := ((List.range 64).filter fun k => alloc.getLsbD k && !uni.getLsbD k).length
  let un := ((List.range 64).filter fun k => alloc.getLsbD k && uni.getLsbD k).length
  per + (un + 31) / 32

/-- Group-registers of a track in use by its resident groups and their reservations. (DEDUCED, log 41.) -/
def trackUse (s : State) (clu core trk : Nat) : Nat :=
  ((List.range 16).map fun i =>
    let q := getG s (gkey clu core trk i)
    if q.res then footprint q.alloc q.com.uni + (match q.run with | some r => r.regs | none => 0) else 0).sum

/-- The entry of smallest index that `f` picks. -/
def lowestPath (q : Group) (f : Path → Bool) : Option Nat :=
  (List.range 32).foldl (fun a i =>
    if !f (getP q i) then a
    else match a with
      | none => some i
      | some j => if (getP q i).tix < (getP q j).tix then some i else some j) none

/-! ### Failure of a context (R127, R512) -/

/-- The group's trace is in step 2 of its commit, which nothing interrupts (R86). -/
def Group.inStep2 (q : Group) : Bool := match q.run with | some r => r.sending.isSome | none => false

/-- No trace of the group runs: it has none, or one held mid-trace, which counts as stopped (R452). -/
def atRest (q : Group) : Bool :=
  match q.run with
  | none => true
  | some r => (getP q r.path).state = .held

/-- Resident groups of a batch. -/
def residents (s : State) (b : BTag) : List GKey := (s.groups.filter fun e => e.2.res && e.2.btag = b).map Prod.fst

/-- The entry at a trace index whose trace was discarded, if it stands by itself. -/
def discPath (q : Group) (tix : Nat) : Option Nat :=
  lowestPath q fun p => p.tix = tix && (p.state = .ready || p.state = .held)

/-- The group stops for a halt where it stands, recording what the halt table will show (R241): `disc` is the index of a trace that the stop
discarded; without one, of the entry that waits with its trace chosen, or else of the ready and held entries the one of smallest index. A group that
the debugger had stopped before stops at once as any other without a trace. (DESIGN CHOICE, log 100.) -/
def stopGroup (q : Group) (skid : Nat) (disc : Option Nat) : Group :=
  let waits := lowestPath q fun p => p.state = .budgetWait || p.state = .fetchWait
  let ready := lowestPath q fun p => p.state = .ready || p.state = .held
  let at_ := match disc with | some t => discPath q t | none => waits.orElse fun _ => ready
  { q with
    stopped := true
    hskid := skid
    hdisc := disc.isSome
    stopTix := match disc, at_ with | some t, _ => t | none, some i => (getP q i).tix | none, none => 0
    stopState := match at_ with | some i => (getP q i).state | none => .empty }

/-- A group with no running trace stops at once (R240). -/
def stopRest (q : Group) : Group := if atRest q && !q.stopped then stopGroup q 0 none else q

/-- Every resident group of a context that runs no trace stops. -/
def stopCtx (s : State) (ctx : Nat) : State :=
  { s with groups := s.groups.map fun e => (e.1, if e.2.res && e.2.ctx = ctx then stopRest e.2 else e.2) }

/-- The groups of a batch that partial eviction has taken stop where they stand. -/
def stopSaved (s : State) (b : BTag) : State :=
  { s with saved := s.saved.map fun x => if x.btag = b then { x with groups := x.groups.map stopRest } else x }

/-- The header of a trap record as a number (R239). -/
def trapHeader (h : HaltRec) (halt seq ctx nrec : Nat) : Nat :=
  h.trap.word.toNat * 2 ^ 384 + fieldAt 320 64 h.trap.addr + fieldAt 256 64 halt + h.lanes.toNat * 2 ^ 224
    + h.exms.toNat * 2 ^ 192 + fieldAt 168 24 h.tix + fieldAt 160 8 h.trap.off + fieldAt 152 8 h.trap.code
    + fieldAt 144 8 h.trap.cause + fieldAt 128 16 h.trap.tcode + fieldAt 96 32 seq + fieldAt 80 16 ctx
    + fieldAt 70 10 h.gnum + fieldAt 67 3 h.clu + fieldAt 59 8 h.core + fieldAt 56 3 h.trk + fieldAt 51 5 h.path
    + fieldAt 43 8 nrec

/-- The context fails: its batches stop, its queues stop, handler launches that are pending are dropped (R247), the report is written and the
driver told (R127, R512). (DEDUCED, log 70.) -/
def failCtx (s : State) (ctx reason detail slot seq : Nat) (record : Nat) (error : Nat) : State :=
  let c := getC s ctx
  if c.failed then s
  else
    let report := leBytes 4 reason ++ leBytes 4 detail ++ leBytes 4 slot ++ leBytes 4 seq ++ leBytes 2 ctx
      ++ List.replicate 46 0 ++ leBytes 64 record ++ leBytes 32 error ++ List.replicate 3936 0
    let s := if c.faila = 0 then s else ctxWrite s ctx c.faila report
    let s := setC s ctx { c with failed := true, stoppedQueues := true }
    stopCtx { s with
      reports := s.reports ++ [.ctxFailed ctx reason detail slot seq]
      formed := s.formed.filter fun f => !(f.ctx = ctx && f.parent.isSome)
      saved := s.saved.map fun v => if v.ctx = ctx then { v with formed := [] } else v } ctx

/-! ### Taking a trap (R236 to R243, R511) -/

/-- The node that a node number names in the packages loaded into a context (R396). -/
def findNode (c : Ctx) (n : Nat) : Option Node :=
  (c.pkgs.find? fun p => p.num = nbits n 19 12).bind fun p => p.nodes[nbits n 11 0]?

/-- Whether the context can handle a trap: it names a trap area and a trap node, and the node is loaded and declares
`record=16` (R242). -/
def canHandle (c : Ctx) : Bool :=
  c.trapa != 0 && c.trapn.testBit 31 && nbits c.trapn 30 20 = 0
    && (match findNode c (nbits c.trapn 19 0) with | some n => n.record = 16 | none => false)

/-- Begin the halt of a batch, or find it begun (R240): every group with no running trace stops at once. -/
def beginHalt (s : State) (b : BTag) : State :=
  let bt := getB s b
  if bt.halt.isSome then s
  else
    let c := getC s bt.ctx
    let s := setC s bt.ctx { c with haltSeq := (c.haltSeq + 1) % 2 ^ 32 }
    let s := stopSaved (setB s b { bt with halt := some { seq := c.haltSeq } }) b
    (residents s b).foldl (fun s g => updG s g stopRest) s

/-- A trap has been raised in a batch. It is fatal while traps are masked, for cause 0 of Undefined-Instruction, and
where the context has no trap area or node; else it begins the batch's halt or joins it. The record itself follows
when the trace ends (`addTrap`). -/
def fatalTrap (s : State) (b : BTag) (code cause : Nat) : Option Nat :=
  let bt := getB s b
  if code = 1 ∧ cause = 0 then some 1
  else if bt.masked then some 1
  else if !canHandle (getC s bt.ctx) then some 6
  else none

/-- The record of one combination of CODE, CAUSE and OFF that lanes of one trace took (R511). -/
def addRec (s : State) (b : BTag) (h : HaltRec) : State :=
  match fatalTrap s b h.trap.code h.trap.cause with
  | some reason => failCtx s (getB s b).ctx reason h.trap.code 0xFFFFFFFF 0xFFFFFFFF (trapHeader h 0 0 (getB s b).ctx 1) 0
  | none =>
    let s := beginHalt s b
    updB s b fun bt => { bt with halt := bt.halt.map fun x => { x with recs := x.recs ++ [h] } }

/-- Two traps are of one record (R511). -/
def sameRec (a b : Trap) : Bool := a.code = b.code && a.cause = b.cause && a.off = b.off

/-- The order of the records of one trace: OFF, then CODE, then CAUSE (R511). -/
def recLe (a b : Trap) : Bool :=
  decide (a.off < b.off) || (a.off = b.off && (decide (a.code < b.code) || (a.code = b.code && decide (a.cause ≤ b.cause))))

/-- Insert a trap in that order. -/
def insTrap (t : Trap) : List Trap → List Trap
  | [] => [t]
  | a :: r => if sameRec a t then a :: r else if recLe t a then t :: a :: r else a :: insTrap t r

/-- The records of the traps that lanes took, in order: the lanes of each and its first trap (R511). -/
def trapRecs (q : Group) (g : GKey) (i tix : Nat) (exms : Mask) (old : Group) (traps : List (Nat × Trap)) : List HaltRec :=
  (traps.foldl (fun a e => insTrap e.2 a) []).map fun t =>
    let ls := maskOf fun l => traps.any fun e => e.1 = l && sameRec e.2 t
    { g := g, path := i, lanes := ls, exms := exms, tix := tix, trap := ((traps.find? fun e => sameRec e.2 t).map Prod.snd).getD t
      gnum := q.gnum, clu := q.clu, core := q.core, trk := q.trk
      regs := old.com.x.filter fun e => exms.getLsbD (e.1 / 64)
      preds := old.com.p.filter fun e => exms.getLsbD (e.1 / 8)
      depths := old.link.map fun e => (e.1, e.2.length) }

/-- The firmware batch of the management core has ended, and with it the command under way (R493). -/
def mgmtEnd (s : State) (g : GKey) : State := { setG s g noGroup with mg := { s.mg with ran := s.mg.cmd.isSome } }

/-- A trap of the management core (R492): no handler; the batch ends, the record is logged, the response word reads all ones. -/
def mgmtTrap (s : State) (g : GKey) (recs : List HaltRec) : State :=
  let s := mgmtEnd s g
  { s with
    sram := memWrite s.sram (s.mg.mcmd.toNat + 4) (List.replicate 4 0xFF#8)
    mg := { s.mg with traps := s.mg.traps ++ recs.map fun r => trapHeader r 0 0 0 recs.length } }

/-- TAKING A TRAP, at the end of the trace (R86, R236, R511): the trapping lanes stand halted at the trace's index and
one record is made for each combination that they took. `traps` names each lane with its trap, lowest lane first; `old` is the
group with the values of trace entry (R238). -/
def takeTraps (s : State) (g : GKey) (tix : Nat) (exms : Mask) (old : Group) (traps : List (Nat × Trap)) : State :=
  match traps with
  | [] => s
  | _ =>
    let m := maskOf fun l => traps.any fun e => e.1 = l
    let q := getG s g
    let i := (emptyPath q).getD 0
    let recs := trapRecs q g i tix exms old traps
    if q.prof = .mgmt then mgmtTrap s g recs
    else recs.foldl (fun s r => addRec s q.btag r) (setG s g (insPath q m { tix := tix, state := .halted }))

/-- A trap raised at issue begins the halt at once; its record follows at trace end (R240). -/
def noteTrap (s : State) (g : GKey) (t : Trap) : State :=
  let q := getG s g
  if q.prof = .mgmt then s
  else
    match fatalTrap s q.btag t.code t.cause with
    | some _ => s
    | none => beginHalt s q.btag

/-! ### Stops of the debugger (R452 to R455) -/

def noDebug : Debug := {}
def getD (s : State) (clu : Nat) : Debug := sget noDebug s.debugs clu
def updD (s : State) (clu : Nat) (f : Debug → Debug) : State := { s with debugs := supd noDebug s.debugs clu f }

/-- The debug block of a group's cluster acts on it (R448). -/
def debugged (s : State) (q : Group) : Bool := (getD s q.clu).en && (getD s q.clu).ctx = q.ctx

/-- Hold an entry, keeping its state beneath (R452). -/
def holdPath (q : Group) (i cause : Nat) : Group :=
  let p := getP q i
  if p.state = .held || p.state = .empty || p.state = .running then q
  else setP q i { p with state := .held, ust := p.state, cause := cause }

/-- Hold every entry that is not held. -/
def holdAll (q : Group) (cause : Nat) : Group := (List.range 32).foldl (fun q i => holdPath q i cause) q

/-- The group stops for stop-the-cluster (R455). `at_` is the entry that its stop-table record names, if the stop found one. -/
def debugStopGroup (q : Group) (skid : Nat) (disc : Bool) (at_ : Option Nat) : Group :=
  { holdAll q 4 with debugStop := true, skid := skid, disc := disc, stopPath := at_.getD 32 }

/-- The group stops for a freeze (R461). -/
def freezeGroup (q : Group) (skid : Nat) (disc : Bool) (at_ : Option Nat) : Group :=
  if q.debugStop then holdAll q 6 else { holdAll q 6 with skid := skid, disc := disc, stopPath := at_.getD 32 }

/-- A step command of the group is under way (R458). -/
def stepping (q : Group) : Bool := q.step != .off && q.step != .idle

/-- The step command under way is complete: DONE is set (R458, R459). -/
def stepOver (s : State) (q : Group) : State := if stepping q then updD s q.clu fun d => { d with done := true, busy := false } else s

/-- The entry that waits with its trace chosen: budget-wait or fetch-wait. -/
def chosenPath (q : Group) : Option Nat := lowestPath q fun p => p.state = .budgetWait || p.state = .fetchWait

/-- Stop-the-cluster is requested (R455): every group with no running trace stops at once. -/
def stopCluster (s : State) (clu : Nat) : State :=
  let d := getD s clu
  if d.stopping || d.stopped then s
  else
    let s := updD s clu fun d => { d with stopping := true }
    { s with groups := s.groups.map fun e =>
        (e.1, if e.2.res && e.2.clu = clu && atRest e.2 then debugStopGroup e.2 0 false (chosenPath e.2) else e.2) }

/-- Lift the hold of an entry (R452): it takes its underlying state and merges where that is ready. An entry held mid-trace runs
on. Where the group is frozen or its cluster stopped, an entry that would be ready stays held with their cause (R461). -/
def unhold (s : State) (q : Group) (i : Nat) : Group :=
  let p := getP q i
  let d := getD s q.clu
  if p.state != .held then q
  else if p.mid then setP q i { p with state := .running, ust := .empty, cause := 0, mid := false, off := 0, soff := 0, wv := false, wpn := 0, addr := 0, disc := false }
  else
    let o : Path := { p with state := p.ust, ust := .empty, cause := 0, off := 0, soff := 0, wv := false, wpn := 0, addr := 0, disc := false }
    if q.frozen then setP q i { p with cause := 6 }
    else if q.debugStop || d.stopping || d.stopped then setP q i { p with cause := 4 }
    else if p.ust = .ready then becomeReady q i p.tix o
    else setP q i o

/-- Lift every hold that `f` picks. -/
def unholdAll (s : State) (q : Group) (f : Path → Bool) : Group :=
  (List.range 32).foldl (fun q i => if (getP q i).state = .held && f (getP q i) then unhold s q i else q) q

/-- Two groups of one batch share a team (R51). -/
def shareTeam (s : State) (a b : Group) : Bool :=
  a.btag = b.btag && a.gnum != b.gnum
    && s.teams.any fun e => e.2.v && e.1 / 256 = a.clu && e.2.btag = a.btag && e.2.members.testBit a.gnum && e.2.members.testBit b.gnum

/-- Freezes of a batch follow the step modes of its groups (R461): a group is frozen while a group that shares a team with it is in
step mode. One that freezes stops at once where no trace of it runs. -/
def refreeze (s : State) (b : BTag) : State :=
  { s with groups := s.groups.map fun e =>
      let q := e.2
      if !q.res || q.btag != b then e
      else
        let f := s.groups.any fun o => o.2.res && o.2.step != .off && shareTeam s q o.2
        if f = q.frozen then e
        else if f then (e.1, let q := { q with frozen := true }; if atRest q then freezeGroup q 0 false none else q)
        else (e.1, unholdAll s { q with frozen := false } fun p => p.cause = 6) }

/-- A path stops at an instruction (R454): mid-trace, in step mode, where ISTEP is set; else the trace of every lane still in EXM is
to be discarded and held. (DEDUCED, log 64.) -/
def stopPath (s : State) (g : GKey) (p : PathStop) (cluster : Bool) : State :=
  let q := getG s g
  match q.run with
  | none => s
  | some r =>
    let q :=
      if (getD s q.clu).istep then
        { setP q r.path { getP q r.path with state := .held, ust := .running, cause := p.cause, mid := true, off := r.off
                                             soff := p.soff, wv := p.wpn.isSome, wpn := p.wpn.getD 0, addr := p.addr } with
          step := .idle, stepPath := r.path }
      else
        let leaves := (lanesOf r.exm).foldl (fun m l => sset none m l (some Leave.stop)) r.leaves
        { q with run := some { r with leaves := leaves, exm := 0, ended := true, pathStop := some p } }
    let old := getG s g
    let s := setG s g q
    let s := if (getD s q.clu).istep then refreeze (stepOver s old) q.btag else s
    if cluster then stopCluster s q.clu else s

end Sys2Proof.Machine
end

