-- ==== Sys2Proof/Machine/Records.lean ====
section
/-! DEFINITION. What units write of themselves: the time of an event, the trace stream (R464 to R466), the error log (R439, R440),
correlation numbers, and the requests that reach the banks of the stacks (R426 to R429). -/
namespace Sys2Proof.Machine
open Sys2Proof Sys2Proof.Checks

/-- The device time base at an event: it has moved on by an amount that the manual leaves open (R156). (DESIGN CHOICE, log 13.) -/
def timeNow (s : State) : State :=
  let v := fresh s
  { v.2 with time := s.time + BitVec.ofNat 64 (v.1.toNat % 2 ^ 40) }

/-! ### The trace stream (R464, R465) -/

/-- The bytes of a record: prefix and body. (DEDUCED, log 71.) -/
def streamRec (s : State) (clu type : Nat) (body : List Byte) : List Byte :=
  leBytes 8 (fieldAt 24 32 s.tsSeq + fieldAt 16 3 clu + fieldAt 8 8 (1 + body.length / 16) + fieldAt 0 8 type)
    ++ leBytes 8 s.time.toNat ++ body

/-- A record of TYPE 0x00 that fills n bytes. (DESIGN CHOICE, log 6.) -/
def streamPad (s : State) (clu n : Nat) : List Byte := streamRec s clu 0 (List.replicate (n - 16) 0)

/-- DESIGN CHOICE, log 6. -/
def nextSeq (s : State) : State := { s with tsSeq := (s.tsSeq + 1) % 2 ^ 32 }

/-- Put bytes at the ring's place TSWR and move TSWR on. -/
def streamBytes (s : State) (bs : List Byte) : State :=
  let r := s.regs
  { s with
    hmem := memWrite s.hmem (r.tsbase.toNat + r.tswr.toNat % r.tslen.toNat) bs
    regs := { r with tswr := r.tswr + BitVec.ofNat 64 bs.length } }

/-- Write a record, or drop it where the ring has no room (R464). (DESIGN CHOICE, log 6.) -/
def streamPut (s : State) (clu type : Nat) (body : List Byte) : State :=
  let len := s.regs.tslen.toNat
  let wr := s.regs.tswr.toNat
  let n := 16 + body.length
  let tail := len - wr % len
  let pad := if tail < n then tail else 0
  if len = 0 || len + s.regs.tsrd.toNat < wr + pad + n then nextSeq s
  else
    let s := if pad = 0 then s else nextSeq (streamBytes s (streamPad s clu pad))
    nextSeq (streamBytes s (streamRec s clu type body))

/-- The body of a batch record (R466). (DEDUCED, log 71.) -/
def batchBody (b : Batch) (btag : BTag) : List Byte :=
  leBytes 16 (fieldAt 96 32 b.corr + fieldAt 80 16 b.ctx + fieldAt 64 16 btag + fieldAt 44 20 b.node)

/-- A correlation number: counted from 1, past 0xFFFF_FFFF again from 1 (R466). -/
def nextCorr (s : State) : Nat × State := (s.corr, { s with corr := if s.corr = 0xFFFFFFFF then 1 else s.corr + 1 })

/-! ### The error log (R439, R440) -/

def unitCode : ErrUnit → Nat
  | .stack => 0 | .msc => 1 | .spad => 2 | .regs => 3 | .acc => 4 | .whey => 5 | .code => 6 | .tlb => 7 | .link => 8 | .rowact => 9

/-- The location fields that a UNIT names; the others read 0 (R440). (DEDUCED, log 83.) -/
def errLoc (e : MemErr) : Nat :=
  let die := fieldAt 157 3
  let clu := fieldAt 154 3 e.clu
  let core := fieldAt 146 8 e.core
  let stack := fieldAt 124 4 e.stack
  let row := fieldAt 119 5 e.chan + fieldAt 117 2 e.bg + fieldAt 114 3 e.hbk + fieldAt 97 17 e.row
  let addr := fieldAt 0 64 e.paddr
  match e.unit with
  | .stack => die 5 + stack + row + fieldAt 93 4 e.col + addr
  | .rowact => die 5 + stack + row + addr
  | .msc => die 5 + stack + addr
  | .spad => die e.die + clu + core + fieldAt 139 4 e.bank
  | .regs => die e.die + clu + core + fieldAt 143 3 e.trk
  | .acc => die e.die + clu + fieldAt 133 6 e.floe
  | .whey => die e.die + clu + fieldAt 133 6 e.floe
  | .code => die e.die + clu + core + addr
  | .tlb => die e.die + clu + core
  | .link => die 4 + fieldAt 89 4 e.port

/-- A record with its CNT. -/
def errRec (time ctx sev unit cnt loc : Nat) : Nat :=
  fieldAt 192 64 time + fieldAt 176 16 ctx + fieldAt 172 4 sev + fieldAt 168 4 unit + fieldAt 160 8 cnt + loc

/-- The record is open for an event of the same UNIT and location: its first event is less than 1 ms old. It keeps its own CTXID and SEV. A predictive
record tells of a counter and takes no event. (DESIGN CHOICE, log 56.) -/
def errOpen (now : Nat) (e r : Nat) : Bool :=
  nbits r 175 172 != 4 && nbits r 171 168 = nbits e 171 168 && nbits r 159 0 = nbits e 159 0 && decide (now ≤ nbits r 255 192 + 1000000)

/-- A record of its own for what happens at a place. -/
def logOwn (s : State) (sev : Nat) (e : MemErr) : State :=
  let s := timeNow s
  { s with mg := { s.mg with log := s.mg.log ++ [errRec s.time.toNat 0xFFFF sev (unitCode e.unit) 1 (errLoc e)] } }

/-- Log an error (R439): it joins its open record or opens one. -/
def logErr (s : State) (sev : Nat) (ctx : Option Nat) (e : MemErr) : State :=
  let s := timeNow s
  let now := s.time.toNat
  let r := errRec now (ctx.getD 0xFFFF) sev (unitCode e.unit) 1 (errLoc e)
  match (List.range s.mg.log.length).reverse.find? fun i => errOpen now r (s.mg.log.getD i 0) with
  | some i =>
    let o := s.mg.log.getD i 0
    { s with mg := { s.mg with log := s.mg.log.set i (setField o 160 8 (Nat.min 255 (nbits o 167 160 + 1))) } }
  | none => { s with mg := { s.mg with log := s.mg.log ++ [r] } }

def noErr (u : ErrUnit) : MemErr :=
  { unit := u, kind := .corrected, ctx := none, die := 0, clu := 0, core := 0, trk := 0, bank := 0, floe := 0, stack := 0, chan := 0
    bg := 0, hbk := 0, row := 0, col := 0, port := 0, paddr := 0 }

/-! ### The stacks (R426 to R429) -/

/-- The stack of a physical address, and its local address there (R426). -/
def stackOf (pa : Nat) : Nat := pa / 1024 % 12
def localOf (pa : Nat) : Nat := pa / 1024 / 12 * 1024 + pa % 1024
def rowOf (pa : Nat) : Nat := nbits (localOf pa) 36 20

/-- The bank of a physical address (R427). -/
def bankOf (pa : Nat) : BankId :=
  let l := localOf pa
  let row := rowOf pa
  { stack := stackOf pa, chan := nbits l 14 10, bg := (nbits l 16 15).xor (nbits row 4 3), bank := (nbits l 19 17).xor (nbits row 2 0) }

/-- The physical address of the first byte of a row of a bank. -/
def rowAddr (b : BankId) (row : Nat) : Nat :=
  let l := row * 2 ^ 20 + (b.bank.xor (nbits row 2 0)) * 2 ^ 17 + (b.bg.xor (nbits row 4 3)) * 2 ^ 15 + b.chan * 2 ^ 10
  (l / 1024 * 12 + b.stack) * 1024

def bankKey (b : BankId) : Nat := ((b.stack * 32 + b.chan) * 4 + b.bg) * 8 + b.bank
def rowKey (b : BankId) (row : Nat) : Nat := bankKey b * 2 ^ 17 + row

def noBank : Bank := {}
def getBank (s : State) (b : BankId) : Bank := sget noBank s.banks (bankKey b)
def setBank (s : State) (b : BankId) (v : Bank) : State := { s with banks := sset noBank s.banks (bankKey b) v }

/-- How an access goes through the memory-side cache of its stack (R428): a read or a lane store, whose miss allocates the line, or traffic that
never allocates. -/
inductive MscUse where
  | read
  | store
  | pass
  deriving DecidableEq, Repr

/-- Entries of a bank's request queue (R429). -/
def bankQueue : Nat := 64

/-- A request reaches a bank: its queue, or the die fabric where that is full (R429). -/
def Bank.ask (k : Bank) (row : Nat) : Bank :=
  if k.queue.length < bankQueue && k.fabric.isEmpty then { k with queue := k.queue ++ [row] } else { k with fabric := k.fabric ++ [row] }

/-- The oldest request of a bank is served, and one that waits in the fabric takes the entry that it frees (R429). -/
def Bank.served (k : Bank) : Bank := { k with queue := k.queue.tail ++ k.fabric.take 1, fabric := k.fabric.tail }

/-- The banks, with a request at the bank of an address. -/
def askBank (s : State) (pa : Nat) : SMap Bank := supd noBank s.banks (bankKey (bankOf pa)) fun k => k.ask (rowOf pa)

/-- An access to device memory (R428, R429): one to a line that no cache can hold goes to the array, but for a store that allocates; which of the
lines that may be present are present is not architectural. (DESIGN CHOICE, log 23.) -/
def touch (s : State) (u : MscUse) (sp : Space) (pa : Nat) : State :=
  let held := s.cached.contains (pa / 128)
  let reach := sp == .dev && ((Config.freeValue s.free).getLsbD 0 || (u != .store && !held))
  { s with
    free := s.free + 1
    cached := if sp == .dev && u != .pass && !held then pa / 128 :: s.cached else s.cached
    banks := if reach then askBank s pa else s.banks }

/-- The same for several addresses, in order. (DESIGN CHOICE, log 23.) -/
def touchAll (s : State) (u : MscUse) (sp : Space) (pas : List Nat) : State := pas.foldl (fun s pa => touch s u sp pa) s

/-- The 128-byte lines that n bytes touch, each by its first byte. -/
def lineAddrs (pa n : Nat) : List Nat := (List.range ((pa % 128 + n + 127) / 128)).map fun i => (pa / 128 + i) * 128

/-- An access to n bytes, line by line. -/
def touchSpan (s : State) (u : MscUse) (sp : Space) (pa n : Nat) : State := touchAll s u sp (lineAddrs pa n)

/-! ### Poison (R438) -/

/-- The error of an access to a stack burst. -/
def burstErr (pa : Nat) : MemErr :=
  let b := bankOf pa
  { noErr .stack with kind := .delivered, stack := b.stack, chan := b.chan, bg := b.bg, hbk := b.bank, row := rowOf pa
                      col := nbits (localOf pa) 9 6, paddr := pa / 64 * 64 }

/-- An uncorrectable error met by the work of a context: it is logged, and the context fails (R438, R512). -/
def ctxError (s : State) (ctx : Nat) (e : MemErr) : State :=
  let s := logErr s 2 (some ctx) e
  failCtx s ctx 4 (unitCode e.unit) 0xFFFFFFFF 0xFFFFFFFF 0 (errRec s.time.toNat ctx 2 (unitCode e.unit) 1 (errLoc e))

/-- The first poisoned burst of a piece of device memory. -/
def poisonAt (s : State) (sp : Space) (pa n : Nat) : Option Nat :=
  if sp != .dev then none
  else ((List.range ((pa % 64 + n + 63) / 64)).map fun i => pa / 64 + i).find? fun k => sget false s.poison k

/-- A read of poison by a context's lane, copy engine or walker fails the context. -/
def readPoison (s : State) (ctx : Nat) (sp : Space) (pa n : Nat) : State :=
  match poisonAt s sp pa n with | some k => ctxError s ctx (burstErr (k * 64)) | none => s

/-- A full 64-byte write of a burst ends its poison. -/
def clearPoison (s : State) (sp : Space) (pa n : Nat) : State :=
  if sp != .dev then s
  else { s with poison := s.poison.filter fun e => !(decide (pa ≤ e.1 * 64) && decide (e.1 * 64 + 64 ≤ pa + n)) }

/-- A write of n bytes past the cache (R428): its lines may reach their banks, and a full write of a burst ends its poison (R438). -/
def writeSpan (s : State) (sp : Space) (pa n : Nat) : State := clearPoison (touchSpan s .pass sp pa n) sp pa n

/-- A read of n bytes past the cache by the work of a context. -/
def readSpan (s : State) (ctx : Nat) (sp : Space) (pa n : Nat) : State := readPoison (touchSpan s .pass sp pa n) ctx sp pa n

end Sys2Proof.Machine
end

