-- ==== Sys2Proof/Machine/Log.lean ====
section
/-! DEFINITION. The order log of a context and its replay (R475, R476). -/
namespace Sys2Proof.Machine
open Sys2Proof Sys2Proof.Checks

def noCkpt : Ckpt := {}
def getK (s : State) (ctx : Nat) : Ckpt := sget noCkpt s.ckpts ctx
def setK (s : State) (ctx : Nat) (v : Ckpt) : State := { s with ckpts := sset noCkpt s.ckpts ctx v }
def updK (s : State) (ctx : Nat) (f : Ckpt → Ckpt) : State := setK s ctx (f (getK s ctx))

/-- What an entry is ordered by: a location, a ring, a node, the governor of a batch. (DEDUCED, log 47.) -/
def LogEntry.key : LogEntry → Nat × Nat × Nat
  | .atomic sp a _ _ _ _ => (0, (match sp with | .dev => 0 | .host => 1 | .spad => 2 | .sram => 3), a)
  | .ticket r b _ _ _ _ => (1, r, b)
  | .grant n _ _ => (2, n, 0)
  | .move b _ _ _ => (3, b, 0)

/-- Entries of a context's log that replay has not yet met. -/
def replayLog (s : State) (ctx : Nat) : List LogEntry := (getK s ctx).replay

/-- Under replay an event takes place only when it stands next in the log for its location, ring or node. -/
def replayReady (s : State) (ctx : Nat) (e : LogEntry) : Bool :=
  match (replayLog s ctx).find? fun x => x.key = e.key with
  | some x => x = e
  | none => (replayLog s ctx).isEmpty

/-- The number of the next batch of a node. (DESIGN CHOICE, log 103.) -/
def nodeSeq (s : State) (ctx node : Nat) : Nat × State :=
  let n := sget 0 (getC s ctx).seqs node
  (n, updC s ctx fun c => { c with seqs := sset 0 c.seqs node (n + 1) })

/-- The BTAG that a batch had in the run that replay follows. -/
def replayTag (s : State) (ctx node seq : Nat) : Option BTag := ((getK s ctx).retags.find? fun x => x.node = node && x.seq = seq).map BatchNo.btag

/-- A placement has given a batch its BTAG. -/
def tagged (s : State) (ctx node seq : Nat) (b : BTag) : State :=
  if (getK s ctx).log then updK s ctx fun k => { k with tags := k.tags ++ [{ node := node, seq := seq, btag := b }] } else s

/-- An event of the log has taken place: replay has met it, and it is logged where LOG is set. -/
def logged (s : State) (ctx : Nat) (e : LogEntry) : State :=
  let k := getK s ctx
  if k.replay.isEmpty && !k.log then s
  else setK s ctx { k with replay := k.replay.erase e, buffer := if k.log then k.buffer ++ [e] else k.buffer }

end Sys2Proof.Machine
end

