-- ==== Sys2Proof/Machine/View.lean ====
section
/-! DEFINITION. Scopes and what a party sees of another's writes: the instance of a scope (R50, R51), the pairing of a release with an
acquire (R52), and the views of lanes that have not yet come upon a write that is performed (R54, R59 to R66). -/
namespace Sys2Proof.Machine
open Sys2Proof Sys2Proof.Checks

/-! ### Scopes (R50 to R52) -/

/-- A group as a party. -/
def partyOf (s : State) (g : GKey) : Party := { clu := gclu g, btag := (getG s g).btag, gnum := (getG s g).gnum }

/-- A party shares a team that stands in a slot of a group (R51). -/
def slotTeams (s : State) (p : Group) (q : Party) : Bool :=
  p.team.any fun e => e.2 != 0 &&
    (let t := getT s (tkey p.clu (e.2 % 256))
     t.v && t.btag = p.btag && q.btag = p.btag && t.members.testBit q.gnum)

/-- A party lies in the instance of a scope that contains the lanes of group g (R50, R51). Lanes of one group are told apart at scope
`.ln` alone, where no other party lies. -/
def inScope (s : State) (g : GKey) (sc : Scope) (q : Party) : Bool :=
  match sc with
  | .ln => false
  | .grp => partyOf s g = q
  | .team => partyOf s g = q || slotTeams s (getG s g) q
  | .clu => gclu g = q.clu
  | _ => true

/-- A release by p at scope S1 pairs with an acquire by q at scope S2 (R52). -/
def pairs (s : State) (p : GKey) (s1 : Scope) (q : GKey) (s2 : Scope) : Bool := inScope s p s1 (partyOf s q) && inScope s q s2 (partyOf s p)

/-- The releasing party of a mark lies in the instance of an acquire's scope (R52). -/
def acquires (s : State) (g : GKey) (sc : Scope) : Mark → Bool
  | .cp => sc = .dev || sc = .sys
  | .rel p => inScope s g sc p
  | .line _ => false

/-! ### Views -/

/-- A byte as a lane sees it: the oldest value that its view still holds, else memory (R54, R56). -/
def viewByte (s : State) (g : GKey) (l : Nat) (sp : Space) (pa : Nat) : Byte :=
  match s.stale.find? fun e => e.g = g && e.lanes.getLsbD l && e.sp = sp && decide (e.pa ≤ pa) && decide (pa < e.pa + e.old.length) with
  | some e => e.old.getD (pa - e.pa) 0
  | none => (spaceRead s sp pa 1).headD 0

/-- An entry of a view meets bytes of a space. -/
def Stale.meets (e : Stale) (sp : Space) (pa n : Nat) : Bool :=
  e.sp = sp && decide (e.pa < pa + n) && decide (pa < e.pa + e.old.length)

/-- Lanes come up to date with some writes: `f` says which lanes lose an entry, and with a newer entry go the older ones of the same lanes
that meet its bytes, so that a lane sees each write whole and the writes of a byte in their order (R55, R56). -/
def viewCut (f : Stale → Mask) (es : List Stale) : List Stale :=
  (es.foldr (fun e (a : List Stale × List Stale) =>
    let m := e.lanes &&& a.2.foldl (fun m x => if x.g = e.g && e.meets x.sp x.pa x.old.length then m ||| x.lanes else m) (f e)
    let n := e.lanes &&& ~~~m
    (if n = 0 then a.1 else { e with lanes := n } :: a.1, if m = 0 then a.2 else { e with lanes := m } :: a.2)) ([], [])).1

/-- The lanes of a group come up to date with the writes that `f` picks. -/
def viewDrop (s : State) (g : GKey) (m : Mask) (f : Stale → Bool) : State :=
  { s with stale := viewCut (fun e => if e.g = g && f e then m else 0) s.stale }

/-- Every lane comes up to date with the writes that `f` picks. -/
def viewAll (s : State) (f : Stale → Bool) : State := { s with stale := viewCut (fun e => if f e then e.lanes else 0) s.stale }

/-- The lanes of a group come up to date with every write. -/
def viewClear (s : State) (g : GKey) (m : Mask) : State := viewDrop s g m fun _ => true

/-- A write of n bytes that every lane sees at once (R56). -/
def viewSeen (s : State) (sp : Space) (pa n : Nat) : State := viewAll s fun e => e.meets sp pa n

/-- A write of n bytes by lanes of group g is about to be performed. Which lanes that may access the bytes do not come upon it at once is
left open, but no lane that `sees` picks, and the writers see it (R54, R56, R61). Those who see it see what stood there before too. (DESIGN CHOICE, log 86.) -/
def viewWrite (s : State) (g : GKey) (m : Mask) (sees : GKey → Bool) (sp : Space) (pa n : Nat) : State :=
  let old := spaceRead s sp pa n
  let obs := (s.groups.filter fun e => e.2.res && (sp != .spad || gclu e.1 = gclu g) && !sees e.1).map Prod.fst
  if sp = .sram then s
  else
    let x := obs.foldl (fun (a : List Stale × State) o =>
      let v := fresh a.2
      let lanes : Mask := (v.1.extractLsb' 32 32) &&& (if o = g then ~~~m else BitVec.allOnes 32) &&& (getG s o).live
      if lanes = 0 then (a.1, v.2) else (a.1 ++ [{ g := o, lanes := lanes, sp := sp, pa := pa, old := old, writer := partyOf s g }], v.2)) ([], s)
    let late (o : GKey) : Mask := match x.1.find? fun e => e.g = o with | some e => e.lanes | none => 0
    { x.2 with stale := viewCut (fun e => if e.meets sp pa n then ~~~late e.g else 0) x.2.stale ++ x.1 }

/-- A mark joins the entries whose observers `f` picks. -/
def viewMark (s : State) (k : Mark) (f : GKey → Bool) : State :=
  { s with stale := s.stale.map fun e => if f e.g && !e.marks.contains k then { e with marks := k :: e.marks } else e }

/-- A release by group p at a scope carries every write that is performed, whoever made it, to the observers in its instance (R52, R66). -/
def viewRelease (s : State) (p : GKey) (sc : Scope) : State := viewMark s (.rel (partyOf s p)) fun o => inScope s p sc (partyOf s o)

/-- What the command processor releases (R65): every party of the system is in its instance. -/
def viewReleaseCp (s : State) : State := viewMark s .cp fun _ => true

/-- An acquire by lanes of group g at a scope: what a party in its instance has released to it is seen (R52, R59). -/
def viewAcquire (s : State) (g : GKey) (m : Mask) (sc : Scope) : State := viewDrop s g m fun e => e.marks.any (acquires s g sc)

/-- Every write of group p is performed for the observers in the instance of a scope (R217). -/
def viewPerform (s : State) (p : GKey) (sc : Scope) : State :=
  viewAll s fun e => e.writer = partyOf s p && inScope s p sc (partyOf s e.g)

/-- A line of a cluster is set full: the event carries every write performed (R65). -/
def lineFull (s : State) (key : Nat) : State := viewMark (setLine s key true) (.line (key / 128)) fun o => gclu o = key / 2 ^ 26

/-- A load that returns bytes of a line that an event has set full (R65). -/
def viewLine (s : State) (g : GKey) (m : Mask) (key : Nat) : State := viewDrop s g m fun e => e.marks.contains (.line (key / 128))

/-- An event at device scope that any access of a context may acquire through its translation: every lane of the context is up to date
(R65, R219). (DESIGN CHOICE, log 86.) -/
def viewContext (s : State) (ctx : Nat) : State := viewAll s fun e => (getG s e.g).ctx = ctx

/-- The view of a group moves on: it comes up to date with some writes, in the order of each byte. (DESIGN CHOICE, log 86.) -/
def viewMove (s : State) (g : GKey) : State :=
  if s.stale.any fun e => e.g = g then
    let v := fresh s
    let picks := (s.stale.zip (List.range s.stale.length)).filter fun e => v.1.getLsbD (e.2 % 64)
    viewDrop v.2 g (BitVec.allOnes 32) fun e => picks.any fun x => x.1 = e
  else s

/-- An acquiring atomic of some of the lanes has committed and is still on its way: every later access of theirs waits for it (R63, R229). -/
def acqOwed (s : State) (g : GKey) (m : Mask) : Bool := s.flight.any fun f => f.g = g && f.ord = .acq && f.lanes &&& m != 0

end Sys2Proof.Machine
end

