-- ==== Sys2Proof/Machine/Ring.lean ====
section
/-! DEFINITION. Scratchpad addresses, regions and planes, and ring headers and records: what the checks at issue and
the stream registers read (R249 to R258, R409 to R415). -/
namespace Sys2Proof.Machine
open Sys2Proof Sys2Proof.Checks

/-! ### Regions and planes (R257, R258) -/

def rgnEn (e : Nat) : Bool := e.testBit 63
def rgnDual (e : Nat) : Bool := e.testBit 62
def rgnClear (e : Nat) : Bool := e.testBit 61
/-- 0 PRIORITY, 1 SUM, 2 FAULT. -/
def rgnRule (e : Nat) : Nat := nbits e 60 59
def rgnStype (e : Nat) : Nat := nbits e 58 57
def rgnPsel (e : Nat) : Nat := nbits e 56 56
def rgnTmx (e : Nat) : Nat := nbits e 55 48
def rgnBase (e : Nat) : Nat := nbits e 47 37
def rgnSize (e : Nat) : Nat := nbits e 36 26

/-- The dual region of a batch that holds an offset from SPB, with its index. -/
def dualAt (b : Batch) (off : Nat) : Option (Nat × Nat) :=
  (b.regions.find? fun e => rgnEn e.2 && rgnDual e.2 && decide (rgnBase e.2 * 128 ≤ off)
    && decide (off < (rgnBase e.2 + rgnSize e.2) * 128))

/-- The offset from SPB at which plane 0 or 1 of a dual region holds an offset: plane 0 stands at the region's own
addresses, plane 1 in the plane store. -/
def planeOff (b : Batch) (r : Nat × Nat) (plane off : Nat) : Nat :=
  if plane = 0 then off else sget 0 b.pstore r.1 + (off - rgnBase r.2 * 128)

/-- Where a load of an offset reads: the present plane of a dual region, else the offset itself (R58). -/
def presentOff (b : Batch) (off : Nat) : Nat :=
  match dualAt b off with
  | some r => planeOff b r (rgnPsel r.2) off
  | none => off

/-- The key of the storage that a batch's offset names for a load. -/
def presentKey (b : Batch) (off : Nat) : Nat := spadKey b.clu (b.spb + presentOff b off)

/-- Bytes of the batch's scratchpad as a load reads them. -/
def spadLoad (s : State) (b : Batch) (a n : Nat) : List Byte :=
  (List.range n).map fun k => memGet s.spad (presentKey b (a + k - b.spb))

/-- Orders 1 and 2 of R253: the core and byte fields exist, and the bytes are all in the `spad` bytes or the mailbox.
Answers the CAUSE that fails, 0 for an address with bits above its core field. (DESIGN CHOICE, log 106.) -/
def spadRange (b : Batch) (a n : Nat) : Option Nat :=
  if 192 ≤ nbits a 25 18 || 0x30000 ≤ nbits a 17 0 || 2 ^ 26 ≤ a then some 0
  else if b.spb ≤ a && decide (a + n ≤ b.spb + b.sps + b.mbox) then none
  else some 1

/-- Membership of a group in a team-table entry of its batch (R264). -/
def isMember (s : State) (q : Group) (tmx : Nat) : Bool :=
  let t := getT s (tkey q.clu tmx)
  t.v && t.btag = q.btag && t.members.testBit q.gnum

/-! ### Ring headers and records (R409, R410) -/

/-- A ring header read at its bank. -/
structure RingHdr where
  ret : Nat
  occ : Nat
  vis : Nat
  tkt : Nat
  v : Bool
  byteRing : Bool
  slg : Nat
  base : Nat
  cap : Nat
  bad : Bool
  deriving DecidableEq, Repr

def ringHdr (s : State) (b : Batch) (a : Nat) : RingHdr :=
  let h := leNat (spadLoad s b a 64)
  let kind := h.testBit 62
  let slg := nbits h 61 58
  let cap := nbits h 31 0
  { ret := nbits h 319 256, occ := nbits h 255 192, vis := nbits h 191 128, tkt := nbits h 127 64, v := h.testBit 63
    byteRing := kind, slg := slg, base := nbits h 45 32, cap := cap
    bad := nbits h 511 320 != 0 || nbits h 57 46 != 0 || cap % 16 != 0
      || (if kind then slg != 0 else slg < 4 || 14 < slg || cap % 2 ^ slg != 0) }

/-- Write scratchpad bytes at their own addresses, for every lane to see (R56). -/
def spadStore (s : State) (b : Batch) (a : Nat) (v : List Byte) : State :=
  let s := viewSeen s .spad (spadKey b.clu a) v.length
  { s with spad := memWrite s.spad (spadKey b.clu a) v }

/-- The device writes TKT, VIS, OCC and RET (R409). -/
def ringPut (s : State) (b : Batch) (a : Nat) (h : RingHdr) : State :=
  spadStore s b (a + 8) (leBytes 8 h.tkt ++ leBytes 8 h.vis ++ leBytes 8 h.occ ++ leBytes 8 h.ret)

/-- Cluster address of the record at a position or ticket, wherever the header has the storage. (DESIGN CHOICE, log 110.) -/
def recAddr (b : Batch) (h : RingHdr) (t : Nat) : Nat :=
  if h.cap = 0 then b.spb + 16 * h.base
  else if h.byteRing then b.spb + 16 * h.base + t % h.cap
  else b.spb + 16 * h.base + t % (h.cap / 2 ^ h.slg) * 2 ^ h.slg

def recHead (s : State) (b : Batch) (a : Nat) : Nat := leNat (spadLoad s b a 8)
def recSeq (h : Nat) : Nat := nbits h 63 32
def recSt (h : Nat) : Nat := nbits h 31 29
def recLen (h : Nat) : Nat := nbits h 28 0
def mkRec (seq st len : Nat) : Nat := fieldAt 32 32 seq + fieldAt 29 3 st + fieldAt 0 29 len
def setSt (s : State) (b : Batch) (a st : Nat) : State :=
  let h := recHead s b a
  spadStore s b a (leBytes 8 (mkRec (recSeq h) st (recLen h)))

/-- What a record takes up: a ticket of a reorder ring, or its footprint in a byte ring (R412). -/
def recFoot (h : RingHdr) (head : Nat) : Nat :=
  if h.byteRing then 16 * ((8 + recLen head + 15) / 16) else 1

/-- What a record counts for in OCC (R409). -/
def recOcc (h : RingHdr) (head : Nat) : Nat := if h.byteRing then recFoot h head else 1

/-- VIS passes every contiguous full or skip record, and OCC counts the full ones (R413). At most `fuel` records. -/
def advanceVis (s : State) (b : Batch) : Nat → RingHdr → RingHdr
  | 0, h => h
  | n + 1, h =>
    if h.tkt ≤ h.vis then h
    else
      let e := recHead s b (recAddr b h h.vis)
      if recSeq e ≠ h.vis % 2 ^ 32 then h
      else if recSt e = 2 then advanceVis s b n { h with vis := h.vis + recFoot h e, occ := h.occ + recOcc h e }
      else if recSt e = 4 then advanceVis s b n { h with vis := h.vis + recFoot h e }
      else h

/-- RET passes every contiguous free record below VIS (R414). -/
def advanceRet (s : State) (b : Batch) : Nat → RingHdr → RingHdr
  | 0, h => h
  | n + 1, h =>
    if h.vis ≤ h.ret then h
    else
      let e := recHead s b (recAddr b h h.ret)
      if recSeq e = h.ret % 2 ^ 32 && recSt e = 0 then advanceRet s b n { h with ret := h.ret + recFoot h e }
      else h

/-- Records below VIS from a position on, in rising order. -/
def ringRecs (s : State) (b : Batch) (h : RingHdr) : Nat → Nat → List (Nat × Nat)
  | 0, _ => []
  | n + 1, t =>
    if h.vis ≤ t then []
    else
      let a := recAddr b h t
      let e := recHead s b a
      (a, e) :: ringRecs s b h n (t + recFoot h e)

/-- Enough records for any ring of one core. -/
def ringFuel : Nat := 12288

/-- A pop for the acting lanes (R414): the full records in order, and the skip records that the pop passes, which
are retired. `none` where too few are full. -/
def ringPop (s : State) (b : Batch) (a : Nat) (n : Nat) : Option (List Nat × State) :=
  let h := ringHdr s b a
  let recs := ringRecs s b h ringFuel h.ret
  let full := (recs.filter fun e => recSt e.2 = 2).map Prod.fst
  if full.length < n then none
  else
    let taken := full.take n
    let last := (taken.getLast?).getD 0
    let upto := (recs.takeWhile fun e => e.1 ≠ last)
    let skips := (upto.filter fun e => recSt e.2 = 4).map Prod.fst
    let occ := (recs.filter fun e => taken.contains e.1).foldl (fun o e => o - recOcc h e.2) h.occ
    let s := skips.foldl (fun s x => setSt s b x 0) s
    let s := taken.foldl (fun s x => setSt s b x 5) s
    let h := advanceRet s b ringFuel { h with occ := occ }
    some (taken, ringPut s b a h)

/-- A popped record of a lane whose trace commits becomes free; of a lane that is discarded, full again (R414). -/
def ringSettle (s : State) (b : Batch) (p : Pop) (commit : Bool) : State :=
  let a := b.spb + p.hdr
  if commit then
    let s := setSt s b p.recd 0
    ringPut s b a (advanceRet s b ringFuel (ringHdr s b a))
  else
    let h := ringHdr s b a
    let s := setSt s b p.recd 2
    ringPut s b a { h with occ := h.occ + recOcc h (recHead s b p.recd) }

end Sys2Proof.Machine
end

