-- ==== Sys2Proof/Machine/Operands.lean ====
section
/-! DEFINITION. The operand forms (R109, R110, R115, R117) and the issue of one instruction: which lanes act, what the
marker and the scoreboard hold back, what raises a path trap, and what is applied to the working version (R91 to R101,
R108, R131). -/
namespace Sys2Proof.Machine
open Sys2Proof Sys2Proof.Checks

/-- The fields of a word that every format shares (R107). -/
structure Hd where
  nx : Nx
  u : Bool
  s : Bool
  la : Bool
  lb : Bool
  lc : Bool
  psns : Bool
  pidx : Nat
  dst : Opnd
  sa : Opnd
  sb : Opnd
  sc : Opnd
  imm : DWord
  deriving DecidableEq, Repr

def hd {M : Type} (w : IW M) : Hd :=
  ⟨w.nx, w.u, w.s, w.la, w.lb, w.lc, w.psns, w.pidx.val, w.dst, w.sa, w.sb, w.sc, w.imm⟩

/-- How many consecutive registers SA, SB and SC name (R110); 0 for a field that the instruction does not use. `nd` are the
registers that DST names as a source. -/
structure Shape where
  na : Nat := 1
  nb : Nat := 0
  nc : Nat := 0
  nd : Nat := 0
  deriving DecidableEq, Repr

/-- The x registers that an operand of n registers names. -/
def opndRegs (o : Opnd) (n : Nat) : List Nat :=
  match o with
  | .x k => (List.range n).map fun i => k.val + i
  | _ => []

def opndReg : Opnd → Nat
  | .x k => k.val
  | .p k => k.val
  | .q k => k.val
  | .a k => k.val
  | _ => 0

/-- What one lane reads: its working version, its popped address, the immediate. -/
structure Ctx1 where
  s : State
  g : GKey
  q : Group
  r : Run
  h : Hd
  act : Mask
  pops : SMap Word
  word : IWord
  deriving DecidableEq, Repr

/-- A 32-bit source value (R48, R109, R132): a register, a predicate as 0 or 1, a popped address, the immediate. -/
def src (c : Ctx1) (l : Nat) (o : Opnd) : Word :=
  match o with
  | .x k => rdX c.q.work l k.val
  | .p k => if rdP c.q.work l k.val then 1 else 0
  | .q _ => sget 0 c.pops l
  | .imm => c.h.imm.setWidth 32
  | _ => 0

/-- A 64-bit source value: a pair, or the whole immediate. -/
def src64 (c : Ctx1) (l : Nat) (o : Opnd) : DWord :=
  match o with
  | .x k => rdPair c.q.work l k.val
  | .imm => c.h.imm
  | o => (src c l o).setWidth 64

/-- A source as a truth value: a predicate, or a nonzero register (R150). -/
def srcP (c : Ctx1) (l : Nat) (o : Opnd) : Bool :=
  match o with
  | .p k => rdP c.q.work l k.val
  | o => src c l o != 0

/-- A source of n registers. -/
def srcN (c : Ctx1) (l : Nat) (o : Opnd) (n : Nat) : List Word := (opndRegs o n).map fun k => rdX c.q.work l k

/-- What one acting lane does: its register and predicate writes, the destinations that become pending (with the kind
of `Vers.pend`), its buffered effects, the elements that arrive later, and how it leaves the mask if it does. -/
structure LaneOut where
  wx : List (Nat × Word) := []
  wp : List (Nat × Bool) := []
  pend : List (Nat × Nat) := []
  effs : List Buffered := []
  sbw : List (Nat × Nat × Nat × Nat × Word) := []
  vread : List (Nat × Nat × Nat) := []
  leave : Option Leave := none
  deriving DecidableEq, Repr

def dstX (o : Opnd) (v : Word) : LaneOut := { wx := [(opndReg o, v)] }
def dst64 (o : Opnd) (v : DWord) : LaneOut := { wx := [(opndReg o, v.setWidth 32), (opndReg o + 1, v.extractLsb' 32 32)] }
def dstP (o : Opnd) (b : Bool) : LaneOut := { wp := [(opndReg o, b)] }
/-- A truth value into a predicate, or as 1 or 0 into a register (R146). -/
def dstBool (o : Opnd) (b : Bool) : LaneOut :=
  match o with
  | .p _ => dstP o b
  | _ => dstX o (if b then 1 else 0)
/-- The same result, deferred (R100). -/
def deferred (o : LaneOut) : LaneOut := { o with pend := o.wx.map fun e => (e.1, 1) }
/-- The tag of the instruction that issues. -/
def tagOf (c : Ctx1) : Nat := 256 * c.r.tno + c.r.off
/-- The destination that an effect names. -/
def dstTag (c : Ctx1) (o : Opnd) : Nat := 64 * tagOf c + opndReg o
/-- A return held to commit (R90). -/
def heldTo (c : Ctx1) (o : Opnd) (n : Nat) : List (Nat × Nat) := (opndRegs o n).map fun k => (k, 4 * tagOf c + 2)
/-- A scoreboarded destination (R99). -/
def scored (c : Ctx1) (o : Opnd) (n : Nat) : List (Nat × Nat) := (opndRegs o n).map fun k => (k, 4 * tagOf c + 3)
def trapLane (code cause addr : Nat) : LaneOut := { leave := some (.trap { code := code, cause := cause, addr := addr }) }

/-! ### Lanes of an instruction -/

/-- The lanes for which an instruction acts (R108). -/
def actingLanes (q : Group) (r : Run) (h : Hd) : Mask :=
  maskOf fun l => r.exm.getLsbD l && (rdP q.work l h.pidx != h.psns)

/-- Every x register that the sources name. -/
def srcRegs (h : Hd) (sh : Shape) : List Nat := opndRegs h.sa sh.na ++ opndRegs h.sb sh.nb ++ opndRegs h.sc sh.nc
  ++ opndRegs h.dst sh.nd

/-- Some lane of the mask has one of the registers in a state that `f` picks. -/
def anyPend (v : Vers) (m : Mask) (ks : List Nat) (f : Nat → Bool) : Bool :=
  (lanesOf m).any fun l => ks.any fun k => f (rdPend v l k)

/-- A register differs among lanes. (DEDUCED, log 31.) -/
def differs (v : Vers) (m : Mask) (k : Nat) : Bool :=
  match lanesOf m with
  | [] => false
  | l0 :: r => r.any fun l => rdX v l k != rdX v l0 k

/-- U asserts that every source is uniform (R98): a source in per-lane form differs among the lanes of EXM. (DEDUCED, log 31.) -/
def uniformBreak (q : Group) (r : Run) (h : Hd) (sh : Shape) : Bool :=
  (srcRegs h sh).any fun k => !q.work.uni.getLsbD k && differs q.work r.exm k

/-- Issue cycles (R92). (DESIGN CHOICE, log 20.) -/
def issueCycles (q : Group) (r : Run) (h : Hd) (sh : Shape) : Nat :=
  let n := Nat.max (laneCount r.exm) 4
  if h.u && (srcRegs h sh).all (fun k => q.work.uni.getLsbD k) then 1 else n

/-- RTKT, QBND and WRSR go with the commit outside the effect buffer (R89, R411). -/
def takesEntry : Eff → Bool
  | .rtkt .. => false
  | .qbnd .. => false
  | .wrsr .. => false
  | _ => true

/-- Effect-buffer entries that a lane holds (R89). -/
def bufCount (r : Run) (l : Nat) : Nat := (r.bufs.filter fun b => b.lanes.getLsbD l && takesEntry b.eff).length

/-! ### Version replay (R22) -/

/-- What a lane read in this trace of objects of which it read two versions. -/
def mixedReads (s : State) (ctx : Nat) (r : Run) (l : Nat) : List (Nat × Nat) :=
  let rs := (r.vread.filter fun v => v.1 = l).map Prod.snd
  let pubs := s.pubs.filter fun p => p.1 = ctx
  rs.filter fun a => rs.any fun b =>
    if a.1 % 2 = 0 then a.1 = b.1 && a.2 != b.2
    else b.1 % 2 = 1 && decide (a.2 < b.2) && ((pubs.drop a.2).take (b.2 - a.2)).any fun p =>
      decide (p.2.1 ≤ a.1 / 2) && decide (a.1 / 2 < p.2.1 + p.2.2) && decide (p.2.1 ≤ b.1 / 2) && decide (b.1 / 2 < p.2.1 + p.2.2)

/-- A lane read two versions of one object in this trace. -/
def lostLane (s : State) (ctx : Nat) (r : Run) (l : Nat) : Bool := !(mixedReads s ctx r l).isEmpty

/-! ### Issue -/

/-- The trace ends here for every lane still in EXM, with one trap (R87). One that lanes of mixed versions alone took begins no halt: they run again (R22). -/
def pathTrap (s : State) (g : GKey) (t : Trap) : State :=
  let q := getG s g
  match q.run with
  | none => s
  | some r =>
    let leaves := (lanesOf r.exm).foldl (fun m l => sset none m l (some (Leave.trap t))) r.leaves
    let s' := setG s g { q with run := some { r with leaves := leaves, exm := 0, ended := true } }
    if (lanesOf r.exm).all (lostLane s q.ctx r) then s' else noteTrap s' g t

/-- The CLOCK count of a cluster moves on by an amount of time the manual leaves open, at least `n` (R102). -/
def clockAdd (s : State) (clu n : Nat) : State :=
  let (v, s) := fresh s
  { s with clock := supd 0 s.clock clu fun c => c + BitVec.ofNat 64 (n + v.toNat % 2 ^ 16) }

/-- Merge what one lane did into the working version. -/
def applyLane (u : Bool) (q : Group) (l : Nat) (o : LaneOut) : Group :=
  let v := o.wx.foldl (fun v e => wrX v l e.1 e.2) q.work
  let v := o.wp.foldl (fun v e => wrP v l e.1 e.2) v
  let v := o.pend.foldl (fun v e => setPend v l e.1 e.2) v
  let uni := (o.wx.map Prod.fst ++ o.pend.map Prod.fst).foldl
    (fun m k => if u then m ||| BitVec.ofNat 64 (2 ^ k) else m &&& ~~~(BitVec.ofNat 64 (2 ^ k))) v.uni
  { q with work := { v with uni := uni }, sbw := q.sbw ++ o.sbw }

/-- What the running trace notes of one lane. -/
def noteLane (r : Run) (l : Nat) (o : LaneOut) : Run :=
  let ks := o.wx.map Prod.fst ++ o.pend.map Prod.fst
  { r with
    written := ks.foldl (fun m k => m ||| BitVec.ofNat 64 (2 ^ k)) r.written
    wrote := ks.foldl (fun m k => sset false m (64 * l + k) true) r.wrote
    dyingX := ks.foldl (fun m k => sset false m (64 * l + k) false) r.dyingX
    dyingP := o.wp.foldl (fun m e => sset false m (8 * l + e.1) false) r.dyingP
    bufs := r.bufs ++ o.effs
    vread := r.vread ++ o.vread
    exm := if o.leave.isSome then r.exm &&& ~~~(laneBit l) else r.exm
    leaves := if o.leave.isSome then sset none r.leaves l o.leave else r.leaves }

/-- L bits: the sources' registers become dead at commit for every lane of EXM (R97). (DEDUCED, log 29.) -/
def markDying (r : Run) (h : Hd) (sh : Shape) : Run :=
  let one (r : Run) (b : Bool) (o : Opnd) (n : Nat) : Run :=
    if !b then r
    else
      (lanesOf r.exm).foldl (fun r l =>
        match o with
        | .x _ => { r with dyingX := (opndRegs o n).foldl (fun m k => sset false m (64 * l + k) true) r.dyingX }
        | .p k => { r with dyingP := sset false r.dyingP (8 * l + k.val) true }
        | _ => r) r
  one (one (one r h.la h.sa sh.na) h.lb h.sb sh.nb) h.lc h.sc sh.nc

/-- The q operand of a word, if it has one (R110). -/
def qOpnd (h : Hd) : Option Nat :=
  [h.sa, h.sb, h.sc].findSome? fun o => match o with | .q n => some n.val | _ => none

/-- How a lane's read of a stream register fails its checks (R415). -/
def qCheck (s : State) (b : Batch) (q : Group) (l n : Nat) : Option Trap :=
  match sget 0 q.work.qb (4 * l + n) with
  | 0 => some { code := 0x0D, cause := 6 }
  | off + 1 =>
    let a := b.spb + off
    match spadRange b a 64 with
    | some c => some { code := 0x0D, cause := c, addr := a }
    | none =>
      let h := ringHdr s b a
      if !h.v || h.bad then some { code := 0x0D, cause := 6, addr := a } else none

/-- Pop for the acting lanes that pass the checks, one ring after another where lanes are bound to different rings
(R414). `none` stalls. A pop is an acquire at cluster scope. -/
def popLanes (s : State) (g : GKey) (n : Nat) (lanes : List Nat) : Option (SMap Word × List Pop × State) :=
  let q := getG s g
  let b := getB s q.btag
  let offs := (lanes.map fun l => sget 0 q.work.qb (4 * l + n) - 1).eraseDups
  offs.foldl (fun acc off => acc.bind fun (m, ps, s) =>
    let ls := lanes.filter fun l => sget 0 q.work.qb (4 * l + n) - 1 = off
    (ringPop s b (b.spb + off) ls.length).map fun (recs, s) =>
      let s := viewAcquire s g (maskOf ls.contains) .clu
      ((ls.zip recs).foldl (fun m e => sset 0 m e.1 (BitVec.ofNat 32 (e.2 + 8))) m,
       ps ++ (ls.zip recs).map (fun e => ⟨e.1, off, e.2⟩), s)) (some ([], [], s))

/-- What a memory instruction accesses, for watchpoints and samples (R453, R468): class 0 load, 1 store, 2 atomic; whether the
address is a cluster address; the lanes that access; their address; its bytes. -/
structure Access where
  cls : Nat
  spad : Bool
  on : Ctx1 → Nat → Bool := fun _ _ => true
  addr : Ctx1 → Nat → Nat
  len : Nat
  bypass : Bool := false

/-- What an instruction brings to its issue: its sources' widths, the operands that must be uniform over the acting
lanes (R98), whether SA is read in other lanes only, a reason to wait before anything else is done, a check of the path that holds where no lane acts too (R224), a check of the path, one
lane's effect, an effect that acts once for the path (R89), what it accesses, a reason to stop the path (R454), the
synchronising effect that it asks for (R123) and what follows its issue. -/
structure Ins where
  sh : Shape := {}
  crossA : Bool := false
  uni : List (Opnd × Nat) := []
  wait : Ctx1 → Option State := fun _ => none
  always : Ctx1 → Option Trap := fun _ => none
  path : Ctx1 → Option Trap := fun _ => none
  stop : Ctx1 → Option (PathStop × Bool) := fun _ => none
  body : Ctx1 → Nat → LaneOut
  once : Option (Ctx1 → Eff) := none
  acc : Option Access := none
  sync : Option (Ctx1 → Nat × Sync) := none
  after : Ctx1 → State → State := fun _ s => s

/-- Take the word out of issue: the next offset, or the end of the trace (R76, R86). -/
def advance (r : Run) (h : Hd) : Run :=
  { r with off := r.off + 1, nx := if h.nx = .seq then r.nx else h.nx
           ended := r.ended || h.nx != .seq || r.exm = 0 || decide (r.words.length ≤ r.off + 1) }

/-- The lane out of an instruction's body with trap fields of this word, and without room in the buffer a
Trace-Overflow in place of its effects (R89). -/
def finishLane (c : Ctx1) (l : Nat) (once : Bool) (o : LaneOut) : LaneOut :=
  let o := match o.leave with
    | some (.trap t) => { leave := some (.trap { t with off := c.r.off, word := c.word }) }
    | some v => { leave := some v }
    | none => o
  let need := (o.effs.filter fun b => takesEntry b.eff).length + if once && o.leave.isNone then 1 else 0
  if 16 < bufCount c.r l + need then
    { leave := some (.trap { code := 6, cause := 0, off := c.r.off, word := c.word }) }
  else o

/-- Watchpoint n matches the access of a lane: its ACT and its resolved address (R453). (DEDUCED, log 64.) -/
def watchAt (d : Debug) (b : Batch) (a : Access) (addr n : Nat) : Option (Nat × Nat) :=
  let c := (sget 0x20000#64 d.wpc n).toNat
  let w := (sget 0 d.wpa n).toNat
  let space := nbits c 30 29
  let base := if space = 2 then b.spb + w else w
  if c.testBit 31 && c.testBit (26 - a.cls) && (space != 0) == a.spad
      && decide (addr < base + 2 ^ nbits c 19 16) && decide (base < addr + a.len) then some (nbits c 28 27, base)
  else none

/-- The lowest watchpoint that matches a lane's access: number, ACT, address. (DEDUCED, log 64.) -/
def watchOf (c : Ctx1) (i : Ins) (l : Nat) : Option (Nat × Nat × Nat) :=
  match i.acc with
  | none => none
  | some a =>
    let b := getB c.s c.q.btag
    if debugged c.s c.q && !b.masked && !c.r.skipW && a.on c l then
      (List.range 8).findSome? fun n => (watchAt (getD c.s c.q.clu) b a (a.addr c l) n).map fun e => (n, e.1, e.2)
    else none

/-- The instruction's effect for the path takes an entry of the buffer (R89). -/
def onceEntry (c : Ctx1) (i : Ins) : Bool :=
  match i.once with
  | some f => takesEntry (f c)
  | none => false

/-- What each acting lane does, the traps of its own checks and of watchpoints among it. -/
def laneOuts (c : Ctx1) (i : Ins) (qTraps : List (Nat × Trap)) : List (Nat × LaneOut × Option (Nat × Nat × Nat)) :=
  (lanesOf c.act).map fun l =>
    match qTraps.find? (fun e => e.1 = l) with
    | some e => (l, finishLane c l false { leave := some (.trap e.2) }, none)
    | none =>
      let o := i.body c l
      match (if o.leave.isNone then watchOf c i l else none) with
      | some (n, act, a) =>
        (l, finishLane c l false { leave := some (.trap { code := 0x15, cause := n, addr := a }) }, if act = 1 then some (n, act, a) else none)
      | none => (l, finishLane c l (onceEntry c i) o, none)

/-- Deferred results since the group's last instruction with S = 1 (R458). -/
def noteDefer (d : List Nat) (outs : List (Nat × LaneOut)) : List Nat :=
  outs.foldl (fun d e =>
    let ks := (e.2.wx.map Prod.fst ++ e.2.pend.map Prod.fst).map fun k => 64 * e.1 + k % 64
    (d.filter fun k => !ks.contains k) ++ (e.2.pend.filter fun p => !isScored p.2).map fun p => 64 * e.1 + p.1) d

/-- The instruction counts as a memory instruction of the sampled context (R467, R468). A stopped cluster takes no samples, and counts for none (R470). -/
def sampleCounts (c : Ctx1) (i : Ins) : Bool :=
  let ctl := (sget 0 c.s.sctl c.q.clu).toNat
  let opc := c.word.toNat / 2 ^ 118
  i.acc.isSome && ctl.testBit 0 && nbits ctl 63 48 = c.q.ctx && c.act != 0 && decide (0x180 ≤ opc) && decide (opc ≤ 0x1A1) && !(getD c.s c.q.clu).stopped

/-- It is sampled: every 2^SMI-th, and one that was sampled before its lanes faulted in translation (R468). -/
def sampledNow (c : Ctx1) (i : Ins) : Bool :=
  sampleCounts c i && ((sget 0 c.s.memCount (c.g / 16) + 1) % 2 ^ nbits (sget 0 c.s.sctl c.q.clu).toNat 34 30 = 0 || c.r.again.contains c.r.off)

/-- Count a memory instruction of the sampled context, and take a sample (R467, R468). -/
def sampleTick (c : Ctx1) (i : Ins) (outs : List (Nat × LaneOut)) (s : State) : State :=
  match i.acc with
  | none => s
  | some a =>
    if !sampleCounts c i then s
    else
      let opc := c.word.toNat / 2 ^ 118
      let s : State := { s with memCount := sset 0 s.memCount (c.g / 16) (sget 0 s.memCount (c.g / 16) + 1) }
      if !sampledNow c i then s
      else
        let ls := (lanesOf c.act).filter fun l => a.on c l
        let parts (k : Nat) : Nat := ((ls.map fun l => (List.range ((a.addr c l % k + a.len + k - 1) / k)).map fun j => a.addr c l / k + j).flatten).eraseDups.length
        { s with samples := s.samples ++ [{
            g := c.g, btag := c.q.btag, ctx := c.q.ctx, corr := (getB c.s c.q.btag).corr, gnum := c.q.gnum, path := c.r.path,
            tix := c.r.tix, off := c.r.off, opc := opc, act := c.act, sect := parts 32, lines := parts 128, trep := c.r.rcnt,
            vrep := c.r.vrep, tno := c.r.tno, store := a.cls != 0,
            dst := ((outs.map fun e => e.2.pend.map Prod.fst).flatten).eraseDups }] }

/-- The lines of device memory that a load reads may reach their banks, in the order of the lanes (R428, R429), and poison among
them fails the context (R438). -/
def dramTick (c : Ctx1) (i : Ins) (outs : List (Nat × LaneOut)) (s : State) : State :=
  match i.acc with
  | none => s
  | some a =>
    if a.spad || a.cls != 0 then s
    else
      let pas := (outs.filter fun e => e.2.leave.isNone && a.on c e.1).filterMap fun e =>
        match translate c.s c.q (a.addr c e.1) false with | .ok .dev pa _ => some pa | _ => none
      pas.foldl (fun s pa => readPoison s c.q.ctx .dev pa a.len) (touchAll s (if a.bypass then .pass else .read) .dev (pas.map fun pa => pa / 128 * 128).eraseDups)

/-- A stepped instruction is complete once its results have arrived: the path is held mid-trace (R458). -/
def stepSettle (s : State) (g : GKey) : State :=
  let q := getG s g
  match q.run with
  | none => s
  | some r =>
    if q.step = .settle && !r.ended && q.stepRegs.all (fun k => let p := rdPend q.work (k / 64) (k % 64); !(isLoadPend p || isScored p)) then
      let p : Path := { getP q r.path with state := .held, ust := .running, cause := 5, mid := true, off := r.off, soff := 0, wv := false, wpn := 0, addr := 0 }
      let s := setG s g { setP q r.path p with step := .idle }
      updD s q.clu fun d => { d with done := true, busy := false }
    else s

/-- The lanes that stay in the mask. -/
def staying (outs : List (Nat × LaneOut)) : Mask := maskOf fun l => outs.any fun e => e.1 = l && e.2.leave.isNone

/-- The effect that acts once for the path, for the lanes that stay (R89). -/
def onceOf (c : Ctx1) (i : Ins) (stay : Mask) : List Buffered :=
  match i.once with
  | some f => if stay = 0 then [] else [{ lanes := stay, eff := f c, off := c.r.off }]
  | none => []

/-- The synchronising effect that the trace asks for (R123). -/
def syncOf (c : Ctx1) (i : Ins) : Option SyncReq :=
  match i.sync with
  | some f => some ⟨c.act, (f c).1, (f c).2⟩
  | none => c.r.sync

/-- The running trace with what its lanes do. -/
def issueRun (c : Ctx1) (i : Ins) (popped : List Pop) (outs : List (Nat × LaneOut)) : Run :=
  let r := outs.foldl (fun r e => noteLane r e.1 e.2) (markDying c.r c.h i.sh)
  { r with
    bufs := r.bufs ++ onceOf c i (staying outs)
    sync := syncOf c i
    pops := r.pops ++ popped
    smp := if sampledNow c i then (c.r.off, c.act) :: r.smp else r.smp }

/-- The lane leaves for the alternative. -/
def LaneOut.gone (o : LaneOut) : Bool := match o.leave with | some (.alt _) => true | _ => false

/-- Lanes that leave for the alternative. -/
def goneCount (outs : List (Nat × LaneOut)) : Nat := (outs.filter fun e => e.2.gone).length

/-- The group with what its lanes do. A result in every lane of the group stands in uniform form (R96). The counters 4 and 5 count it; an
instruction that traps its whole path at issue does not come here. (DESIGN CHOICE, log 97.) -/
def issueGroup (c : Ctx1) (i : Ins) (r : Run) (outs : List (Nat × LaneOut)) : Group :=
  let full := c.h.u && c.r.exm = c.q.live && c.act = c.r.exm
  let q := outs.foldl (fun q e => applyLane full q e.1 e.2) c.q
  let q := perfAdd (perfAdd (perfAdd q 4 (issueCycles c.q c.r c.h i.sh)) 5 1) 3 (goneCount outs)
  { q with
    run := some (advance r c.h)
    parked := false
    walkFault := []
    late := noteDefer (if c.h.s then [] else q.late) outs }

/-- In step mode the instruction has issued, and its results are waited for (R458). -/
def stepIssued (outs : List (Nat × LaneOut)) (q : Group) : Group :=
  if q.step = .inst then
    { q with
      step := .settle
      run := q.run.map fun r => { r with skipB := false, skipW := false }
      stepRegs := (outs.map fun e => (e.2.pend.filter fun p => isLoadPend p.2).map (fun p => 64 * e.1 + p.1)
        ++ e.2.sbw.map fun x => 64 * e.1 + x.2.2.2.1 % 64).flatten }
  else q

/-- The traps that lanes raise at issue, but for those of lanes that have mixed versions and run again (R22). -/
def laneTraps (c : Ctx1) (outs : List (Nat × LaneOut)) : List Trap :=
  outs.filterMap fun e => match e.2.leave with | some (.trap t) => if lostLane c.s c.q.ctx c.r e.1 then none else some t | _ => none

/-- Issue with nothing left to wait for: every acting lane does its part (R48, R131). -/
def issueLanes (c : Ctx1) (i : Ins) (popped : List Pop) (outs : List (Nat × LaneOut)) : State :=
  let r := issueRun c i popped outs
  let s := setG c.s c.g (stepIssued outs (issueGroup c i r outs))
  let s := (laneTraps c outs).foldl (fun s t => noteTrap s c.g t) (dramTick c i outs (sampleTick c i outs s))
  let s : State := { clockAdd s c.q.clu (issueCycles c.q c.r c.h i.sh) with stalled := false }
  stepSettle (i.after { c with r := r } s) c.g

/-- Issue with nothing left to wait for, or stop the path at the instruction, for a watchpoint with the lowest that matches (R453). `s0` is the state before its pops. -/
def issueNow (s0 : State) (c : Ctx1) (i : Ins) (popped : List Pop) (qTraps : List (Nat × Trap)) : State :=
  match (if c.act = 0 then none else i.stop c) with
  | some (p, cluster) => stopPath s0 c.g p cluster
  | none =>
    let outs := laneOuts c i qTraps
    match (outs.filterMap fun e => e.2.2).foldl (fun (m : Option (Nat × Nat × Nat)) e => match m with | some x => if e.1 < x.1 then some e else m | none => some e) none with
    | some (n, _, a) => stopPath s0 c.g { cause := 2, soff := c.r.off, wpn := some n, addr := a } true
    | none => issueLanes c i popped (outs.map fun e => (e.1, e.2.1))

/-- What an instruction with S = 1 waits for (R101): every pending result but the returns held in this trace. -/
def markerWaits (r : Run) (p : Nat) : Bool := isLoadPend p || (isHeldPend p && p / 1024 != r.tno)

/-- The lanes whose registers the instruction reads (R98, R99). -/
def readers (c : Ctx1) : Mask := if c.h.u then c.r.exm else c.act

/-- The registers that a lane reads of its own. -/
def ownRegs (c : Ctx1) (i : Ins) : List Nat := srcRegs c.h (if i.crossA then { i.sh with na := 0 } else i.sh)

/-- The current group's instruction waits for the results that its marker asks for, or for a scoreboarded source (R99, R101). -/
def heldBack (c : Ctx1) (i : Ins) : Option State :=
  if c.h.s && ((c.q.work.pend ++ c.q.com.pend ++ c.q.work.ghost ++ c.q.com.ghost).any fun e => c.q.live.getLsbD (e.1 / 64) && markerWaits c.r e.2) then
    some (perfTime (setG c.s c.g { c.q with parked := true }) c.g 6)
  else if anyPend c.q.work (readers c) (ownRegs c i) isScored then some c.s
  else none

/-- In step mode a source is a result deferred since the last marker (R458). -/
def lateRead (c : Ctx1) (i : Ins) : Bool :=
  decide (c.q.step = .inst) && !c.h.s && (lanesOf (readers c)).any fun l => (ownRegs c i).any fun k => c.q.late.contains (64 * l + k)

/-- What the instruction raises for its path: Marker-Violation, Uniformity, or its own check (R98, R100, R101). (DEDUCED, log 31.) -/
def pathFails (c : Ctx1) (i : Ins) : Option Trap :=
  if anyPend c.q.work (readers c) (ownRegs c i) (fun k => isLoadPend k || isHeldPend k) || lateRead c i then some { code := 5 }
  else if c.h.u && uniformBreak c.q c.r c.h i.sh then some { code := 4 }
  else if i.uni.any (fun e => (opndRegs e.1 e.2).any fun k => differs c.q.work c.act k) then some { code := 4 }
  else (i.always c).orElse fun _ => if c.act = 0 then none else i.path c

/-- The pops of a q operand: the addresses, the records, the state after them and the lanes that trap (R414, R415). `none` stalls, for too few
records or for an acquire of the lanes on its way (R418). -/
def feed (c : Ctx1) : Option (SMap Word × List Pop × State × List (Nat × Trap)) :=
  match qOpnd c.h with
  | none => some ([], [], c.s, [])
  | some n =>
    if acqOwed c.s c.g c.act then none else
    let b := getB c.s c.q.btag
    let good := (lanesOf c.act).filter fun l => (qCheck c.s b c.q l n).isNone
    (popLanes c.s c.g n good).map fun x =>
      (x.1, x.2.1, x.2.2, (lanesOf c.act).filterMap fun l => (qCheck c.s b c.q l n).map fun t => (l, t))

/-- Issue once nothing of the group's own holds the instruction back. A pop waits with the rest of the instruction: nothing of it is kept. -/
def issueFed (c : Ctx1) (i : Ins) : State :=
  match feed c with
  | none => { c.s with stalled := true }
  | some x =>
    let c1 : Ctx1 := { c with s := x.2.2.1, pops := x.1 }
    match i.wait c1 with
    | some s' => { s' with spad := c.s.spad, stale := c.s.stale, stalled := true }
    | none => issueNow c.s c1 i x.2.1 x.2.2.2

/-- What the lanes of the current group's next instruction read. -/
def ctxOf (s : State) (h : Hd) (r : Run) : Ctx1 :=
  { s := s, g := s.cur, q := getG s s.cur, r := r, h := h, act := actingLanes (getG s s.cur) r h, pops := [], word := r.words.getD r.off 0 }

/-- Issue of one instruction by the current group (R91, R98 to R101, R108). Without a running trace nothing issues. One that traps its path
counts in no counter. (DESIGN CHOICE, log 97.) -/
def issue (s : State) (h : Hd) (i : Ins) : Out :=
  let q := getG s s.cur
  match q.run with
  | none => .next s
  | some r =>
    if r.ended || (getP q r.path).state != .running || q.step = .settle then .next s
    else
      let c := ctxOf s h r
      match heldBack c i with
      | some s' => .next { s' with stalled := true }
      | none =>
        match pathFails c i with
        | some t => .next (pathTrap s s.cur { t with off := r.off, word := c.word })
        | none => .next (issueFed c i)

end Sys2Proof.Machine
end

