-- ==== Sys2Proof/Machine/Flags.lean ====
section
/-! DEFINITION. Every truth value that an integer instruction computes: conditions, carry and borrow, votes
(R112, R142, R146, R150). -/
namespace Sys2Proof.Machine
open Sys2Proof Sys2Proof.Checks

/-- A 32-bit value read as its type gives: signed under `.s32`, else unsigned (R142). -/
def intVal (t : Ty) (v : Word) : Int := if t = .s32 then v.toInt else (v.toNat : Int)
/-- A 64-bit value, signed under `.s64` and `.s32` (R142, R146). -/
def intVal64 (t : Ty) (v : DWord) : Int := if t = .s64 || t = .s32 then v.toInt else (v.toNat : Int)

/-- The condition codes of R112. -/
def condOf (n : Nat) : Cond :=
  match n with
  | 0 => .eq | 1 => .ne | 2 => .lt | 3 => .le | 4 => .gt | 5 => .ge | 6 => .un | _ => .or

/-- A condition on integers; `.un` and `.or` are of floating-point types only. -/
def condInt (c : Cond) (a b : Int) : Bool :=
  match c with
  | .eq => a = b
  | .ne => a ≠ b
  | .lt => decide (a < b)
  | .le => decide (a ≤ b)
  | .gt => decide (b < a)
  | .ge => decide (b ≤ a)
  | .un => false
  | .or => true

/-- `compare` of R132 on the sources of a word, 64 bits wide under a 64-bit type. -/
def compareSrc (c : Ctx1) (l : Nat) (ty : Ty) (opx : Nat) : Bool :=
  if is64 ty then condInt (condOf opx) (intVal64 ty (src64 c l c.h.sa)) (intVal64 ty (src64 c l c.h.sb))
  else condInt (condOf opx) (intVal ty (src c l c.h.sa)) (intVal ty (src c l c.h.sb))

/-- Carry out of A + B + c (R142). -/
def carryOut (a b : Word) (c : Bool) : Bool := decide (2 ^ 32 ≤ a.toNat + b.toNat + c.toNat)
/-- Borrow out of A − B − c (R142). -/
def borrowOut (a b : Word) (c : Bool) : Bool := decide (a.toNat < b.toNat + c.toNat)

/-- The votes of R150 over the participants' truths. -/
def voteAll (ts : List Bool) : Bool := ts.all id
def voteAny (ts : List Bool) : Bool := ts.any id
def voteUni (ts : List Bool) : Bool := match ts with | [] => true | t :: r => r.all fun u => u == t

end Sys2Proof.Machine
end

