-- ==== Sys2Proof/Machine/Integer.lean ====
section
/-! DEFINITION. Integer arithmetic, logic, shifts and bit fields, compare, select, move and address, and predicate
logic (R141 to R147). -/
namespace Sys2Proof.Machine
open Sys2Proof Sys2Proof.Checks

/-- Issue of a format A word whose acting lanes each do `f`. -/
def issueA (w : IW ModA) (s : State) (sh : Shape) (f : Ctx1 → Nat → LaneOut) : Out :=
  issue s (hd w) { sh := sh, body := f }

/-! ### Values (R142, R144) -/

def wrap32 (v : Int) : Word := BitVec.ofInt 32 v
def wrap64 (v : Int) : DWord := BitVec.ofInt 64 v
def loOf (t : Ty) : Int := if t = .s32 then -(2 ^ 31) else 0
def hiOf (t : Ty) : Int := if t = .s32 then 2 ^ 31 - 1 else 2 ^ 32 - 1
def satInt (v lo hi : Int) : Int := max lo (min hi v)

/-- The last step of ADD, SUB, NEG, ABS, MUL and MAD: wrap, or clamp under `.sat`. -/
def finish (m : ModA) (v : Int) : Word := if m.opx = 1 then wrap32 (satInt v (loOf m.tya) (hiOf m.tya)) else wrap32 v

/-- DIV (R142). -/
def divVal (t : Ty) (a b : Word) : Word :=
  if t = .s32 then
    if b = 0 then (if a.toInt < 0 then 0x80000000#32 else 0x7FFFFFFF#32)
    else if a = 0x80000000#32 ∧ b = 0xFFFFFFFF#32 then 0x80000000#32
    else wrap32 (a.toInt.tdiv b.toInt)
  else if b = 0 then 0xFFFFFFFF#32
  else BitVec.ofNat 32 (a.toNat / b.toNat)

/-- REM (R142). -/
def remVal (t : Ty) (a b : Word) : Word :=
  if b = 0 then a
  else if t = .s32 then
    if a = 0x80000000#32 ∧ b = 0xFFFFFFFF#32 then 0 else wrap32 (a.toInt.tmod b.toInt)
  else BitVec.ofNat 32 (a.toNat % b.toNat)

def shlVal (a : Word) (s : Nat) : Word := if 32 ≤ s then 0 else BitVec.ofNat 32 (a.toNat * 2 ^ s)
def shrVal (a : Word) (s : Nat) : Word := if 32 ≤ s then 0 else BitVec.ofNat 32 (a.toNat / 2 ^ s)
def sarVal (a : Word) (s : Nat) : Word := wrap32 (a.toInt / 2 ^ Nat.min s 31)
def rolVal (a : Word) (s : Nat) : Word :=
  let k := s % 32
  if k = 0 then a else BitVec.ofNat 32 (a.toNat * 2 ^ k) ||| BitVec.ofNat 32 (a.toNat / 2 ^ (32 - k))
def clzVal (a : Word) : Word := BitVec.ofNat 32 (if a = 0 then 32 else 31 - Nat.log2 a.toNat)
def ctzVal (a : Word) : Word := BitVec.ofNat 32 ((allLanes.find? fun i => a.getLsbD i).getD 32)
def popVal (a : Word) : Word := BitVec.ofNat 32 (allLanes.filter fun i => a.getLsbD i).length
def brevVal (a : Word) : Word := maskOf fun i => a.getLsbD (31 - i)

/-- Place and width of the field of BFX and BFI (R144). -/
def bfPos (b : Word) : Nat := nbits b.toNat 7 0
def bfWidth (b : Word) : Nat :=
  let w := Nat.min (nbits b.toNat 15 8) 32
  if 32 ≤ bfPos b then 0 else Nat.min w (32 - bfPos b)

def bfxVal (t : Ty) (a b : Word) : Word :=
  let w := bfWidth b
  if w = 0 then 0
  else
    let f := a.toNat / 2 ^ bfPos b % 2 ^ w
    if t = .s32 then wrap32 (toSigned w f) else BitVec.ofNat 32 f

def bfiVal (a b c : Word) : Word :=
  let m : Word := BitVec.ofNat 32 ((2 ^ bfWidth b - 1) * 2 ^ bfPos b)
  (c &&& ~~~m) ||| (BitVec.ofNat 32 (a.toNat * 2 ^ bfPos b) &&& m)

def extVal (signed : Bool) (a b : Word) : Word :=
  let n := nbits b.toNat 5 0
  if n = 0 then 0
  else if 32 ≤ n then a
  else if signed then wrap32 (toSigned n a.toNat) else BitVec.ofNat 32 (a.toNat % 2 ^ n)

/-! ### Integer arithmetic (R141, R142) -/

def execAdd (w : IW ModA) (s : State) : Out :=
  issueA w s { nb := 1 } fun c l =>
    dstX w.dst (finish w.mod (intVal w.mod.tya (src c l w.sa) + intVal w.mod.tya (src c l w.sb)))

def execAddc (w : IW ModA) (s : State) : Out :=
  issueA w s { nb := 1 } fun c l =>
    let cin := srcP c l w.sc
    { wx := [(opndReg w.dst, BitVec.ofNat 32 ((src c l w.sa).toNat + (src c l w.sb).toNat + cin.toNat))]
      wp := [(opndReg w.sc, carryOut (src c l w.sa) (src c l w.sb) cin)] }

def execSub (w : IW ModA) (s : State) : Out :=
  issueA w s { nb := 1 } fun c l =>
    dstX w.dst (finish w.mod (intVal w.mod.tya (src c l w.sa) - intVal w.mod.tya (src c l w.sb)))

def execSubb (w : IW ModA) (s : State) : Out :=
  issueA w s { nb := 1 } fun c l =>
    let cin := srcP c l w.sc
    { wx := [(opndReg w.dst, wrap32 ((src c l w.sa).toNat - (src c l w.sb).toNat - cin.toNat : Int))]
      wp := [(opndReg w.sc, borrowOut (src c l w.sa) (src c l w.sb) cin)] }

def execNeg (w : IW ModA) (s : State) : Out :=
  issueA w s {} fun c l => dstX w.dst (finish w.mod (-intVal w.mod.tya (src c l w.sa)))

def execAbs (w : IW ModA) (s : State) : Out :=
  issueA w s {} fun c l => dstX w.dst (finish w.mod ((intVal w.mod.tya (src c l w.sa)).natAbs : Int))

def execMul (w : IW ModA) (s : State) : Out :=
  issueA w s { nb := 1 } fun c l =>
    dstX w.dst (finish w.mod (intVal w.mod.tya (src c l w.sa) * intVal w.mod.tya (src c l w.sb)))

def execMulh (w : IW ModA) (s : State) : Out :=
  issueA w s { nb := 1 } fun c l =>
    dstX w.dst (wrap32 (intVal w.mod.tya (src c l w.sa) * intVal w.mod.tya (src c l w.sb) / 2 ^ 32))

def execMulw (w : IW ModA) (s : State) : Out :=
  issueA w s { nb := 1 } fun c l =>
    dst64 w.dst (wrap64 (intVal w.mod.tya (src c l w.sa) * intVal w.mod.tya (src c l w.sb)))

def execMad (w : IW ModA) (s : State) : Out :=
  issueA w s { nb := 1, nc := 1 } fun c l =>
    dstX w.dst (finish w.mod (intVal w.mod.tya (src c l w.sa) * intVal w.mod.tya (src c l w.sb)
      + intVal w.mod.tya (src c l w.sc)))

def execMadw (w : IW ModA) (s : State) : Out :=
  issueA w s { nb := 1, nc := 2 } fun c l =>
    dst64 w.dst (wrap64 (intVal w.mod.tya (src c l w.sa) * intVal w.mod.tya (src c l w.sb)
      + intVal64 w.mod.tya (src64 c l w.sc)))

def execDiv (w : IW ModA) (s : State) : Out :=
  issueA w s { nb := 1 } fun c l => deferred (dstX w.dst (divVal w.mod.tya (src c l w.sa) (src c l w.sb)))

def execRem (w : IW ModA) (s : State) : Out :=
  issueA w s { nb := 1 } fun c l => deferred (dstX w.dst (remVal w.mod.tya (src c l w.sa) (src c l w.sb)))

def execMin (w : IW ModA) (s : State) : Out :=
  issueA w s { nb := 1 } fun c l =>
    let a := src c l w.sa
    let b := src c l w.sb
    dstX w.dst (if intVal w.mod.tya a ≤ intVal w.mod.tya b then a else b)

def execMax (w : IW ModA) (s : State) : Out :=
  issueA w s { nb := 1 } fun c l =>
    let a := src c l w.sa
    let b := src c l w.sb
    dstX w.dst (if intVal w.mod.tya b ≤ intVal w.mod.tya a then a else b)

/-! ### Logic, shifts and bit fields (R143, R144) -/

def execAnd (w : IW ModA) (s : State) : Out :=
  issueA w s { nb := 1 } fun c l => dstX w.dst (src c l w.sa &&& src c l w.sb)

def execOr (w : IW ModA) (s : State) : Out :=
  issueA w s { nb := 1 } fun c l => dstX w.dst (src c l w.sa ||| src c l w.sb)

def execXor (w : IW ModA) (s : State) : Out :=
  issueA w s { nb := 1 } fun c l => dstX w.dst (src c l w.sa ^^^ src c l w.sb)

def execNot (w : IW ModA) (s : State) : Out := issueA w s {} fun c l => dstX w.dst (~~~(src c l w.sa))

def execAndn (w : IW ModA) (s : State) : Out :=
  issueA w s { nb := 1 } fun c l => dstX w.dst (src c l w.sa &&& ~~~(src c l w.sb))

def execShl (w : IW ModA) (s : State) : Out :=
  issueA w s { nb := 1 } fun c l => dstX w.dst (shlVal (src c l w.sa) (src c l w.sb).toNat)

def execShr (w : IW ModA) (s : State) : Out :=
  issueA w s { nb := 1 } fun c l => dstX w.dst (shrVal (src c l w.sa) (src c l w.sb).toNat)

def execSar (w : IW ModA) (s : State) : Out :=
  issueA w s { nb := 1 } fun c l => dstX w.dst (sarVal (src c l w.sa) (src c l w.sb).toNat)

def execRol (w : IW ModA) (s : State) : Out :=
  issueA w s { nb := 1 } fun c l => dstX w.dst (rolVal (src c l w.sa) (src c l w.sb).toNat)

def execClz (w : IW ModA) (s : State) : Out := issueA w s {} fun c l => dstX w.dst (clzVal (src c l w.sa))
def execCtz (w : IW ModA) (s : State) : Out := issueA w s {} fun c l => dstX w.dst (ctzVal (src c l w.sa))
def execPopc (w : IW ModA) (s : State) : Out := issueA w s {} fun c l => dstX w.dst (popVal (src c l w.sa))
def execBrev (w : IW ModA) (s : State) : Out := issueA w s {} fun c l => dstX w.dst (brevVal (src c l w.sa))

def execBfx (w : IW ModA) (s : State) : Out :=
  issueA w s { nb := 1 } fun c l => dstX w.dst (bfxVal w.mod.tya (src c l w.sa) (src c l w.sb))

def execBfi (w : IW ModA) (s : State) : Out :=
  issueA w s { nb := 1, nc := 1 } fun c l => dstX w.dst (bfiVal (src c l w.sa) (src c l w.sb) (src c l w.sc))

def execSxt (w : IW ModA) (s : State) : Out :=
  issueA w s { nb := 1 } fun c l => dstX w.dst (extVal true (src c l w.sa) (src c l w.sb))

def execZxt (w : IW ModA) (s : State) : Out :=
  issueA w s { nb := 1 } fun c l => dstX w.dst (extVal false (src c l w.sa) (src c l w.sb))

/-! ### Compare, select, move and address (R145, R146) -/

/-- Sources of CMP and CMPX: pairs under a 64-bit type. -/
def cmpShape (w : IW ModA) : Shape := if is64 w.mod.tya then { na := 2, nb := 2 } else { nb := 1 }

def execSel (w : IW ModA) (s : State) : Out :=
  issueA w s { nb := 1 } fun c l => dstX w.dst (if srcP c l w.sc then src c l w.sa else src c l w.sb)

def execCmp (w : IW ModA) (s : State) : Out :=
  issueA w s (cmpShape w) fun c l => dstBool w.dst (compareSrc c l w.mod.tya w.mod.opx.toNat)

def execCmpx (w : IW ModA) (s : State) : Out :=
  issueA w s (cmpShape w) fun c l => dstBool w.dst (compareSrc c l w.mod.tya w.mod.opx.toNat && srcP c l w.sc)

def execLea (w : IW ModA) (s : State) : Out :=
  issueA w s { na := 2, nb := 1 } fun c l =>
    dst64 w.dst (wrap64 ((src64 c l w.sa).toNat + intVal w.mod.tya (src c l w.sb) * 2 ^ w.mod.opx.toNat))

def execAdd64 (w : IW ModA) (s : State) : Out :=
  issueA w s { na := 2, nb := 2 } fun c l => dst64 w.dst (src64 c l w.sa + src64 c l w.sb)

def execSub64 (w : IW ModA) (s : State) : Out :=
  issueA w s { na := 2, nb := 2 } fun c l => dst64 w.dst (src64 c l w.sa - src64 c l w.sb)

def execMov (w : IW ModA) (s : State) : Out :=
  if w.mod.tya = .n64 then issueA w s { na := 2 } fun c l => dst64 w.dst (src64 c l w.sa)
  else issueA w s {} fun c l => dstX w.dst (src c l w.sa)

def execMovi (w : IW ModA) (s : State) : Out := issueA w s {} fun _ _ => dstX w.dst (w.imm.setWidth 32)
def execMovw (w : IW ModA) (s : State) : Out := issueA w s {} fun _ _ => dst64 w.dst w.imm

/-! ### Predicate logic (R147) -/

def execPand (w : IW ModA) (s : State) : Out :=
  issueA w s { nb := 1 } fun c l => dstP w.dst (srcP c l w.sa && srcP c l w.sb)
def execPor (w : IW ModA) (s : State) : Out :=
  issueA w s { nb := 1 } fun c l => dstP w.dst (srcP c l w.sa || srcP c l w.sb)
def execPxor (w : IW ModA) (s : State) : Out :=
  issueA w s { nb := 1 } fun c l => dstP w.dst (xor (srcP c l w.sa) (srcP c l w.sb))
def execPnot (w : IW ModA) (s : State) : Out := issueA w s {} fun c l => dstP w.dst (!srcP c l w.sa)
def execPmov (w : IW ModA) (s : State) : Out := issueA w s {} fun c l => dstP w.dst (srcP c l w.sa)

end Sys2Proof.Machine
end

