-- ==== Sys2Proof/Machine/Control.lean ====
section
/-! DEFINITION. Guards and the mask, trace indices, trap, breakpoint, yield and no-op (R133 to R140). -/
namespace Sys2Proof.Machine
open Sys2Proof Sys2Proof.Checks

/-- The alternative that a guard or EXMN names: bits 23:0 of IMM (R133). -/
def altOf (v : DWord) : Nat := nbits v.toNat 23 0

/-- A lane that fails leaves for the alternative (R84, R134). -/
def guardOut (pass : Bool) (v : DWord) : LaneOut := if pass then {} else { leave := some (.alt (altOf v)) }

/-- GRD and GRDU pass on the predicate or on its complement (R133). -/
def guardPass (w : IW ModI) (c : Ctx1) (l : Nat) : Bool := srcP c l w.sa == (w.mod.opx == 0)

def execGrd (w : IW ModI) (s : State) : Out :=
  issue s (hd w) { body := fun c l => guardOut (guardPass w c l) w.imm }

def execGrdc (w : IW ModI) (s : State) : Out :=
  let sh : Shape := if is64 w.mod.ty then { na := 2, nb := 2 } else { nb := 1 }
  issue s (hd w) { sh := sh, body := fun c l => guardOut (compareSrc c l w.mod.ty w.mod.opx.toNat) w.imm }

/-- GRDU: a lane that disagrees raises Uniformity for the path, and no lane is removed (R134). -/
def execGrdu (w : IW ModI) (s : State) : Out :=
  issue s (hd w) {
    path := fun c => if voteUni ((lanesOf c.act).map (guardPass w c)) then none else some { code := 4 },
    body := fun c l => guardOut (guardPass w c l) w.imm }

def execExmr (w : IW ModA) (s : State) : Out := issueA w s { na := 0 } fun c _ => dstX w.dst c.r.exm

def execExmn (w : IW ModI) (s : State) : Out :=
  issue s (hd w) { uni := [(w.sa, 1)], body := fun c l => guardOut ((src c l w.sa).getLsbD l) w.imm }

def execSucc (w : IW ModI) (s : State) : Out :=
  issue s (hd w) {
    sh := { na := if w.mod.opx = 1 then 1 else 0 },
    body := fun c l =>
      dstX w.dst (BitVec.ofNat 32 (nbits (w.imm.toNat + if w.mod.opx = 1 then (src c l w.sa).toNat else 0) 23 0)) }

/-- TRAP raises Software with its code in each acting lane (R139). -/
def execTrap (w : IW ModS) (s : State) : Out :=
  issue s (hd w) {
    sh := { na := 0 },
    body := fun _ _ =>
      { leave := some (.trap { code := 0x13, tcode := nbits w.imm.toNat 15 0 }) } }

/-- BKPT (R139, R454): it stops the path, or the path and the cluster, where the debug block says so; else it raises Breakpoint in
each acting lane, or acts as NOP in a handler batch (R243) and in work that skips breakpoints (R459). -/
def execBkpt (w : IW ModS) (s : State) : Out :=
  let act (c : Ctx1) : Nat := if debugged c.s c.q then (getD c.s c.q.clu).bkact else 0
  issue s (hd w) {
    sh := { na := 0 },
    stop := fun c =>
      if c.r.skipB || act c = 0 then none else some ({ cause := 3, soff := c.r.off }, act c = 2),
    body := fun c _ =>
      if c.r.skipB || (getB c.s c.q.btag).masked then {}
      else { leave := some (.trap { code := 0x14, tcode := nbits w.imm.toNat 15 0 }) } }

def execNop (w : IW ModS) (s : State) : Out := issue s (hd w) { sh := { na := 0 }, body := fun _ _ => {} }

/-- YLD takes the group out of its track's round-robin if a lane acts (R140). -/
def execYld (w : IW ModS) (s : State) : Out :=
  issue s (hd w) { sh := { na := 0 }, body := fun _ _ => {}
                   after := fun c s => if c.act = 0 then s else updG s c.g fun q => { q with yielded := true } }

/-! ### Cross-lane reads (R103, R148) -/

/-- The version that a cross-lane read of lane j takes: this trace's in EXM, the last commit elsewhere (R103). -/
def crossVers (c : Ctx1) (j : Nat) : Vers := if c.r.exm.getLsbD j then c.q.work else c.q.com

/-- Value of register k in lane j (R103): 0 for a retired lane or a lane outside 0 to 31. -/
def crossVal (c : Ctx1) (j : Int) (k : Nat) : Word :=
  if 0 ≤ j ∧ j < 32 then
    if c.q.live.getLsbD j.toNat then rdX (crossVers c j.toNat) j.toNat k else 0
  else 0

/-- The `.chk` predicate: lane j is not in EXM (R103). -/
def crossChk (c : Ctx1) (j : Int) : Bool := !(decide (0 ≤ j ∧ j < 32) && c.r.exm.getLsbD j.toNat)

/-- State of register k of lane j as a reader meets it. -/
def crossPend (c : Ctx1) (j : Int) (k : Nat) : Nat :=
  if 0 ≤ j ∧ j < 32 then
    if c.q.live.getLsbD j.toNat then rdPend (crossVers c j.toNat) j.toNat k else 0
  else 0

/-- Issue of an instruction whose lane l also reads register k of lane `j l`: a scoreboarded one stalls (R148), a pending
one is a Marker-Violation (R101). -/
def issueCross (s : State) (h : Hd) (k : Nat) (j : Ctx1 → Nat → Int) (body : Ctx1 → Nat → LaneOut)
    (uni : List (Opnd × Nat) := []) : Out :=
  issue s h {
    sh := { nb := 1 },
    crossA := true,
    uni := uni,
    wait := fun c => if (lanesOf c.act).any fun l => isScored (crossPend c (j c l) k) then some c.s else none,
    path := fun c =>
      if (lanesOf c.act).any fun l => isLoadPend (crossPend c (j c l) k) || isHeldPend (crossPend c (j c l) k) then some { code := 5 } else none,
    body := body }

/-- LXCH, LXUP, LXDN and LXBF with the source lane of R149. -/
def issueLx (w : IW ModG) (s : State) (j : Ctx1 → Nat → Int) : Out :=
  issueCross s (hd w) (opndReg w.sa) j fun c l =>
    { wx := [(opndReg w.dst, crossVal c (j c l) (opndReg w.sa))]
      wp := if w.mod.chk then [(opndReg w.sc, crossChk c (j c l))] else [] }

def execLxch (w : IW ModG) (s : State) : Out := issueLx w s fun c l => (src c l w.sb).toInt
def execLxup (w : IW ModG) (s : State) : Out := issueLx w s fun c l => (l : Int) - (src c l w.sb).toInt
def execLxdn (w : IW ModG) (s : State) : Out := issueLx w s fun c l => (l : Int) + (src c l w.sb).toInt
def execLxbf (w : IW ModG) (s : State) : Out := issueLx w s fun c l => (l ^^^ (src c l w.sb).toNat : Nat)

/-- Truths of the participants (R150). -/
def truths (w : IW ModG) (c : Ctx1) : List Bool := (lanesOf c.act).map fun j => srcP c j w.sa

def execVote (w : IW ModG) (s : State) : Out :=
  issue s (hd w) {
    body := fun c _ =>
      match w.mod.opx.toNat with
    | 0 => dstP w.dst (voteAll (truths w c))
    | 1 => dstP w.dst (voteAny (truths w c))
    | 2 => dstP w.dst (voteUni (truths w c))
    | _ => dstX w.dst (maskOf fun j => c.act.getLsbD j && srcP c j w.sa) }

/-- y ⊕ z of R151. -/
def redOp (ty : Ty) (op : Nat) (y z : Word) : Word :=
  match op with
  | 0 => if ty = .f32 then BitVec.ofNat 32 (fAdd fmtF32 .rne y.toNat z.toNat) else y + z
  | 1 => if ty = .f32 then BitVec.ofNat 32 (fMinMax fmtF32 false y.toNat z.toNat)
         else if intVal ty y ≤ intVal ty z then y else z
  | 2 => if ty = .f32 then BitVec.ofNat 32 (fMinMax fmtF32 true y.toNat z.toNat)
         else if intVal ty z ≤ intVal ty y then y else z
  | 3 => y &&& z
  | 4 => y ||| z
  | _ => y ^^^ z

/-- Identity of an exclusive scan (R151). -/
def redId (ty : Ty) (op : Nat) : Word :=
  match op with
  | 0 => 0
  | 1 => if ty = .f32 then 0x7F800000#32 else if ty = .s32 then 0x7FFFFFFF#32 else 0xFFFFFFFF#32
  | 2 => if ty = .f32 then 0xFF800000#32 else if ty = .s32 then 0x80000000#32 else 0
  | 3 => 0xFFFFFFFF#32
  | _ => 0

/-- The reduction of values in lane order; the identity of none. -/
def redAll (ty : Ty) (op : Nat) (vs : List Word) : Word :=
  match vs with
  | [] => redId ty op
  | v :: r => r.foldl (redOp ty op) v

def execLred (w : IW ModG) (s : State) : Out :=
  issue s (hd w) {
    body := fun c _ =>
      dstX w.dst (redAll w.mod.ty w.mod.opx.toNat ((lanesOf c.act).map fun j => src c j w.sa)) }

/-- Inclusive codes 0 to 5, exclusive ones 8 to 13 (R151). -/
def execLscn (w : IW ModG) (s : State) : Out :=
  issue s (hd w) {
    body := fun c l =>
      let op := w.mod.opx.toNat % 8
    let upto := (lanesOf c.act).filter fun j => if w.mod.opx.toNat < 8 then decide (j ≤ l) else decide (j < l)
    dstX w.dst (redAll w.mod.ty op (upto.map fun j => src c j w.sa)) }

def execLcnt (w : IW ModG) (s : State) : Out :=
  issue s (hd w) {
    body := fun c l =>
      dstX w.dst (BitVec.ofNat 32 ((lanesOf c.act).filter fun j =>
      srcP c j w.sa && (w.mod.opx = 0 || decide (j < l))).length) }

end Sys2Proof.Machine
end

