-- ==== Sys2Proof/Machine/FloatOps.lean ====
section
/-! DEFINITION. Floating-point arithmetic, the function units, packed arithmetic and conversions (R181 to R201). -/
namespace Sys2Proof.Machine
open Sys2Proof Sys2Proof.Checks

def w32 (n : Nat) : Word := BitVec.ofNat 32 n

/-- A format A word that applies a function to its sources' bits. -/
def fOp1 (w : IW ModA) (s : State) (f : Nat → Nat) : Out :=
  issueA w s {} fun c l => dstX w.dst (w32 (f (src c l w.sa).toNat))
def fOp2 (w : IW ModA) (s : State) (f : Nat → Nat → Nat) : Out :=
  issueA w s { nb := 1 } fun c l => dstX w.dst (w32 (f (src c l w.sa).toNat (src c l w.sb).toNat))
def fOp3 (w : IW ModA) (s : State) (f : Nat → Nat → Nat → Nat) : Out :=
  issueA w s { nb := 1, nc := 1 } fun c l => dstX w.dst (w32 (f (src c l w.sa).toNat (src c l w.sb).toNat (src c l w.sc).toNat))
/-- The same with a deferred result (R181). -/
def fDef1 (w : IW ModA) (s : State) (f : Nat → Nat) : Out :=
  issueA w s {} fun c l => deferred (dstX w.dst (w32 (f (src c l w.sa).toNat)))

/-! ### FP32 arithmetic (R183 to R188) -/

def execFadd (w : IW ModA) (s : State) : Out := fOp2 w s (fAdd fmtF32 w.mod.rnd)
def execFsub (w : IW ModA) (s : State) : Out := fOp2 w s (fSub fmtF32 w.mod.rnd)
def execFmul (w : IW ModA) (s : State) : Out := fOp2 w s (fMul fmtF32 w.mod.rnd)
def execFfma (w : IW ModA) (s : State) : Out := fOp3 w s (fFma fmtF32 w.mod.rnd)
def execFmin (w : IW ModA) (s : State) : Out := fOp2 w s (fMinMax fmtF32 false)
def execFmax (w : IW ModA) (s : State) : Out := fOp2 w s (fMinMax fmtF32 true)
def execFabs (w : IW ModA) (s : State) : Out := fOp1 w s (fAbs fmtF32)
def execFneg (w : IW ModA) (s : State) : Out := fOp1 w s (fNeg fmtF32)

def execFcmp (w : IW ModA) (s : State) : Out :=
  issueA w s { nb := 1 } fun c l =>
    dstBool w.dst (fCompare (condOf w.mod.opx.toNat) (fDecode fmtF32 (src c l w.sa).toNat) (fDecode fmtF32 (src c l w.sb).toNat))

/-- FCLS: the class bit, or whether the mask in SB holds it (R187). -/
def execFcls (w : IW ModA) (s : State) : Out :=
  issueA w s { nb := match w.dst with | .p _ => 1 | _ => 0 } fun c l =>
    let k := fClass (src c l w.sa).toNat
    match w.dst with
    | .p _ => dstP w.dst ((src c l w.sb).getLsbD k)
    | _ => dstX w.dst (w32 (2 ^ k))

def execFrnd (w : IW ModA) (s : State) : Out := fOp1 w s (fRnd w.mod.rnd)

/-! ### Function units (R189 to R192) -/

def execFdiv (w : IW ModA) (s : State) : Out :=
  issueA w s { nb := 1 } fun c l => deferred (dstX w.dst (w32 (fDiv w.mod.rnd (src c l w.sa).toNat (src c l w.sb).toNat)))
def execFsqrt (w : IW ModA) (s : State) : Out := fDef1 w s (fSqrt w.mod.rnd)
def execFrcp (w : IW ModA) (s : State) : Out := fDef1 w s fRcp
def execFrsq (w : IW ModA) (s : State) : Out := fDef1 w s fRsq
/-- DESIGN CHOICE, log 14. -/
def execFex2 (w : IW ModA) (s : State) : Out := fDef1 w s fEx2
def execFlg2 (w : IW ModA) (s : State) : Out := fDef1 w s fLg2
def execFsin (w : IW ModA) (s : State) : Out := fDef1 w s fSin
def execFcos (w : IW ModA) (s : State) : Out := fDef1 w s fCos
/-- DESIGN CHOICE, log 14. -/
def execFsig (w : IW ModA) (s : State) : Out := fDef1 w s fSig
def execFtnh (w : IW ModA) (s : State) : Out := fDef1 w s fTnh

/-! ### Packed 16-bit arithmetic (R193) -/

/-- A function of elements 0 and 1 of packed registers. -/
def pack2 (f : Nat → Nat → Nat → Nat) (a b c : Word) : Word :=
  let lo := f (a.toNat % 65536) (b.toNat % 65536) (c.toNat % 65536)
  let hi := f (a.toNat / 65536) (b.toNat / 65536) (c.toNat / 65536)
  w32 (lo + 65536 * hi)

def execHadd2 (w : IW ModA) (s : State) : Out :=
  issueA w s { nb := 1 } fun c l =>
    dstX w.dst (pack2 (fun a b _ => fAdd (fmtOf w.mod.tya) w.mod.rnd a b) (src c l w.sa) (src c l w.sb) 0)
def execHmul2 (w : IW ModA) (s : State) : Out :=
  issueA w s { nb := 1 } fun c l =>
    dstX w.dst (pack2 (fun a b _ => fMul (fmtOf w.mod.tya) w.mod.rnd a b) (src c l w.sa) (src c l w.sb) 0)
def execHfma2 (w : IW ModA) (s : State) : Out :=
  issueA w s { nb := 1, nc := 1 } fun c l =>
    dstX w.dst (pack2 (fFma (fmtOf w.mod.tya) w.mod.rnd) (src c l w.sa) (src c l w.sb) (src c l w.sc))
def execHmin2 (w : IW ModA) (s : State) : Out :=
  issueA w s { nb := 1 } fun c l =>
    dstX w.dst (pack2 (fun a b _ => fMinMax (fmtOf w.mod.tya) false a b) (src c l w.sa) (src c l w.sb) 0)
def execHmax2 (w : IW ModA) (s : State) : Out :=
  issueA w s { nb := 1 } fun c l =>
    dstX w.dst (pack2 (fun a b _ => fMinMax (fmtOf w.mod.tya) true a b) (src c l w.sa) (src c l w.sb) 0)

/-! ### Conversions (R194 to R196) -/

/-- Element k of a source register in its format. -/
def elemOf (f : Fmt) (k : Nat) (a : Word) : Nat := a.toNat / 2 ^ (k * fmtBits f) % 2 ^ fmtBits f

/-- The hash of R172 for a lane's seed in SC; 0 where the mode is not stochastic. -/
def seedHash (c : Ctx1) (l : Nat) (rnd : Rnd) (sc : Opnd) (i : Nat) : Nat :=
  if rnd = .rs then rsHash (src c l sc).toNat l i else 0

def execCvtf (w : IW ModA) (s : State) : Out :=
  issueA w s { nc := if w.mod.rnd = .rs then 1 else 0 } fun c l =>
    let k := w.mod.opx.toNat / 4
    let ftz := w.mod.opx.getLsbD 1
    let fs := fmtOf w.mod.tyb
    let v := fDecodeFtz fs (ftz && is8 w.mod.tyb) (elemOf fs k (src c l w.sa))
    dstX w.dst (w32 (fRound (fmtOf w.mod.tya) w.mod.rnd (w.mod.opx.getLsbD 0) (ftz && is8 w.mod.tya)
      (seedHash c l w.mod.rnd w.sc k) v).code)

def execCvti (w : IW ModA) (s : State) : Out :=
  issueA w s {} fun c l =>
    if w.mod.tya = .f32 then dstX w.dst (w32 (fOfInt w.mod.rnd (intVal w.mod.tyb (src c l w.sa))))
    else
      let fs := fmtOf w.mod.tyb
      let v := fDecodeFtz fs (w.mod.opx.getLsbD 1) (elemOf fs (w.mod.opx.toNat / 4) (src c l w.sa))
      dstX w.dst (wrap32 (fToInt w.mod.rnd v (loOf w.mod.tya) (hiOf w.mod.tya)))

def execCvtn (w : IW ModA) (s : State) : Out :=
  issueA w s { nc := if w.mod.rnd = .rs then 1 else 0 } fun c l =>
    let a := src c l w.sa
    if w.mod.opx.getLsbD 3 then
      let b := toSigned 8 (a.toNat / 2 ^ (8 * (w.mod.opx.toNat % 4)) % 256)
      dstX w.dst (if w.mod.tya = .f32 then w32 (fOfInt .rne b) else wrap32 b)
    else if w.mod.tyb = .f32 then
      dstX w.dst (wrap32 (fToInt w.mod.rnd (fDecode fmtF32 a.toNat) (-128) 127 (seedHash c l w.mod.rnd w.sc 0)))
    else dstX w.dst (wrap32 (satInt a.toInt (-128) 127))

/-! ### Four-bit blocks (R197 to R200) -/

/-- Largest positive magnitude of a KIND, doubled (R198). -/
def q4Max2 (kind : Nat) : Nat := match kind with | 0 => 14 | 1 => 12 | 2 => 128 | _ => 32

/-- The smallest e of −32 to 31 with v ≤ M × 2^e; 31 where none is. -/
def fitExp (v : FVal) (max2 : Nat) : Int :=
  let ok (e : Int) : Bool := match fvCmp v (.fin false max2 (e - 1)) with | .gt => false | _ => true
  match (List.range 64).find? (fun (i : Nat) => ok ((i : Int) - 32)) with
  | some i => (i : Int) - 32
  | none => 31

/-- The scale byte of a block of values under a control (R198). -/
def q4Scale (ctl : Word) (vs : List FVal) : Nat :=
  let kind := nbits ctl.toNat 7 6
  if !ctl.getLsbD 8 then kind * 64 + nbits ctl.toNat 5 0
  else
    let mags := vs.filterMap fun v => match v with | .fin _ n e => some (FVal.fin false n e) | _ => none
    let amax := mags.foldl (fun a v => match fvCmp a v with | .lt => v | _ => a) (.fin false 0 0)
    match amax with
    | .fin _ 0 _ => kind * 64 + 32
    | v => kind * 64 + (fitExp v (q4Max2 kind) + 32).toNat

def rndCodeOf (n : Nat) : Rnd := match n with | 1 => .rz | 2 => .rp | 3 => .rm | 4 => .rs | _ => .rne

/-- The scale control of a lane: bits 8:0 of SB. -/
def ctlOf (w : IW ModG) (c : Ctx1) (l : Nat) : Word := src c l w.sb &&& 0x1FF#32

def execCvtq (w : IW ModG) (s : State) : Out :=
  issue s (hd w) {
    sh := { nb := 1, nc := if w.mod.opx = 4 then 1 else 0 },
    path := fun c =>
      let cs := (lanesOf c.act).map (ctlOf w c)
      if cs.all fun v => v == cs.headD 0 then none else some { code := 4 },
    body := fun c l =>
      let rnd := rndCodeOf w.mod.opx.toNat
      let val (j : Nat) : FVal := fDecode fmtF32 (src c j w.sa).toNat
      let scale := q4Scale (ctlOf w c l) ((lanesOf c.act).map val)
      let code (j : Nat) : Nat :=
        if c.act.getLsbD j then (q4Encode rnd scale (seedHash c j rnd w.sc 0) (val j)).1 else 0
      let k := l % 4
      { wx := [(opndReg w.dst, w32 (((List.range 8).map fun m => code (8 * k + m) * 2 ^ (4 * m)).sum)),
               (opndReg w.dst + 1, w32 scale)] } }

def execCvte (w : IW ModG) (s : State) : Out :=
  issueCross s (hd w) (opndReg w.sa) (fun _ l => (l / 8 : Nat)) fun c l =>
    let j : Int := (l / 8 : Nat)
    let code := (crossVal c j (opndReg w.sa)).toNat / 2 ^ (4 * (l % 8)) % 16
    { wx := [(opndReg w.dst, w32 (fEnc fmtF32 .rne (q4Value ((src c l w.sb).toNat % 256) code)))]
      wp := if w.mod.chk then [(opndReg w.sc, crossChk c j)] else [] }

end Sys2Proof.Machine
end

