-- ==== Sys2Proof/Machine/MemOps.lean ====
section
/-! DEFINITION. The memory instructions at issue: addresses and checks, loads, stores, atomics, fences, seal, prefetch,
gather and scatter, and the full/empty instructions (R202 to R226, R255, R256). What a buffered effect does is in
Perform. -/
namespace Sys2Proof.Machine
open Sys2Proof Sys2Proof.Checks

/-! ### What an access may not overtake (R56) -/

def overlapIv (a b : Nat × Nat) : Bool := decide (a.1 < b.1 + b.2) && decide (b.1 < a.1 + a.2)

/-- Where the bytes of a space are counted from: each space, the full/empty bits and the next planes have a number. -/
def spaceNo : Space → Nat
  | .dev => 0 | .host => 1 | .spad => 2 | .sram => 3
def placeAt (sp : Space) (pa : Nat) : Nat := if sp = .spad then pa % 2 ^ 26 else pa

/-- The bytes that an effect reads or writes, each a space and an interval. Full/empty bits have a space of their own, and so have the
engines and tables that an effect without bytes of its own acts on. -/
def effPlaces : Eff → List (Nat × Nat × Nat)
  | .store sp _ pa bytes => [(spaceNo sp, placeAt sp pa, bytes.length)]
  | .scat sp _ pa bytes _ => [(spaceNo sp, placeAt sp pa, bytes.length)]
  | .atom sp _ pa _ ty _ _ _ => [(spaceNo sp, placeAt sp pa, (tyBytes ty).getD 4)]
  | .stn a ty d => [(5, a, (tyBytes ty).getD 4 * d.length)]
  | .line a _ => [(4, a / 128, 1)]
  | .bari a _ _ => [(2, a, 16)]
  | .barx a _ => [(2, a, 16)]
  | .rput hdr a _ => [(2, hdr, 64), (2, a - 8, 8)]
  | .retire hdr recd => [(2, hdr, 64), (2, recd, 8)]
  | .rtkt hdr _ _ _ => [(2, hdr, 64)]
  | .govh _ a => [(2, a, 1)]
  | .fwk _ a _ => [(4, a / 128, 1)]
  | _ => [(9, 0, 1)]

/-- An effect of the lane on those bytes has committed and is still on its way. A lane never reads a value older than its own (R56), so an
instruction that reads them waits. (DEDUCED, log 22.) -/
def ownOwed (s : State) (g : GKey) (l : Nat) (p : Nat × Nat × Nat) : Bool :=
  s.flight.any fun f => f.g = g && f.lanes.getLsbD l && (effPlaces f.eff).any fun q => q.1 = p.1 && overlapIv q.2 p.2

/-- What the acting lanes would read, each its own places, is not all settled, or an acquire of theirs is not. -/
def ownHeld (c : Ctx1) (places : Nat → List (Nat × Nat × Nat)) : Bool :=
  acqOwed c.s c.g c.act || (lanesOf c.act).any fun l => (places l).any fun p => ownOwed c.s c.g l p

def waitOwn (c : Ctx1) (places : Nat → List (Nat × Nat × Nat)) : Option State := if ownHeld c places then some c.s else none

/-! ### Addresses and checks (R203 to R206, R253) -/

/-- The access address, modulo 2^64 (R203). -/
def accAddr (w : IW ModM) (c : Ctx1) (l : Nat) : Nat :=
  match w.sa with
  | .imm => w.imm.toNat
  | o => (((if w.mod.pair then src64 c l o else (src c l o).setWidth 64) + w.imm : DWord)).toNat

/-- Bytes of an access (R204). -/
def accLen (m : ModM) : Nat := (tyBytes m.ty).getD 1 * 2 ^ m.cnt.toNat

/-- Elements of an access, and the registers each takes (R204). -/
def accCount (m : ModM) : Nat := 2 ^ m.cnt.toNat
def regStep (t : Ty) : Nat := if is64 t then 2 else 1

def trapOf (code cause addr : Nat) : Leave := .trap { code := code, cause := cause, addr := addr }

/-- What the checks of a global access find. -/
inductive Acc where
  | ok (sp : Space) (pa : Nat)
  | wait
  | leave (v : Leave)
  deriving DecidableEq, Repr

/-- An access that needs W of its page (R432). -/
def accWrites (k : AccKind) : Bool := k == .store || k == .atomic || k == .scat

/-- The checks of a lane's global access in order: Address-Range, Misaligned, translation (R203 to R205). -/
def globalAcc (c : Ctx1) (va n : Nat) (kind : AccKind) : Acc :=
  if 2 ^ 57 ≤ va || (c.q.prof = .mgmt && decide (sramSize < va + n)) then .leave (trapOf 0x09 0 va)
  else if va % n != 0 then .leave (trapOf 0x0A 0 va)
  else
    match translate c.s c.q va (accWrites kind) with
    | .ok sp pa _ => .ok sp pa
    | .wait => .wait
    | .fault wr => .leave (.fault va kind wr)

/-- Walks for the acting lanes whose translation no TLB holds; `none` when nothing waits. -/
def waitGlobal (c : Ctx1) (va : Nat → Nat) (n : Nat) (kind : AccKind) (lanes : List Nat) : Option State :=
  let ws := lanes.filter fun l => globalAcc c (va l) n kind = .wait
  match ws with
  | [] => none
  | _ => some (ws.foldl (fun s l => startWalk s { clu := c.q.clu, core := c.q.core, ctx := c.q.ctx, va := va l, g := some c.g, wr := accWrites kind }) c.s)

/-- The bytes that a lane's global load reads. -/
def globalPlace (c : Ctx1) (va n : Nat) (kind : AccKind) : List (Nat × Nat × Nat) :=
  match globalAcc c va n kind with
  | .ok sp pa => [(spaceNo sp, placeAt sp pa, n)]
  | _ => []

/-- The batch of the issuing group. -/
def batchOf (c : Ctx1) : Batch := getB c.s c.q.btag

/-- What a scratchpad access is checked as (R253). -/
inductive SpadUse where
  | read | single | next (ty : Ty) | line | barrier
  deriving DecidableEq, Repr

/-- The checks of R253, orders 1 to 7, for an access of n bytes. -/
def spadCheck (c : Ctx1) (a n al : Nat) (use : SpadUse) : Option Leave :=
  let b := batchOf c
  match spadRange b a n with
  | some cause => some (trapOf 0x0D cause a)
  | none =>
    if al != 0 && a % al != 0 then some (trapOf 0x0A 0 a)
    else
      match use, dualAt b (a - b.spb) with
      | .single, some _ => some (trapOf 0x0E 0 a)
      | .barrier, some _ => some (trapOf 0x0E 0 a)
      | .next _, none => some (trapOf 0x0E 1 a)
      | .next ty, some r =>
        if !isMember c.s c.q (rgnTmx r.2) then some (trapOf 0x0E 2 a)
        else if rgnRule r.2 = 1 && rgnStype r.2 != (match ty with | .n32 => 1 | .s32 => 2 | .f32 => 3 | _ => 0) then
          some (trapOf 0x0E 3 a)
        else none
      | _, _ => none

/-! ### Loads and stores (R207 to R212) -/

/-- The youngest buffered store of a lane to a byte, if there is one (R90). (DEDUCED, log 22.) -/
def forwarded (r : Run) (l : Nat) (sp : Space) (pa : Nat) : Option Byte :=
  r.bufs.foldl (fun a b =>
    match b.eff with
    | .store sp' _ pa' bytes =>
      if b.lanes.getLsbD l && sp' = sp && decide (pa' ≤ pa) && decide (pa < pa' + bytes.length) then bytes[pa - pa']? else a
    | _ => a) none

/-- Bytes that a load binds: from the lane's own buffer, else from memory as the lane sees it (R53, R54, R208). (DEDUCED, log 22.) -/
def bindBytes (c : Ctx1) (l : Nat) (sp : Space) (pa n : Nat) : List Byte :=
  (List.range n).map fun k =>
    match forwarded c.r l sp (pa + k) with
    | some v => v
    | none => viewByte c.s c.g l sp (pa + k)

/-- After a load has bound its bytes: an acquire at its scope (R52), and what the lanes see moves on. -/
def loadSees (acq : Bool) (sc : Scope) (c : Ctx1) (s : State) : State :=
  viewMove (if acq then viewAcquire s c.g c.act sc else s) c.g

/-- A load of bytes of a line: where the line is full, the event that set it so has carried its writes (R65). -/
def lineSees (c : Ctx1) (addr : Nat → Nat) (s : State) : State :=
  (lanesOf c.act).foldl (fun s l =>
    let key := spadKey c.q.clu (addr l)
    if lineEmpty s key then s else viewLine s c.g (laneBit l) key) s

/-- What a scratchpad load binds its bytes from: a full line is seen with what its event carried (R65). -/
def lineCtx (c : Ctx1) (addr : Nat → Nat) : Ctx1 := { c with s := lineSees c addr c.s }

/-- Cut bytes into words of `k` bytes each, and each element into its registers (R204). -/
def elemWrites (dst k cnt : Nat) (bytes : List Byte) : List (Nat × Word) :=
  ((List.range cnt).map fun e =>
    let v := leNat ((bytes.drop (e * k)).take k)
    if k = 8 then [(dst + 2 * e, BitVec.ofNat 32 v), (dst + 2 * e + 1, BitVec.ofNat 32 (v / 2 ^ 32))]
    else [(dst + e, BitVec.ofNat 32 v)]).flatten

/-- Bytes that a store takes from its registers: the low bytes of each (R204). -/
def storeBytes (c : Ctx1) (l : Nat) (o : Opnd) (k cnt : Nat) : List Byte :=
  ((List.range cnt).map fun e =>
    let r := opndReg o + e * (if k = 8 then 2 else 1)
    if k = 8 then leBytes 8 (rdPair c.q.work l r).toNat else leBytes k (rdX c.q.work l r).toNat).flatten

/-- Number of PUBs that the context has seen: the version of its published buffers (R22). -/
def pubCount (s : State) (ctx : Nat) : Nat := (s.pubs.filter fun p => p.1 = ctx).length

/-- The versioned object that a global load reads, as the trace notes it. -/
def globalRead (c : Ctx1) (l va : Nat) : List (Nat × Nat × Nat) := [(l, 2 * va + 1, pubCount c.s c.q.ctx)]

/-- The versioned object that a scratchpad load reads: a dual region at its team's step count. -/
def dualRead (c : Ctx1) (l a : Nat) : List (Nat × Nat × Nat) :=
  let b := batchOf c
  match dualAt b (a - b.spb) with
  | some r => [(l, 2 * (c.q.btag * 16 + r.1), (getT c.s (tkey c.q.clu (rgnTmx r.2))).steps)]
  | none => []

def baseShape (w : IW ModM) (nb nc : Nat) : Shape := { na := if w.mod.pair then 2 else 1, nb := nb, nc := nc }

/-- A CPBS of the lane has committed and not arrived: the lane's later loads wait at issue (R309). -/
def cpbsOwed (s : State) (g : GKey) (m : Mask) : Bool :=
  s.jobs.any fun j => j.g = g && j.cpbs.isSome && j.lanes &&& m != 0

/-- LD and LDNC (R208, R210): the same values and ordering. (DEDUCED, log 22.) -/
def loadGlobal (w : IW ModM) (bypass : Bool) (s : State) : Out :=
  let n := accLen w.mod
  let k := (tyBytes w.mod.ty).getD 1
  issue s (hd w) {
    sh := baseShape w 0 0,
    wait := fun c =>
      if cpbsOwed c.s c.g c.act then some c.s
      else (waitGlobal c (accAddr w c) n .load (lanesOf c.act)).or (waitOwn c fun l => globalPlace c (accAddr w c l) n .load),
    acc := some { cls := 0, spad := false, addr := accAddr w, len := n, bypass := bypass },
    body := fun c l =>
      let va := accAddr w c l
      match globalAcc c va n .load with
      | .leave v => { leave := some v }
      | .wait => {}
      | .ok sp pa =>
        { deferred { wx := elemWrites (opndReg w.dst) k (accCount w.mod) (bindBytes c l sp pa n) } with
          vread := globalRead c l va },
    after := loadSees (w.mod.ord = .acq) w.mod.scope }

def execLd (w : IW ModM) (s : State) : Out := loadGlobal w false s
/-- LDNC allocates in no cache (R210, R428). -/
def execLdnc (w : IW ModM) (s : State) : Out := loadGlobal w true s

def execSt (w : IW ModM) (s : State) : Out :=
  let n := accLen w.mod
  let k := (tyBytes w.mod.ty).getD 1
  issue s (hd w) {
    sh := baseShape w (regsOf w.mod) 0,
    wait := fun c => waitGlobal c (accAddr w c) n .store (lanesOf c.act),
    acc := some { cls := 1, spad := false, addr := accAddr w, len := n },
    body := fun c l =>
      let va := accAddr w c l
      match globalAcc c va n .store with
      | .leave v => { leave := some v }
      | .wait => {}
      | .ok sp pa =>
        { effs := [{ lanes := laneBit l, eff := .store sp va pa (storeBytes c l w.sb k (accCount w.mod)), ord := w.mod.ord,
                     scope := w.mod.scope, off := c.r.off }] } }

/-- The bytes that a lane's scratchpad load reads (R58). -/
def spadPlace (c : Ctx1) (a n al : Nat) : List (Nat × Nat × Nat) :=
  match spadCheck c a n al .read with
  | some _ => []
  | none => let b := batchOf c; [(2, presentKey b (a - b.spb) % 2 ^ 26, n)]

/-- A scratchpad load; LDS waits while a line that it reads is empty (R208, R212). (DEDUCED, log 22.) -/
def loadSpad (w : IW ModM) (s : State) (waits : Bool) : Out :=
  let n := accLen w.mod
  let k := (tyBytes w.mod.ty).getD 1
  issue s (hd w) {
    wait := fun c =>
      if cpbsOwed c.s c.g c.act then some c.s
      else if waits && (lanesOf c.act).any (fun l =>
          (spadCheck c (accAddr w c l) n n .read).isNone && lineEmpty c.s (spadKey c.q.clu (accAddr w c l)))
      then some c.s
      else waitOwn c fun l => spadPlace c (accAddr w c l) n n ++ if waits then [(4, accAddr w c l / 128, 1)] else [],
    acc := some { cls := 0, spad := true, addr := accAddr w, len := n },
    body := fun c l =>
      let a := accAddr w c l
      match spadCheck c a n n .read with
      | some v => { leave := some v }
      | none =>
        let b := batchOf c
        { deferred { wx := elemWrites (opndReg w.dst) k (accCount w.mod)
                       (bindBytes (lineCtx c (accAddr w c)) l .spad (presentKey b (a - b.spb)) n) } with
          vread := dualRead c l a },
    after := fun c s => loadSees (w.mod.ord = .acq) w.mod.scope c (lineSees c (accAddr w c) s) }

def execLds (w : IW ModM) (s : State) : Out := loadSpad w s true
def execLdsn (w : IW ModM) (s : State) : Out := loadSpad w s false

def execSts (w : IW ModM) (s : State) : Out :=
  let n := accLen w.mod
  let k := (tyBytes w.mod.ty).getD 1
  issue s (hd w) {
    sh := { nb := regsOf w.mod },
    acc := some { cls := 1, spad := true, addr := accAddr w, len := n },
    body := fun c l =>
      let a := accAddr w c l
      match spadCheck c a n n .single with
      | some v => { leave := some v }
      | none =>
        { effs := [{ lanes := laneBit l, eff := .store .spad a (spadKey c.q.clu a) (storeBytes c l w.sb k (accCount w.mod)),
                     ord := w.mod.ord, scope := w.mod.scope, off := c.r.off }] } }

def execStn (w : IW ModM) (s : State) : Out :=
  let n := accLen w.mod
  issue s (hd w) {
    sh := { nb := regsOf w.mod },
    acc := some { cls := 1, spad := true, addr := accAddr w, len := n },
    body := fun c l =>
      let a := accAddr w c l
      match spadCheck c a n n (.next w.mod.ty) with
      | some v => { leave := some v }
      | none =>
        { effs := [{ lanes := laneBit l, eff := .stn a w.mod.ty (srcN c l w.sb (accCount w.mod)), off := c.r.off }] } }

/-! ### Atomics (R213 to R215) -/

def atOp (n : Nat) : AtOp :=
  match n with
  | 0 => .add | 1 => .min | 2 => .max | 3 => .and | 4 => .or | 5 => .xor | _ => .exch

/-- A source of an atomic, 64 bits wide under a 64-bit type. -/
def atVal (c : Ctx1) (l : Nat) (ty : Ty) (o : Opnd) : Nat :=
  if is64 ty then (src64 c l o).toNat else (src c l o).toNat

/-- The buffered atomic and its return, held to commit. -/
def atOut (w : IW ModM) (c : Ctx1) (l : Nat) (op : AtOp) (sp : Space) (va pa : Nat) : LaneOut :=
  { pend := heldTo c w.dst (regStep w.mod.ty)
    effs := [{ lanes := laneBit l,
               eff := .atom sp va pa op w.mod.ty (atVal c l w.mod.ty w.sb) (atVal c l w.mod.ty w.sc) (dstTag c w.dst),
               ord := w.mod.ord, scope := w.mod.scope, off := c.r.off }] }

/-- An atomic that the host cannot complete (R483). -/
def hostRefuses (s : State) (op : AtOp) (ty : Ty) : Bool :=
  !s.regs.hcfg.getLsbD 0 || !(match op with
    | .add => ty != .f32
    | .exch => true
    | .cas => true
    | _ => false)

def atomGlobal (w : IW ModM) (s : State) (op : AtOp) : Out :=
  let n := (tyBytes w.mod.ty).getD 4
  issue s (hd w) {
    sh := baseShape w (regStep w.mod.ty) (if op = .cas then regStep w.mod.ty else 0),
    wait := fun c => waitGlobal c (accAddr w c) n .atomic (lanesOf c.act),
    acc := some { cls := 2, spad := false, addr := accAddr w, len := n },
    body := fun c l =>
      let va := accAddr w c l
      match globalAcc c va n .atomic with
      | .leave v => { leave := some v }
      | .wait => {}
      | .ok sp pa =>
        if sp = .host && hostRefuses c.s op w.mod.ty then trapLane 0x09 1 va else atOut w c l op sp va pa }

def atomSpad (w : IW ModM) (s : State) (op : AtOp) : Out :=
  let n := (tyBytes w.mod.ty).getD 4
  issue s (hd w) {
    sh := { nb := regStep w.mod.ty, nc := if op = .cas then regStep w.mod.ty else 0 },
    acc := some { cls := 2, spad := true, addr := accAddr w, len := n },
    body := fun c l =>
      let a := accAddr w c l
      match spadCheck c a n n .single with
      | some v => { leave := some v }
      | none => atOut w c l op .spad a (spadKey c.q.clu a) }

def execAtm (w : IW ModM) (s : State) : Out := atomGlobal w s (atOp w.mod.aop.toNat)
def execCas (w : IW ModM) (s : State) : Out := atomGlobal w s .cas
def execAtms (w : IW ModM) (s : State) : Out := atomSpad w s (atOp w.mod.aop.toNat)
def execCass (w : IW ModM) (s : State) : Out := atomSpad w s .cas

/-! ### Fences, seal, unseal, prefetch (R216 to R222) -/

/-- FNC: its committed lanes wait until what it promises holds (R217). -/
def execFnc (w : IW ModS) (s : State) : Out :=
  issue s (hd w) {
    sh := { na := 0 },
    body := fun _ _ => {},
    sync := some fun _ => (0, .fence w.mod.ord w.mod.scope) }

/-- The first acting lane, whose operands stand for the path where they are uniform. -/
def firstLane (c : Ctx1) : Nat := (lowLane c.act).getD 0

/-- Every acting lane has one access address. -/
def oneAddr (w : IW ModM) (c : Ctx1) : Bool := (lanesOf c.act).all fun l => accAddr w c l = accAddr w c (firstLane c)

/-- SEAL and UNSL: address and length uniform, once for the path, the status held to commit (R218 to R220). Addresses that lanes pop are
known, and compared, only once they are popped. -/
def sealOp (w : IW ModM) (s : State) (undo : Bool) : Out :=
  issue s (hd w) {
    sh := baseShape w 1 0,
    uni := [(w.sa, if w.mod.pair then 2 else 1), (w.sb, 1)],
    path := fun c => if oneAddr w c then none else some { code := 4 },
    after := fun c s => if oneAddr w c then s else pathTrap s c.g { code := 4, off := c.r.off, word := c.word },
    body := fun c l =>
      if !oneAddr w c then {}
      else if 2 ^ 57 ≤ accAddr w c l then trapLane 0x09 0 (accAddr w c l) else { pend := heldTo c w.dst 1 },
    once := some fun c => .seal undo (accAddr w c (firstLane c)) (src c (firstLane c) w.sb).toNat (dstTag c w.dst) }

def execSeal (w : IW ModM) (s : State) : Out := sealOp w s false
def execUnsl (w : IW ModM) (s : State) : Out := sealOp w s true

/-- PRF starts the walk of an address that no TLB holds, and does nothing for one that would fault (R222). -/
def execPrf (w : IW ModM) (s : State) : Out :=
  issue s (hd w) {
    sh := baseShape w 0 0,
    body := fun _ _ => {},
    after := fun c s =>
      (lanesOf c.act).foldl (fun s l =>
        let va := accAddr w c l
        if 2 ^ 57 ≤ va then s
        else
          match translate c.s c.q va false with
          | .wait => startWalk s { clu := c.q.clu, core := c.q.core, ctx := c.q.ctx, va := va, g := none }
          | .ok sp pa _ => touch s .read sp (pa / 128 * 128)
          | .fault _ => s) s }

/-! ### Gather and scatter (R223 to R226) -/

/-- Address of a lane's element: A64 + ix × w + IMM, where IMM is the index and no offset for SB = 127 (R223). -/
def gsAddr (w : IW ModG) (c : Ctx1) (l : Nat) : Nat :=
  let b := src c l w.sb
  let ix : Int := if w.mod.opx.getLsbD 0 then b.toInt else (b.toNat : Int)
  let off : Int := match w.sb with | .imm => 0 | _ => (w.imm.toNat : Int)
  ofSigned 64 (((src64 c l w.sa).toNat : Int) + ix * ((tyBytes w.mod.ty).getD 4 : Nat) + off)

def getCpb (q : Group) (n : Nat) : Cpb := sget {} q.cpb n
def setCpb (q : Group) (n : Nat) (v : Cpb) : Group := { q with cpb := sset {} q.cpb n v }

/-- A slot that is bound, or that this trace has named already, raises Uniformity for the path (R106, R224). -/
def slotTrap (c : Ctx1) (n : Nat) : Option Trap :=
  if (getCpb c.q n).st = .bound || c.r.slots.contains n then some { code := 4 } else none

/-- The mask that the next operation on a slot starts from (R224). -/
def slotStart (v : Cpb) : Word := if v.st = .preset then v.val else 0

/-- A slot whose bits are all set is done. -/
def cpbWith (m : Word) : Cpb := { val := m, st := if m = 0xFFFFFFFF#32 then .done else .bound }

def cpbCode : CpbState → Nat | .done => 0 | .preset => 1 | .bound => 2
def cpbOfCode : Nat → CpbState | 0 => .done | 1 => .preset | _ => .bound

/-- Elements that a GATH reads: the acting lanes whose bit of the starting mask is clear (R225). -/
def gathLanes (w : IW ModG) (c : Ctx1) : List Nat :=
  (lanesOf c.act).filter fun l => !(slotStart (getCpb c.q w.mod.slot.val)).getLsbD l

def execGath (w : IW ModG) (s : State) : Out :=
  let n := (tyBytes w.mod.ty).getD 4
  let slot := w.mod.slot.val
  issue s (hd w) {
    sh := { na := 2, nb := 1 },
    always := fun c => slotTrap c slot,
    wait := fun c =>
      if cpbsOwed c.s c.g c.act then some c.s
      else (waitGlobal c (gsAddr w c) n .gath (gathLanes w c)).or
        (waitOwn c fun l => if (gathLanes w c).contains l then globalPlace c (gsAddr w c l) n .gath else []),
    acc := some { cls := 0, spad := false, on := fun c l => (gathLanes w c).contains l, addr := gsAddr w, len := n },
    body := fun c l =>
      if !(gathLanes w c).contains l then {}
      else
        let va := gsAddr w c l
        match globalAcc c va n .gath with
        | .leave v => { leave := some v }
        | .wait => {}
        | .ok sp pa =>
          let ws := elemWrites (dstTag c w.dst) n 1 (bindBytes c l sp pa n)
          { pend := scored c w.dst (regStep w.mod.ty)
            sbw := ws.map fun e => (0, slot, l, e.1, e.2)
            vread := globalRead c l va },
    after := fun c s =>
      loadSees (w.mod.scope != .ln) w.mod.scope c (updG s c.g fun q =>
        let old := getCpb q slot
        let m := slotStart old ||| ~~~c.act
        { setCpb q slot (cpbWith m) with
          elems := q.elems ++ ((gathLanes w c).filter fun l => q.sbw.any fun x => x.2.1 = slot && x.2.2.1 = l).map fun l =>
            { slot := slot, lane := l, va := gsAddr w c l, n := n, dst := dstTag c w.dst }
          run := q.run.map fun r => { r with slots := slot :: r.slots, gath := (slot, cpbCode old.st, old.val) :: r.gath } }) }

def execScat (w : IW ModG) (s : State) : Out :=
  let n := (tyBytes w.mod.ty).getD 4
  let slot := w.mod.slot.val
  issue s (hd w) {
    sh := { na := 2, nb := 1, nc := regStep w.mod.ty },
    always := fun c => slotTrap c slot,
    wait := fun c => waitGlobal c (gsAddr w c) n .scat (lanesOf c.act),
    acc := some { cls := 1, spad := false, addr := gsAddr w, len := n },
    body := fun c l =>
      let va := gsAddr w c l
      match globalAcc c va n .scat with
      | .leave v => { leave := some v }
      | .wait => {}
      | .ok sp pa =>
        { effs := [{ lanes := laneBit l, eff := .scat sp va pa (storeBytes c l w.sc n 1) slot,
                     ord := if w.mod.scope = .ln then .none else .rel, scope := w.mod.scope, off := c.r.off }] },
    after := fun c s => updG s c.g fun q => { q with run := q.run.map fun r => { r with slots := slot :: r.slots, scats := slot :: r.scats } } }

/-! ### Full/empty bits (R255, R256) -/

def lineOp (w : IW ModM) (s : State) (full : Bool) : Out :=
  issue s (hd w) {
    acc := some { cls := 1, spad := true, addr := fun c l => accAddr w c l / 128 * 128, len := 128 },
    body := fun c l =>
      let a := accAddr w c l
      match spadCheck c a 1 0 .line with
      | some v => { leave := some v }
      | none =>
        { effs := [{ lanes := laneBit l, eff := .line a full, ord := if full then .rel else .none,
                     scope := if full then .clu else .ln, off := c.r.off }] } }

def execFset (w : IW ModM) (s : State) : Out := lineOp w s true
def execFclr (w : IW ModM) (s : State) : Out := lineOp w s false

/-- FTST reads the line's bit as a load does (R256). -/
def execFtst (w : IW ModM) (s : State) : Out :=
  issue s (hd w) {
    wait := fun c => if cpbsOwed c.s c.g c.act then some c.s else waitOwn c fun l => [(4, accAddr w c l / 128, 1)],
    acc := some { cls := 0, spad := true, addr := fun c l => accAddr w c l / 128 * 128, len := 128 },
    body := fun c l =>
      let a := accAddr w c l
      match spadCheck c a 1 0 .line with
      | some v => { leave := some v }
      | none => deferred (dstX w.dst (if lineEmpty c.s (spadKey c.q.clu a) then 0 else 1)),
    after := fun c s => loadSees (w.mod.ord = .acq) w.mod.scope c (lineSees c (accAddr w c) s) }

end Sys2Proof.Machine
end

