-- ==== Sys2Proof/Machine/SpadOps.lean ====
section
/-! DEFINITION. Regions, teams, steps and barriers, rings and launches, the governor, and the system registers, at issue
(R121, R153 to R158, R253, R262 to R276, R404 to R416). What they do after commit is in Perform. -/
namespace Sys2Proof.Machine
open Sys2Proof Sys2Proof.Checks

/-! ### Team slots (R121, R253) -/

/-- The slot operand of a lane: bits 1:0 of IMM, or a register. -/
def slotVal (w : IW ModS) (c : Ctx1) (l : Nat) : Nat :=
  match w.sa with
  | .imm => nbits w.imm.toNat 1 0
  | o => (src c l o).toNat

/-- The committed team of a slot: 0 for none, else 0x100 + the team-table index (R102). -/
def teamSlot (q : Group) (n : Nat) : Nat := sget 0 q.team n

/-- Checks of a slot register above 3 and, where `needs`, of an empty slot. -/
def slotCheck (w : IW ModS) (c : Ctx1) (l : Nat) (needs : Bool) : Option LaneOut :=
  let n := slotVal w c l
  if 3 < n then some (trapLane 0x0E 5 0)
  else if needs && teamSlot c.q n = 0 then some (trapLane 0x0E 4 0)
  else none

def slotUni (w : IW ModS) : List (Opnd × Nat) := [(w.sa, 1)]
def slotUse (w : IW ModS) : Nat := match w.sa with | .imm => 0 | _ => 1

/-! ### RGN, TEAM, STEP, STEPQ (R262 to R269) -/

def execRgn (w : IW ModS) (s : State) : Out :=
  issue s (hd w) {
    sh := { na := slotUse w, nb := 1, nc := 1 },
    uni := [(w.sa, 1), (w.sb, 1), (w.sc, 1)],
    body := fun c l =>
      let dual := (src c l w.sc).getLsbD 26
      match (if dual then slotCheck w c l false else none) with
      | some o => o
      | none => { pend := heldTo c w.dst 1 },
    once := some fun c =>
      let l := firstLane c
      .rgn (slotVal w c l) (src c l w.sb) (src c l w.sc) (dstTag c w.dst) }

def execTeam (w : IW ModS) (s : State) : Out :=
  issue s (hd w) {
    sh := { na := slotUse w, nb := 1 },
    uni := [(w.sa, 1), (w.sb, 1)],
    body := fun c l =>
      match slotCheck w c l false with
      | some o => o
      | none => { pend := heldTo c w.dst 1 },
    once := some fun c => .team (slotVal w c (firstLane c)) (src c (firstLane c) w.sb) (dstTag c w.dst) }

def execStep (w : IW ModS) (s : State) : Out :=
  issue s (hd w) {
    sh := { na := slotUse w },
    uni := slotUni w,
    body := fun c l => (slotCheck w c l true).getD {},
    sync := some fun c => (slotVal w c (firstLane c),   .step 0 c.r.tix c.r.off c.word) }

def execStepq (w : IW ModS) (s : State) : Out :=
  issue s (hd w) {
    sh := { na := slotUse w },
    uni := slotUni w,
    wait := fun c => waitOwn c fun _ => [],
    body := fun c l =>
      match slotCheck w c l true with
      | some o => o
      | none =>
        let t := getT c.s (tkey c.q.clu (teamSlot c.q (slotVal w c l) % 256))
        deferred (dstX w.dst (w32 (match w.mod.sub.toNat with | 0 => t.steps | 1 => t.narr | _ => t.nlive))) }

/-! ### Barriers (R270 to R276) -/

/-- A barrier object at a cluster address, as the bank holds it. -/
structure Bar where
  phase : Nat
  exp : Nat
  arr : Nat
  tmx : Nat
  v : Bool
  rsv : Nat
  pend : Nat
  deriving DecidableEq, Repr

def barOf (n : Nat) : Bar :=
  { phase := nbits n 127 112, exp := nbits n 111 101, arr := nbits n 100 90, tmx := nbits n 89 82, v := n.testBit 81,
    rsv := nbits n 80 48, pend := nbits n 47 0 }

def barNat (b : Bar) : Nat :=
  fieldAt 112 16 b.phase + fieldAt 101 11 b.exp + fieldAt 90 11 b.arr + fieldAt 82 8 b.tmx
    + (if b.v then 2 ^ 81 else 0) + fieldAt 48 33 b.rsv + fieldAt 0 48 b.pend

def readBar (s : State) (clu a : Nat) : Bar := barOf (leNat (memRead s.spad (spadKey clu a) 16))
/-- The bank writes the object, for every lane to see (R56, R280). -/
def writeBar (s : State) (clu a : Nat) (b : Bar) : State :=
  let s := viewSeen s .spad (spadKey clu a) 16
  { s with spad := memWrite s.spad (spadKey clu a) (leBytes 16 (barNat b)) }

/-- Checks of a barrier instruction: R253 orders 1 to 4, and 8 unless it is BARI, and 9 where the group arrives. -/
def barCheck (c : Ctx1) (a : Nat) (isInit arrives : Bool) : Option Leave :=
  match spadCheck c a 16 16 .barrier with
  | some v => some v
  | none =>
    let b := readBar c.s c.q.clu a
    if isInit then none
    else if !b.v || b.rsv != 0 || decide (1024 < b.exp) then some (trapOf 0x0D 2 a)
    else if arrives && !isMember c.s c.q b.tmx then some (trapOf 0x0D 3 a)
    else none

def barAddr (w : IW ModS) (c : Ctx1) (l : Nat) : Nat := (src c l w.sb).toNat

/-- BARI (R272): the address, then the slot, then C. (DESIGN CHOICE, log 106.) -/
def execBari (w : IW ModS) (s : State) : Out :=
  issue s (hd w) {
    sh := { na := slotUse w, nb := 1, nc := if w.mod.sub = 0 then 1 else 0 },
    uni := [(w.sa, 1), (w.sb, 1)] ++ if w.mod.sub = 0 then [(w.sc, 1)] else [],
    acc := some { cls := 1, spad := true, addr := barAddr w, len := 16 },
    body := fun c l =>
      let a := barAddr w c l
      match barCheck c a true false with
      | some v => { leave := some v }
      | none =>
        match slotCheck w c l true with
        | some o => o
        | none =>
          let e := (src c l w.sc).toNat
          if w.mod.sub = 0 && (e = 0 || decide (1024 < e)) then trapLane 0x0D 2 a else {},
    once := some fun c =>
      let l := firstLane c
      .bari (barAddr w c l) (slotVal w c l) (if w.mod.sub = 0 then (src c l w.sc).toNat else 0) }

def execBara (w : IW ModS) (s : State) : Out :=
  issue s (hd w) {
    sh := { na := 0, nb := 1 },
    uni := [(w.sb, 1)],
    wait := fun c => waitOwn c fun l => [(2, barAddr w c l, 16)],
    acc := some { cls := 2, spad := true, addr := barAddr w, len := 16 },
    body := fun c l =>
      match barCheck c (barAddr w c l) false true with
      | some v => { leave := some v }
      | none => { pend := heldTo c w.dst 1 },
    sync := some fun c => (0, .barArrive (barAddr w c (firstLane c)) (dstTag c w.dst) false) }

def execBarw (w : IW ModS) (s : State) : Out :=
  let arr := w.mod.sub = 1
  issue s (hd w) {
    sh := { na := 0, nb := 1, nc := if arr then 0 else 1 },
    uni := [(w.sb, 1)] ++ if arr then [] else [(w.sc, 1)],
    wait := fun c => waitOwn c fun l => [(2, barAddr w c l, 16)],
    acc := some { cls := 2, spad := true, addr := barAddr w, len := 16 },
    body := fun c l =>
      match barCheck c (barAddr w c l) false arr with
      | some v => { leave := some v }
      | none => if arr then { pend := heldTo c w.dst 1 } else {},
    sync := some fun c =>
      let l := firstLane c
      (0, if arr then .barArrive (barAddr w c l) (dstTag c w.dst) true
          else .barWait (barAddr w c l) ((src c l w.sc).toNat % 65536) none) }

def execBarx (w : IW ModS) (s : State) : Out :=
  issue s (hd w) {
    sh := { na := slotUse w, nb := 1 },
    uni := [(w.sa, 1), (w.sb, 1)],
    wait := fun c => waitOwn c fun l => [(2, barAddr w c l, 16)],
    acc := some { cls := 1, spad := true, addr := barAddr w, len := 16 },
    body := fun c l =>
      match barCheck c (barAddr w c l) false false with
      | some v => { leave := some v }
      | none => {},
    once := some fun c => .barx (barAddr w c (firstLane c)) (src c (firstLane c) w.sa).toNat }

/-- BARQ reads the object as a load does (R276): through the lane's own buffered stores. -/
def execBarq (w : IW ModS) (s : State) : Out :=
  issue s (hd w) {
    sh := { na := 0, nb := 1 },
    uni := [(w.sb, 1)],
    wait := fun c => waitOwn c fun l => [(2, barAddr w c l, 16)],
    acc := some { cls := 0, spad := true, addr := barAddr w, len := 16 },
    body := fun c l =>
      match barCheck c (barAddr w c l) false false with
      | some v => { leave := some v }
      | none =>
        let b := barOf (leNat (bindBytes (lineCtx c (barAddr w c)) l .spad (spadKey c.q.clu (barAddr w c l)) 16))
        deferred (dstX w.dst (match w.mod.sub.toNat with
          | 0 => w32 b.phase
          | 1 => w32 b.arr
          | 2 => w32 b.exp
          | 3 => w32 b.pend
          | _ => wrap32 (toSigned 16 (nbits b.pend 47 32)))),
    after := fun c s => loadSees false .ln c (lineSees c (barAddr w c) s) }

/-! ### Launch instructions (R404 to R408) -/

def execFwk (w : IW ModS) (s : State) : Out :=
  issue s (hd w) {
    sh := { na := 0, nb := 1, nc := 1 },
    uni := [(w.sb, 1), (w.sc, 1)],
    body := fun c l =>
      let a := barAddr w c l
      let cap := (src c l w.sc).toNat
      match spadRange (batchOf c) a (Nat.max cap 1) with
      | some cause => trapLane 0x0D cause a
      | none => if a % 128 != 0 then trapLane 0x0A 0 a else {},
    sync := some fun c =>
      let l := firstLane c
      (0, .fwk (nbits w.imm.toNat 11 0) (barAddr w c l) (src c l w.sc).toNat) }

/-- Record size of a node of the issuing kernel's package (R404). -/
def nodeRecord (s : State) (b : Batch) (idx : Nat) : Nat :=
  ((findNode (getC s b.ctx) (b.node / 4096 * 4096 + idx)).map Node.record).getD 0

def execEmit (w : IW ModS) (s : State) : Out :=
  let node := nbits w.imm.toNat 11 0
  issue s (hd w) {
    sh := { na := 0, nb := 1 },
    body := fun c l =>
      let a := barAddr w c l
      match spadRange (batchOf c) a (nodeRecord c.s (batchOf c) node) with
      | some cause => trapLane 0x0D cause a
      | none =>
        if a % 16 != 0 then trapLane 0x0A 0 a
        else { effs := [{ lanes := laneBit l, eff := .emit a, off := c.r.off }] },
    sync := some fun _ => (0, .emit node) }

def sgnlAmount (w : IW ModS) (c : Ctx1) (l : Nat) : Nat := (src c l w.sa).toNat

def execSgnl (w : IW ModS) (s : State) : Out :=
  issue s (hd w) {
    sh := { na := slotUse w, nb := 2 },
    uni := [(w.sa, 1), (w.sb, 2)],
    wait := fun c => waitGlobal c (fun l => (src64 c l w.sb).toNat) 16 .atomic (lanesOf c.act),
    body := fun c l =>
      match globalAcc c (src64 c l w.sb).toNat 16 .atomic with
      | .leave v => { leave := some v }
      | _ => {},
    sync := some fun c =>
      let l := firstLane c
      match globalAcc c (src64 c l w.sb).toNat 16 .atomic with
      | .ok sp pa => (0, .sgnl sp pa (sgnlAmount w c l) (w.mod.sub = 1) w.mod.scope)
      | _ => (0, .none) }

def execPrio (w : IW ModS) (s : State) : Out :=
  issue s (hd w) {
    sh := { na := slotUse w },
    uni := [(w.sa, 1)],
    body := fun c _ => { pend := heldTo c w.dst 1 },
    once := some fun c => .prio (src c (firstLane c) w.sa) (dstTag c w.dst) }

/-! ### Rings (R411 to R415) and the governor (R416) -/

/-- Checks of a ring header at issue (R415): R253 orders 1 to 3 with 64-byte alignment, then CAUSE 0x6. -/
def ringCheck (c : Ctx1) (a : Nat) (kind : Option Bool) : Option LaneOut :=
  let b := batchOf c
  match spadRange b a 64 with
  | some cause => some (trapLane 0x0D cause a)
  | none =>
    if a % 64 != 0 then some (trapLane 0x0A 0 a)
    else
      let h := ringHdr c.s b a
      let wrong := match kind with | some k => h.byteRing != k | none => false
      if !h.v || h.bad || wrong then some (trapLane 0x0D 6 a) else none

/-- Footprint of a byte-ring record of L payload bytes (R412). -/
def byteFoot (len : Nat) : Nat := 16 * ((8 + len + 15) / 16)

def execRtkt (w : IW ModS) (s : State) : Out :=
  let byteRing := w.mod.sub = 1
  issue s (hd w) {
    sh := { na := if byteRing then slotUse w else 0, nb := 1 },
    uni := [(w.sb, 1)],
    wait := fun c => waitOwn c fun l => [(2, barAddr w c l, 64)],
    body := fun c l =>
      let a := barAddr w c l
      match ringCheck c a (some byteRing) with
      | some o => o
      | none =>
        let len := (src c l w.sa).toNat
        let h := ringHdr c.s (batchOf c) a
        if byteRing && (len = 0 || decide (h.cap / 2 < byteFoot len)) then trapLane 0x0D 7 a
        else
          { pend := heldTo c w.dst 1
            effs := [{ lanes := laneBit l, eff := .rtkt a byteRing len (dstTag c w.dst), off := c.r.off }] } }

/-- Records of a ring from a position to TKT: their cluster addresses and headers. A ticket that waits for room has written no header: its
footprint is its own. -/
def ringWalk (s : State) (b : Batch) (h : RingHdr) (waiting : List Ticket) : Nat → Nat → List (Nat × Nat)
  | 0, _ => []
  | n + 1, t =>
    if h.tkt ≤ t then []
    else
      match waiting.find? fun k => k.t = t with
      | some k => ringWalk s b h waiting n (t + Nat.max k.f 1)
      | none =>
        let a := recAddr b h t
        let e := recHead s b a
        (a, e) :: ringWalk s b h waiting n (t + recFoot h e)

/-- A ring whose header is at `hdr` has a record with its payload at an address, in a state. -/
def ringHas (s : State) (b : Batch) (btag : BTag) (hdr payload : Nat) (st : Nat) : Bool :=
  let h := ringHdr s b hdr
  (ringWalk s b h (s.tickets.filter fun k => k.btag = btag && k.hdr = hdr - b.spb) ringFuel h.ret).any fun e => e.1 = payload - 8 && recSt e.2 = st

def ringMark (w : IW ModS) (s : State) (pad : Bool) : Out :=
  issue s (hd w) {
    sh := { nb := 1 },
    uni := [(w.sb, 1)],
    wait := fun c => waitOwn c fun l => [(2, barAddr w c l, 64), (2, (src c l w.sa).toNat / 2 * 2 - 8, 8)],
    body := fun c l =>
      let a := barAddr w c l
      let x := (src c l w.sa).toNat
      let payload := if pad then x - 1 else x
      let b := batchOf c
      -- B, then A, then what the header and the record say
      match (spadRange b a 64).map (trapLane 0x0D · a) |>.or (if a % 64 != 0 then some (trapLane 0x0A 0 a) else none)
        |>.or ((spadRange b payload 8).map (trapLane 0x0D · x)) |>.or (ringCheck c a none) with
      | some o => o
      | none =>
          if (x % 2 = 1) != pad || !ringHas c.s b c.q.btag a payload (if pad then 3 else 1) then
            trapLane 0x0D 7 x
          else
            { effs := [{ lanes := laneBit l, eff := .rput a payload pad, ord := .rel, scope := .clu, off := c.r.off }] } }

def execRput (w : IW ModS) (s : State) : Out := ringMark w s false
def execRskp (w : IW ModS) (s : State) : Out := ringMark w s true

/-- QBND binds after commit, in each committing lane, to an offset from SPB (R415). -/
def execQbnd (w : IW ModS) (s : State) : Out :=
  let off := w.mod.sub = 1
  let n := nbits w.imm.toNat 1 0
  issue s (hd w) {
    sh := { na := 0, nb := if off then 0 else 1 },
    uni := if off then [] else [(w.sb, 1)],
    wait := fun c => waitOwn c fun l => if off then [] else [(2, barAddr w c l, 64)],
    body := fun c l =>
      let a := barAddr w c l
      let bind (v : Option Nat) : LaneOut :=
        { effs := [{ lanes := laneBit l, eff := .qbnd n v, off := c.r.off }] }
      if off then bind none
      else
        match ringCheck c a none with
        | some o => o
        | none => bind (some (a - (batchOf c).spb)) }

/-- The governor's table at an address lies in the batch's `spad` bytes with the stage bytes of its groups (R253, R416): the CAUSE that fails.
NGRP is read as the table stands. (DESIGN CHOICE, log 102.) -/
def govRange (c : Ctx1) (a : Nat) : Option Nat :=
  let b := { batchOf c with mbox := 0 }
  match spadRange b a 0x90 with
  | some cause => some cause
  | none => spadRange b a (0x90 + Nat.min 1024 (leNat (memRead c.s.spad (spadKey c.q.clu (a + 4)) 4)))

def execGovh (w : IW ModS) (s : State) : Out :=
  issue s (hd w) {
    sh := { na := 0, nb := if w.mod.sub = 0 then 1 else 0 },
    uni := if w.mod.sub = 0 then [(w.sb, 1)] else [],
    body := fun c l =>
      let a := barAddr w c l
      if w.mod.sub = 0 then
        match govRange c a with
        | some cause => trapLane 0x0D cause a
        | none => {}
      else {},
    once := some fun c => .govh w.mod.sub.toNat (barAddr w c (firstLane c)) }

/-! ### System registers (R153 to R158) -/

/-- No queue has been resident since reset. -/
def noneResident (s : State) : Bool := s.queues.all fun e => !e.2.resident && e.2.outSince = 0

/-- Queue number of the queue in a resident slot; an empty slot holds the reset value until the first queue is resident (R386).
(DEDUCED, log 4.) -/
def cpQueue (s : State) (l : Nat) : Word :=
  match s.queues.find? fun e => e.2.resident && e.2.slot = l with
  | some e => w32 e.1
  | none => if noneResident s then 0 else 0xFFFFFFFF#32

/-- CTXID of that queue's context (R386); 0 for an empty slot. (DEDUCED, log 4.) -/
def cpCtx (s : State) (l : Nat) : Word :=
  match s.queues.find? fun e => e.2.resident && e.2.slot = l with
  | some e => w32 e.2.ctx
  | none => 0

/-- LCSR (R491). -/
def lcsrOf (s : State) : Word :=
  w32 (s.mg.lcs % 4 + 4 * (s.mg.ports % 4) + (if s.mg.keys.isEmpty then 16 else 0) + (if s.mg.vtok.isSome then 32 else 0)
    + (if s.mg.chal.isSome then 64 else 0))

/-- Value of a special register in a lane (R102); the registers of the command processor and the management core are
those of `cpReg` and `mgReg`. -/
def srVal (c : Ctx1) (l n : Nat) (clk : DWord) : Word :=
  let q := c.q
  let b := batchOf c
  match n with
  | 0x000 => w32 l
  | 0x001 => w32 q.gnum
  | 0x002 => c.r.exm
  | 0x003 => w32 c.r.path
  | 0x004 => w32 c.r.tix
  | 0x005 => q.live
  | 0x008 => w32 (teamSlot q 0)
  | 0x009 => w32 (teamSlot q 1)
  | 0x00A => w32 (teamSlot q 2)
  | 0x00B => w32 (teamSlot q 3)
  | 0x010 => clk.setWidth 32
  | 0x011 => (sget 0 q.work.clk l).extractLsb' 32 32
  | 0x012 => w32 b.spb
  | 0x013 => w32 b.sps
  | 0x014 => w32 (b.spb + b.sps)
  | 0x015 => w32 (sget [] q.link l).length
  | 0x016 => w32 q.core
  | 0x017 => w32 q.clu
  | 0x018 => w32 q.trk
  | 0x100 => w32 l
  | 0x101 => cpQueue c.s l
  | 0x102 => cpCtx c.s l
  | 0x200 => c.s.mg.mcmd
  | 0x201 => lcsrOf c.s
  | n => if 0x20 ≤ n && n < 0x28 then (getCpb q (n - 0x20)).val else 0

/-- The CLOCK count that an instruction samples: once for all its acting lanes (R154). -/
def clockNow (s : State) (clu : Nat) : DWord := sget 0 s.clock clu

/-- RDSR. With `.u`, a per-lane register whose acting lanes differ raises Uniformity; CLOCKH, of form Uniform, raises none, and each lane takes
its own latch. (DESIGN CHOICE, log 96.) CLOCK sets each acting lane's latch,
a version of its own. -/
def execRdsr (w : IW ModS) (s : State) : Out :=
  let n := nbits w.imm.toNat 11 0
  issue s (hd w) {
    sh := { na := 0 },
    path := fun c =>
      let vs := (lanesOf c.act).map fun l => srVal c l n (clockNow c.s c.q.clu)
      if w.u && (n = 0x000 || n = 0x015 || n = 0x100 || n = 0x101 || n = 0x102) && !(vs.all fun v => v == vs.headD 0)
      then some { code := 4 } else none,
    body := fun c l => dstX w.dst (srVal c l n (clockNow c.s c.q.clu)),
    after := fun c s =>
      if n = 0x010 then
        updG s c.g fun q => { q with work := { q.work with
          clk := (lanesOf c.act).foldl (fun m l => sset 0 m l (clockNow c.s c.q.clu)) q.work.clk } }
      else s }

/-- WRSR lands once for the path at commit, if an acting lane commits (R155). -/
def execWrsr (w : IW ModS) (s : State) : Out :=
  let n := nbits w.imm.toNat 11 0
  issue s (hd w) {
    uni := [(w.sa, 1)],
    body := fun _ _ => {},
    once := some fun c => .wrsr (n - 0x20) (src c (firstLane c) w.sa) }

/-- TIME samples the device time base, which has moved on by an amount the manual leaves open (R156). (DESIGN CHOICE, log 13.) -/
def execTime (w : IW ModS) (s : State) : Out :=
  issue (timeNow s) (hd w) {
    sh := { na := 0 },
    body := fun c _ => dst64 w.dst c.s.time }

/-- DESIGN CHOICE, log 13. -/
def execPerf (w : IW ModS) (s : State) : Out :=
  issue s (hd w) {
    sh := { na := 0 },
    body := fun c _ => dstX w.dst (sget 0 c.q.perf (nbits w.imm.toNat 7 0)) }

end Sys2Proof.Machine
end

