-- ==== Sys2Proof/Machine/Barrier.lean ====
section
/-! DEFINITION. Barrier objects after issue: the open test, the release of waiting lanes, and arrival (R270 to R275). -/
namespace Sys2Proof.Machine
open Sys2Proof Sys2Proof.Checks

/-- A path whose lanes wait for a synchronising effect, held or not (R79, R450). -/
def waitsSync (p : Path) : Bool := p.state = .syncWait || (p.state = .held && p.ust = .syncWait)

/-- The lanes of a waiting path become ready at the path's index; a held path stays held. -/
def wakePath (q : Group) (i : Nat) : Group :=
  makeReady q i (getP q i).tix

/-- Wake the lanes that wait for the synchronising effect of one trace. (DEDUCED, log 39.) -/
def wakeTrace (s : State) (g : GKey) (tno : Nat) : State :=
  ((List.range 32).filter fun i => waitsSync (getP (getG s g) i) && (getP (getG s g) i).tno = tno).foldl
    (fun s i => updG s g fun q => wakePath q i) s

/-- Every effect of a group up to and including a trace is performed. (DEDUCED, log 40.) -/
def effectsDone (s : State) (g : GKey) (tno : Nat) : Bool := !(s.flight.any fun f => f.g = g && decide (f.tno ≤ tno))

/-- Indices of the paths of a group whose waiting effect `f` picks. -/
def waitingPaths (q : Group) (f : Sync → Bool) : List Nat :=
  (List.range 32).filter fun i => waitsSync (getP q i) && f (getP q i).sync

/-- Wake the lanes of a path; the event that they waited for has carried every write that it orders (R65). -/
def wakeSeen (s : State) (g : GKey) (i : Nat) : State := updG (viewClear s g (getP (getG s g) i).mask) g fun q => wakePath q i

/-- Some effect of a group is on its way. -/
def effectsOwed (s : State) (g : GKey) : Bool := s.flight.any fun f => f.g = g

/-- Release the lanes of one group that wait for a change of a barrier's phase, once the group's own effects are performed (R273, R274,
R278). (DEDUCED, log 40.) -/
def barWakeGroup (s : State) (g : GKey) (a phase : Nat) : State :=
  if effectsOwed s g then s
  else
    let ps := waitingPaths (getG s g) fun y => match y with | .barWait a' tok _ => a' = a && tok != phase | _ => false
    ps.foldl (fun s i =>
      let p := getP (getG s g) i
      let s := match p.sync with
        | .barWait _ tok (some d) => deliverAll s g p.mask d (w32 tok)
        | _ => s
      wakeSeen s g i) s

/-- Resident groups of a cluster. -/
def groupsOf (s : State) (clu : Nat) : List GKey := (s.groups.filter fun e => e.2.res && e.2.clu = clu).map Prod.fst

def barWake (s : State) (clu a : Nat) : State :=
  (groupsOf s clu).foldl (fun s g => barWakeGroup s g a (readBar s clu a).phase) s

/-- Arrivals that open the object (R273). -/
def barNeed (s : State) (clu : Nat) (b : Bar) : Nat := if b.exp = 0 then (getT s (tkey clu b.tmx)).nlive else b.exp

/-- The open test of R273. -/
def barTest (s : State) (clu a : Nat) : State :=
  let b := readBar s clu a
  if b.v && b.pend = 0 && decide (barNeed s clu b ≤ b.arr) then
    barWake (writeBar s clu a { b with phase := (b.phase + 1) % 65536, arr := 0 }) clu a
  else s

/-- PEND changes by an amount modulo 2^48, and the test is made again (R275). -/
def barPend (s : State) (clu a : Nat) (d : Int) : State :=
  let b := readBar s clu a
  barTest (writeBar s clu a { b with pend := ofSigned 48 ((b.pend : Int) + d) }) clu a

/-- The open tests that a change of a team's NLIVE asks for (R273): every object in use that names the team. (DEDUCED, log 92.) -/
def barTeam (s : State) (clu tmx : Nat) : State :=
  s.bars.foldl (fun s k =>
    if k / 2 ^ 26 = clu && (readBar s clu (k % 2 ^ 26)).tmx = tmx then barTest s clu (k % 2 ^ 26) else s) s

/-- The waits of a group on an object that BARI writes go on as though their token were 0 (R272). -/
def forgetToken (q : Group) (a : Nat) : Group :=
  (waitingPaths q fun y => match y with | .barWait a' _ _ => a' = a | _ => false).foldl (fun q i =>
    let p := getP q i
    setP q i { p with sync := match p.sync with | .barWait a' _ d => .barWait a' 0 d | y => y }) q

/-- Change the groups that partial eviction has taken from batches of a cluster (R290). -/
def savedGroups (s : State) (clu : Nat) (f : Group → Group) : State :=
  { s with saved := s.saved.map fun x => if x.batch.isNone && (getB s x.btag).clu = clu then { x with groups := x.groups.map f } else x }

/-- Lanes that wait on an object that BARI writes, in resident and in evicted groups (R272, R290). -/
def barForget (s : State) (clu a : Nat) : State :=
  savedGroups ((groupsOf s clu).foldl (fun s g => updG s g fun q => forgetToken q a) s) clu fun q => forgetToken q a

/-- An object that a barrier instruction has acted on, or on which lanes wait, is known to its bank. -/
def barKnown (s : State) (clu a : Nat) : State :=
  if s.bars.contains (spadKey clu a) then s else { s with bars := s.bars ++ [spadKey clu a] }

/-- BARI (R272): the object's new value, with a fresh phase 0. -/
def barInit (s : State) (clu a tmx exp : Nat) : State :=
  barKnown (writeBar (barForget s clu a) clu a { phase := 0, exp := exp, arr := 0, tmx := tmx, v := true, rsv := 0, pend := 0 }) clu a

/-- The object at which a path's lanes arrive. -/
def arriveAddr : Sync → Option Nat
  | .barArrive a _ _ => some a
  | _ => none

/-- Every live lane of the group waits on an arrival at one object, and every earlier effect of the group is performed
(R66, R273). -/
def arrivalAt (s : State) (g : GKey) : Option Nat :=
  let q := getG s g
  let ps := waitingPaths q fun y => (arriveAddr y).isSome
  match ps with
  | [] => none
  | i :: _ =>
    match arriveAddr (getP q i).sync with
    | none => none
    | some a =>
      let m := (ps.filter fun j => arriveAddr (getP q j).sync = some a).foldl (fun m j => m ||| (getP q j).mask) (0 : Mask)
      if m = q.live && !effectsOwed s g then some a else none

/-- The group arrives (R273). (DEDUCED, log 40.) -/
def barArrive (s : State) (g : GKey) : State :=
  match arrivalAt s g with
  | none => s
  | some a =>
    let q := getG s g
    let b := readBar s q.clu a
    let tok := b.phase
    let ps := waitingPaths q fun y => arriveAddr y = some a
    let s := ps.foldl (fun s i =>
      let p := getP (getG s g) i
      match p.sync with
      | .barArrive _ d true => updG s g fun q => setP q i { p with sync := .barWait a tok (some d) }
      | .barArrive _ d false => updG (deliverAll s g p.mask d (w32 tok)) g fun q => wakePath q i
      | _ => s) s
    barTest (writeBar s q.clu a { b with arr := b.arr + 1 }) q.clu a

/-- A wait whose token the phase differs from already ends once the group's earlier effects are performed (R274). (DEDUCED, log 40.) -/
def barSettle (s : State) (g : GKey) : State :=
  (waitingPaths (getG s g) fun y => match y with | .barWait .. => true | _ => false).foldl (fun s i =>
    match (getP (getG s g) i).sync with
    | .barWait a _ _ => barWakeGroup s g a (readBar s (getG s g).clu a).phase
    | _ => s) s

end Sys2Proof.Machine
end

