-- ==== Sys2Proof/Machine/Copy.lean ====
section
/-! DEFINITION. The copy engine: handles, descriptors, the copy instructions at issue, the landing of lines and rows,
cancelling, shadows and publishing (R292 to R320). -/
namespace Sys2Proof.Machine
open Sys2Proof Sys2Proof.Checks

/-! ### Handles (R295 to R298) -/

/-- A handle-table entry (R296). `psz` is the code of the page size. -/
structure HEntry where
  vbase : Nat
  psz : Nat
  len : Nat
  gen : Nat
  v : Bool
  w : Bool
  rd : Bool
  shd : Bool
  plist : Nat
  sst : Nat
  sbuf : Nat
  bad : Bool
  deriving DecidableEq, Repr

def hIdx (h : Nat) : Nat := h % 2 ^ 20
def hGen (h : Nat) : Nat := nbits h 31 20
/-- Bytes of a page of the codes of R296. -/
def pszBytes (c : Nat) : Nat := match c with | 0 => 0x4000 | 1 => 0x200000 | _ => 0x40000000

/-- The entry of a handle (R296), at a physical address. (DEDUCED, logs 26 and 84.) -/
def hRead (s : State) (ctx idx : Nat) : Nat := leNat (memRead s.dmem ((getC s ctx).htab + 32 * idx) 32)

/-- DEDUCED, log 26. -/
def hEntry (s : State) (ctx idx : Nat) : HEntry :=
  let e := hRead s ctx idx
  { vbase := nbits e 255 199, psz := nbits e 198 196, len := nbits e 191 144, gen := nbits e 143 132, v := e.testBit 131
    w := e.testBit 130, rd := e.testBit 129, shd := e.testBit 128, plist := nbits e 127 64, sst := nbits e 21 20
    sbuf := nbits e 19 0, bad := nbits e 195 192 != 0 || nbits e 63 22 != 0 || decide (2 < nbits e 198 196) }

/-- Replace a field of an entry. -/
def hPut (s : State) (ctx idx lo n v : Nat) : State :=
  { s with dmem := memWrite s.dmem ((getC s ctx).htab + 32 * idx) (leBytes 32 (setField (hRead s ctx idx) lo n v)) }

def HEntry.pages (e : HEntry) : Nat := (e.vbase % pszBytes e.psz + e.len + pszBytes e.psz - 1) / pszBytes e.psz

/-- The pages of the range that an offset and length touch. -/
def HEntry.touched (e : HEntry) (iv : Nat × Nat) : List Nat :=
  let o := e.vbase % pszBytes e.psz + iv.1
  let p0 := o / pszBytes e.psz
  let p1 := Nat.min ((o + iv.2 - 1) / pszBytes e.psz + 1) e.pages
  (List.range (p1 - p0)).map fun i => p0 + i

/-- The space and address that an entry of a page list names (R483): bits 63:62 tell host memory from device memory. -/
def pageSpace (raw : Nat) : Space × Nat := if nbits raw 63 62 = 1 then (.host, nbits raw 56 14 * 0x4000) else (.dev, raw)

/-- An entry of a range's page list (R296, R483). (DEDUCED, log 26.) -/
def plistAt (s : State) (plist i : Nat) : Nat := leNat (memRead s.dmem (plist + 8 * i) 8)

/-- The entry names a page of a peer's receive window (R487). -/
def isPeer (raw : Nat) : Bool := nbits raw 63 62 = 2

/-- The code-page set (R129): 16 KiB pages of the packages of every bound context. -/
def codePage (s : State) (raw size : Nat) : Bool :=
  let pa := (pageSpace raw).2
  (pageSpace raw).1 == .dev && s.ctxs.any fun e => e.2.bound && e.2.pkgs.any fun p => p.pages.any fun a => decide (pa < a + 0x4000) && decide (a < pa + size)

/-- What a use of a handle needs (R297). -/
structure HUse where
  rd : Bool := false
  wr : Bool := false
  ivs : List (Nat × Nat) := []
  descBad : Bool := false
  mustShadow : Bool := false
  deriving DecidableEq, Repr

/-- An open shadow (R296). -/
def HEntry.isOpen (e : HEntry) : Bool := e.shd && (e.sst = 1 || e.sst = 2)

/-- The CAUSE of Copy-Handle that a handle fails with, in order (R297). -/
def hCheck (s : State) (ctx h : Nat) (u : HUse) : Option Nat :=
  let e := hEntry s ctx (hIdx h)
  if (getC s ctx).nh ≤ hIdx h || !e.v || e.bad then some 0
  else if hGen h = 0 || hGen h != e.gen then some 1
  else if (u.rd && !e.rd) || (u.wr && !e.w) then some 2
  else if u.rd && !e.shd && (u.ivs.any fun iv => (e.touched iv).any fun p => isPeer (plistAt s e.plist p)) then some 2
  else if u.wr && !e.shd && (u.ivs.any fun iv => (e.touched iv).any fun p => codePage s (plistAt s e.plist p) (pszBytes e.psz)) then some 2
  else if u.ivs.any fun iv => decide (e.len < iv.1 + iv.2) then some 3
  else if u.descBad then some 4
  else if (e.shd || u.mustShadow) && !e.isOpen then some 5
  else none

/-- Fill in what a copy keeps of its handle (R298). -/
def CopyReq.bind (c : CopyReq) (s : State) (ctx h : Nat) (ivs : List (Nat × Nat)) : CopyReq :=
  let e := hEntry s ctx (hIdx h)
  let ps := ((ivs.map e.touched).flatten).eraseDups
  { c with handle := some h, shadow := e.shd, vbase := e.vbase, psize := pszBytes e.psz, ofs := e.vbase % pszBytes e.psz
           pages := ps.map fun p => (p, plistAt s e.plist p) }

/-! ### Tile descriptors and segments (R299 to R301) -/

def dKind (d : Nat) : Nat := nbits d 74 73
def dRows (d : Nat) : Nat := nbits d 79 75 + 1
def dPitch (d : Nat) : Nat := nbits d 95 80 * 16
def gPitch (d : Nat) : Nat := nbits d 127 96
def gOff (d : Nat) : Nat := nbits d 47 0
/-- Elements of a row, code bytes of a block, scale bytes of a row. -/
def kElems (k : Nat) : Nat := match k with | 0 => 128 | 1 => 64 | _ => 256
def kBlock (k : Nat) : Nat := match k with | 0 => 32 | 1 => 64 | _ => 16
def kScales (k : Nat) : Nat := match k with | 0 => 4 | 1 => 2 | _ => 8
def kWidth (k : Nat) : Nat := match k with | 0 => 1 | _ => 2
/-- Scale bytes that a row of a format carries. -/
def fmtScales (fmt k : Nat) : Nat := if fmt = 1 || fmt = 2 then kScales k else 0

/-- The descriptor breaks R301. -/
def descBad (fmt d : Nat) : Bool :=
  dKind d = 3 || nbits d 72 48 != 0 || decide (nbits d 95 80 < if fmt = 1 || fmt = 2 then 9 else 8) ||
    (match fmt with
      | 0 => decide (gPitch d < 128)
      | 1 => decide (gPitch d < 128)
      | 2 => decide (gPitch d < 128 + kScales (dKind d))
      | _ => dKind d = 2 || decide (gPitch d < dRows d * kWidth (dKind d)))

/-- The pieces of row r: offset in the range, offset from the tile's address, bytes (R299, R301). -/
def tileSegs (fmt d r : Nat) : List (Nat × Nat × Nat) :=
  let k := dKind d
  let row := gOff d + r * gPitch d
  let sp := r * dPitch d
  match fmt with
  | 0 => [(row, sp, 128)]
  | 1 => [(row, sp, 128), (gOff d + dRows d * gPitch d + r * kScales k, sp + 128, kScales k)]
  | 2 => ((List.range (kScales k)).map fun b =>
      [(row + b * (kBlock k + 1), sp + b * kBlock k, kBlock k), (row + b * (kBlock k + 1) + kBlock k, sp + 128 + b, 1)]).flatten
  | _ => (List.range (kElems k)).map fun c => (gOff d + c * gPitch d + r * kWidth k, sp + c * kWidth k, kWidth k)

/-- Pieces of a copy: of a lane copy, or of one row of a tile. -/
def CopyReq.segs (c : CopyReq) (r : Nat) : List (Nat × Nat × Nat) :=
  match c.kind with
  | .cpt | .cpo => (tileSegs c.fmt c.desc r).map fun e => (e.1, c.saddr + e.2.1, e.2.2)
  | _ => [(c.goff, c.saddr, c.len)]

def CopyReq.isTile (c : CopyReq) : Bool := match c.kind with | .cpt | .cpo => true | _ => false
/-- The copy writes the scratchpad. -/
def CopyReq.toSpad (c : CopyReq) : Bool := match c.kind with | .cpl | .cpt => true | _ => false
/-- The copy writes global memory. -/
def CopyReq.toGlobal (c : CopyReq) : Bool := match c.kind with | .cplg | .cpo => true | _ => false

/-! ### Checks of scratchpad operands (R315) -/

def touchesDual (b : Batch) (off n : Nat) : Bool :=
  b.regions.any fun e => rgnEn e.2 && rgnDual e.2 && decide (rgnBase e.2 * 128 < off + n)
    && decide (off < (rgnBase e.2 + rgnSize e.2) * 128)

/-- The check of Copy-Bounds with a CAUSE fails for the bytes a, ..., a + n − 1. -/
def boundsFails (b : Batch) (a n : Nat) (dest : Bool) (cause : Nat) : Bool :=
  let inside := b.spb ≤ a && decide (a + n ≤ b.spb + b.sps)
  match cause with
  | 0 => 192 ≤ nbits a 25 18 || 0x30000 ≤ nbits a 17 0 || 2 ^ 26 ≤ a || (dest && !inside)
  | 1 => dest && touchesDual b (a - b.spb) n
  | _ => !dest && !inside

/-- CAUSE of Copy-Bounds for the bytes a, ..., a + n − 1: the first check that fails. -/
def boundsCheck (b : Batch) (a n : Nat) (dest : Bool) : Option Nat := [0, 1, 2].find? (boundsFails b a n dest)

/-- The counted barrier: orders 1 to 3 and 8 of R253. -/
def countedBar (c : Ctx1) (a : Nat) : Option Leave :=
  match spadCheck c a 16 16 .read with
  | some v => some v
  | none =>
    let b := readBar c.s c.q.clu a
    if !b.v || b.rsv != 0 || decide (1024 < b.exp) then some (trapOf 0x0D 2 a) else none

/-! ### The copy instructions at issue (R302 to R310) -/

/-- DEDUCED, log 50. -/
def copyLeave (code cause addr : Nat) : Except Leave CopyReq := .error (trapOf code cause addr)

/-- The first check that fails, in order; the copy where none does. -/
def firstOf (r : CopyReq) : List (Option Leave) → Except Leave CopyReq
  | [] => .ok r
  | some v :: _ => .error v
  | none :: ls => firstOf r ls

/-- A lane's handle and the bytes of its range. -/
def handleLeave (c : Ctx1) (h : Nat) (u : HUse) : Option Leave := (hCheck c.s c.q.ctx h u).map fun k => trapOf 0x10 k h

/-- An address or offset that is not a multiple of n. -/
def alignLeave (x n va : Nat) : Option Leave := if x % n != 0 then some (trapOf 0x0A 0 va) else none

/-- One lane of CPL or CPLG, its checks in the order of R303. (DEDUCED, log 50.) -/
def laneCopy (c : Ctx1) (kind : CopyKind) (l n : Nat) (sAddr h goff : Nat) (bar : Option Nat) : Except Leave CopyReq :=
  let wr := kind == .cplg
  let r : CopyReq := { kind := kind, lane := l, saddr := sAddr, goff := goff, len := n, bar := bar }
  firstOf (r.bind c.s c.q.ctx h [(goff, n)]) [
    bar.bind (countedBar c), handleLeave c h { rd := !wr, wr := wr, ivs := [(goff, n)] },
    alignLeave sAddr n sAddr, alignLeave goff n ((hEntry c.s c.q.ctx (hIdx h)).vbase + goff),
    (boundsCheck (batchOf c) sAddr n (kind == .cpl)).map fun k => trapOf 0x11 k sAddr]

/-- One lane of CPX from the scratchpad: its address as an LDSN's (R253, R305). -/
def spadCpx (c : Ctx1) (l n sAddr dst : Nat) : Except Leave CopyReq :=
  firstOf { kind := .cpx, lane := l, saddr := sAddr, len := n, dst := dst } [
    (spadRange (batchOf c) sAddr n).map fun k => trapOf 0x0D k sAddr, alignLeave sAddr n sAddr]

/-- One lane of CPX through a handle: alignment, then the handle (R305). -/
def globalCpx (c : Ctx1) (l n h goff dst : Nat) : Except Leave CopyReq :=
  let r : CopyReq := { kind := .cpx, lane := l, goff := goff, len := n, dst := dst }
  firstOf (r.bind c.s c.q.ctx h [(goff, n)]) [
    alignLeave goff n ((hEntry c.s c.q.ctx (hIdx h)).vbase + goff), handleLeave c h { rd := true, ivs := [(goff, n)] }]

def copyOut (c : Ctx1) (l : Nat) (r : Except Leave CopyReq) : LaneOut :=
  match r with
  | .error v => { leave := some v }
  | .ok r => { effs := [{ lanes := laneBit l, eff := .copy r, off := c.r.off }] }

/-- Offset of a lane's access in the range: IMM + zext(O, 32) (R303). -/
def laneOff (c : Ctx1) (l : Nat) (o : Opnd) : Nat := nbits c.h.imm.toNat 47 0 + (src c l o).toNat

def barOpnd (w : IW ModC) (c : Ctx1) (l : Nat) : Option Nat := if w.mod.bcnt then some (src c l w.sc).toNat else none

/-- The object of a counted barrier, which the checks read. -/
def barPlace (w : IW ModC) (c : Ctx1) (l : Nat) : List (Nat × Nat × Nat) := match barOpnd w c l with | some a => [(2, a, 16)] | none => []

def execLaneCopy (w : IW ModC) (kind : CopyKind) (s : State) : Out :=
  let n := 4 * 2 ^ w.mod.sub.toNat
  issue s (hd w) {
    sh := { nb := 1, nc := if w.mod.bcnt then 1 else 0, nd := 1 },
    uni := (w.sa, 1) :: (if w.mod.bcnt then [(w.sc, 1)] else []),
    wait := fun c => waitOwn c (barPlace w c),
    body := fun c l =>
      copyOut c l (laneCopy c kind l n (src c l w.dst).toNat (src c l w.sa).toNat (laneOff c l w.sb) (barOpnd w c l)) }

def execCpl (w : IW ModC) (s : State) : Out := execLaneCopy w .cpl s
def execCplg (w : IW ModC) (s : State) : Out := execLaneCopy w .cplg s

/-- CPX (R305). -/
def execCpx (w : IW ModC) (s : State) : Out :=
  let n := 4 * 2 ^ nbits w.mod.sub.toNat 1 0
  let global := w.mod.sub.getLsbD 2
  let masked := w.mod.sub.getLsbD 3
  issue s (hd w) {
    sh := { nb := if global then 1 else 0, nc := if masked then 1 else 0 },
    uni := (if global then [(w.sa, 1)] else []) ++ (if masked then [(w.sc, 1)] else []),
    body := fun c l =>
      if masked && !(src c l w.sc).getLsbD l then {}
      else
        let v := (src c l w.sa).toNat
        let r := if global then globalCpx c l n v (laneOff c l w.sb) (dstTag c w.dst) else spadCpx c l n v (dstTag c w.dst)
        match r with
        | .error _ => copyOut c l r
        | .ok _ => { copyOut c l r with pend := scored c w.dst (n / 4) } }

/-- The descriptor of a lane. -/
def descOf (w : IW ModC) (c : Ctx1) (l : Nat) : Nat :=
  ((srcN c l w.sb 4).zip [0, 32, 64, 96]).foldl (fun n e => n + fieldAt e.2 32 e.1.toNat) 0

/-- A tile copy of a lane, as it is checked (R306). An invalid descriptor is CAUSE 0x4, and neither its code pages nor its length are tested.
(DESIGN CHOICE, log 108.) -/
def tileCopy (w : IW ModC) (c : Ctx1) (kind : CopyKind) (l : Nat) : Except Leave CopyReq :=
  let b := batchOf c
  let fmt := w.mod.sub.toNat
  let d := descOf w c l
  let a := (src c l w.dst).toNat
  let h := (src c l w.sa).toNat
  let dBad := descBad fmt d
  let ivs := if dBad then [] else ((List.range (dRows d)).map fun r => (tileSegs fmt d r).map fun e => (e.1, e.2.2)).flatten
  match hCheck c.s c.q.ctx h { rd := kind == .cpt, wr := kind == .cpo, ivs := ivs, descBad := dBad } with
  | some cause => copyLeave 0x10 cause h
  | none =>
    if a % 16 != 0 then copyLeave 0x0A 0 a
    else
      let rows := (List.range (dRows d)).map fun r => a + r * dPitch d
      let n := 128 + fmtScales fmt (dKind d)
      match [0, 1, 2].find? fun k => rows.any fun x => boundsFails b x n (kind == .cpt) k with
      | some cause => copyLeave 0x11 cause a
      | none =>
        match (barOpnd w c l).bind (countedBar c) with
        | some v => .error v
        | none =>
          let r : CopyReq := { kind := kind, saddr := a, desc := d, fmt := fmt, slot := w.mod.slot.val, bar := barOpnd w c l }
          .ok (r.bind c.s c.q.ctx h ivs)

def execTileCopy (w : IW ModC) (kind : CopyKind) (s : State) : Out :=
  let slot := w.mod.slot.val
  issue s (hd w) {
    sh := { nb := 4, nc := if w.mod.bcnt then 1 else 0, nd := 1 },
    uni := [(w.dst, 1), (w.sa, 1), (w.sb, 4)] ++ (if w.mod.bcnt then [(w.sc, 1)] else []),
    wait := fun c => waitOwn c (barPlace w c),
    path := fun c =>
      match tileCopy w c kind (firstLane c) with
      | .ok _ => slotTrap c slot
      | .error _ => none,
    body := fun c l => match tileCopy w c kind l with | .error v => { leave := some v } | .ok _ => {},
    once := some fun c =>
      match tileCopy w c kind (firstLane c) with
      | .ok r => .copy r
      | .error _ => .cpc 8,
    after := fun c s =>
      if c.act = 0 then s
      else updG s c.g fun q => { q with run := q.run.map fun r => { r with slots := slot :: r.slots } } }

def execCpt (w : IW ModC) (s : State) : Out := execTileCopy w .cpt s
def execCpo (w : IW ModC) (s : State) : Out := execTileCopy w .cpo s

/-- CPC cancels after commit (R308). -/
def execCpc (w : IW ModC) (s : State) : Out :=
  issue s (hd w) { sh := { na := 0 }, body := fun _ _ => {}, once := some fun _ => .cpc w.mod.slot.val }

/-- CPBS: D is scoreboarded from issue (R309). -/
def execCpbs (w : IW ModC) (s : State) : Out :=
  issue s (hd w) {
    sh := { na := 0 },
    body := fun c _ => { pend := scored c w.dst 1 },
    once := some fun c => .cpbs w.mod.slot.val (dstTag c w.dst) }

/-- The cluster of a job's engine, and the group that it answers. -/
def Job.clu (j : Job) : Nat := j.core / 192
def Job.group (s : State) (j : Job) : Group := getOwn s j.g j.btag j.gnum
def Job.upd (s : State) (j : Job) (f : Group → Group) : State := updOwn s j.g j.btag j.gnum f

/-- Entries of a core's copy engine (R293). -/
def copyQueue : Nat := 256

/-- The engine that takes a copy: of the core that holds its scratchpad operand, for CPX of the issuing core (R292). -/
def CopyReq.engine (c : CopyReq) (q : Group) : CKey := match c.kind with | .cpx => q.clu * 192 + q.core | _ => q.clu * 192 + nbits c.saddr 25 18

/-- The entry of a job's instruction, which the lane copies of that instruction share (R293). -/
def sameIssue (j : Job) (g : GKey) (r : Run) (b : Buffered) (c : CopyReq) (q : Group) : Bool :=
  j.g = g && j.tno = r.tno && j.cpbs.isNone && j.off = b.off && j.core = c.engine q && !c.isTile

/-- Entries of a core's engine that are occupied: copies and CPBS, SHOP and CPC on their way, PUBs that wait (R292, R293). A CPBS takes one of the
issuing core's. (DESIGN CHOICE, log 108.) -/
def copyUsed (s : State) (core : CKey) : Nat :=
  (s.jobs.filter fun j => j.core = core).length
    + (s.flight.filter fun f => f.g / 128 = core && (match f.eff with | .shop .. => true | .cpc _ => true | _ => false)).length
    + (s.pubWaits.filter fun p => p.g / 128 = core).length

/-- The rime pool (R296): the entries of its list, and the list written back, at a physical address. (DEDUCED, log 84.) -/
def poolRead (s : State) (ctx : Nat) : List Nat :=
  let base := (getC s ctx).rime
  let n := leNat (memRead s.dmem base 8)
  (List.range n).map fun i => leNat (memRead s.dmem (base + 8 + 8 * i) 8)

def poolWrite (s : State) (ctx : Nat) (es : List Nat) : State :=
  { s with dmem := memWrite s.dmem (getC s ctx).rime (leBytes 8 es.length ++ (es.map (leBytes 8)).flatten) }

def poolSize (e : Nat) : Nat := nbits e 1 0
def poolPage (e : Nat) : Nat := nbits e 56 14 * 0x4000
def poolEntry (pa size : Nat) : Nat := fieldAt 14 43 (pa / 0x4000) + size

/-- CPQ (R310). -/
def execCpq (w : IW ModC) (s : State) : Out :=
  let sub := w.mod.sub.toNat
  issue s (hd w) {
    sh := { na := if sub = 1 then 1 else 0 },
    uni := if sub = 1 then [(w.sa, 1)] else [],
    wait := fun c => if cpbsOwed c.s c.g c.act then some c.s else waitOwn c fun _ => [],
    body := fun c l =>
      match sub with
      | 0 => deferred (dstX w.dst (w32 (copyUsed c.s (c.q.clu * 192 + c.q.core))))
      | 1 =>
        let h := (src c l w.sa).toNat
        match hCheck c.s c.q.ctx h {} with
        | some 0 => trapLane 0x10 0 h
        | some 1 => trapLane 0x10 1 h
        | _ =>
          let e := hEntry c.s c.q.ctx (hIdx h)
          deferred (dstX w.dst (w32 (if e.shd then e.sst else 0)))
      | k => deferred (dstX w.dst (w32 (Nat.min 0xFFFFFFFF
          ((poolRead c.s c.q.ctx).filter fun e => poolSize e = k - 2).length))) }

/-- A shadow whose publish has begun (R313). -/
def HEntry.closing (e : HEntry) : Bool := e.shd && e.sst = 3

/-- SHOP: checked for causes 0 and 1, or for all of them when it closes (R312); one that names a shadow whose publish has begun traps with cause 5
(R313). (DEDUCED, log 48.) -/
def execShop (w : IW ModC) (s : State) : Out :=
  let close := w.mod.sub = 2
  issue s (hd w) {
    uni := [(w.sa, 1)],
    body := fun c l =>
      let h := (src c l w.sa).toNat
      match hCheck c.s c.q.ctx h { mustShadow := close } with
      | some cause =>
        if close || cause ≤ 1 then trapLane 0x10 cause h
        else if (hEntry c.s c.q.ctx (hIdx h)).closing then trapLane 0x10 5 h
        else { pend := heldTo c w.dst 1 }
      | none => { pend := heldTo c w.dst 1 },
    once := some fun c => .shop (src c (firstLane c) w.sa).toNat w.mod.sub.toNat (dstTag c w.dst) }

/-- PUB: the handle is an open shadow (R313). -/
def execPub (w : IW ModC) (s : State) : Out :=
  issue s (hd w) {
    uni := [(w.sa, 1)],
    body := fun c l =>
      let h := (src c l w.sa).toNat
      match hCheck c.s c.q.ctx h { mustShadow := true } with
      | some cause => trapLane 0x10 cause h
      | none => {},
    sync := some fun c => (0, .pub (src c (firstLane c) w.sa).toNat) }

/-! ### Whole pages -/

/-- Copy n bytes of a memory to a place in another. -/
def memCopy (a : Memory) (src : Nat) (m : Memory) (dst n : Nat) : Memory :=
  let moved := (a.filter fun e => decide (src ≤ e.1) && decide (e.1 < src + n)).map fun e => (e.1 - src + dst, e.2)
  smerge 0 (fun k => decide (dst ≤ k) && decide (k < dst + n)) moved m

/-- Zero n bytes of a memory. -/
def memZero (m : Memory) (a n : Nat) : Memory := m.filter fun e => !(decide (a ≤ e.1) && decide (e.1 < a + n))

/-! ### Shadows (R311) -/

def shadowOf (c : Ctx) (idx : Nat) : Option Shadow := c.shadows.find? fun x => x.idx = idx
def setShadow (s : State) (ctx : Nat) (x : Shadow) : State :=
  updC s ctx fun c => { c with shadows := c.shadows.map fun y => if y.idx = x.idx then x else y }

/-- Physical address of the buffer's page as it stands, through the entry that SBUF names. -/
def bufferPage (s : State) (ctx : Nat) (e : HEntry) (p : Nat) : Nat := plistAt s (hEntry s ctx e.sbuf).plist p

/-- A byte of a page that a page list names. -/
def pageByte (raw k : Nat) : Space × Nat := ((pageSpace raw).1, (pageSpace raw).2 + k)

/-- Where a byte of a range stands for a copy's read: a memory, or nothing but zeros. -/
def copySource (s : State) (ctx : Nat) (c : CopyReq) (off : Nat) : Option (Space × Nat) :=
  let o := c.ofs + off
  let p := o / c.psize
  if !c.shadow then some (pageByte (sget 0 c.pages p) (o % c.psize))
  else
    let idx := hIdx (c.handle.getD 0)
    let e := hEntry s ctx idx
    match shadowOf (getC s ctx) idx with
    | none => none
    | some x =>
      if x.written.contains p then some (.dev, x.rime.getD p 0 + o % c.psize)
      else if x.clear then none
      else some (pageByte (bufferPage s ctx e p) (o % c.psize))

/-- The first write of a page through a shadow fills its rime page (R311). -/
def fillRime (s : State) (ctx idx p : Nat) : State :=
  match shadowOf (getC s ctx) idx with
  | none => s
  | some x =>
    if x.written.contains p then s
    else
      let e := hEntry s ctx idx
      let dest := x.rime.getD p 0
      let n := pszBytes e.psz
      let from_ := pageSpace (bufferPage s ctx e p)
      let m := if x.clear then memZero s.dmem dest n
        else memCopy (if from_.1 = .host then s.hmem else s.dmem) from_.2 s.dmem dest n
      let s := if x.clear then s else readSpan s ctx from_.1 from_.2 n
      setShadow (writeSpan { s with dmem := m } .dev dest n) ctx { x with written := p :: x.written }

/-- Write bytes of a range (R311). A shadow that is gone takes nothing. -/
def copyPut (s : State) (ctx : Nat) (c : CopyReq) (off : Nat) : List Byte → State
  | [] => s
  | v :: r =>
    let o := c.ofs + off
    let p := o / c.psize
    if !c.shadow then
      let a := pageByte (sget 0 c.pages p) (o % c.psize)
      copyPut (spaceWrite s a.1 a.2 [v]) ctx c (off + 1) r
    else
      let idx := hIdx (c.handle.getD 0)
      let s := fillRime s ctx idx p
      match shadowOf (getC s ctx) idx with
      | none => copyPut s ctx c (off + 1) r
      | some x => copyPut { s with dmem := memSet s.dmem (x.rime.getD p 0 + o % c.psize) v } ctx c (off + 1) r

/-! ### Landing (R303 to R307) -/

/-- The rows of a job that it moves: lanes of a lane copy, or rows of a tile whose bit was clear (R307). -/
def Job.rows (j : Job) : List Nat :=
  match j.items with
  | c :: _ => if c.isTile then (List.range (dRows c.desc)).filter fun r => !j.start.getLsbD r else j.items.map CopyReq.lane
  | [] => []

/-- The copy that row r of a job belongs to. -/
def Job.item (j : Job) (r : Nat) : Option CopyReq :=
  match j.items with
  | c :: _ => if c.isTile then some c else j.items.find? fun x => x.lane = r
  | [] => none

/-- Pieces of row r: range offset, cluster address, bytes. -/
def Job.segs (j : Job) (r : Nat) : List (Nat × Nat × Nat) := match j.item r with | some c => c.segs r | none => []

/-- Destination bytes of a row, in the scratchpad or in global memory (by virtual address). -/
def Job.dest (j : Job) (r : Nat) : List (Nat × Nat) :=
  match j.item r with
  | some c => (c.segs r).map fun e => if c.toGlobal then (c.vbase + e.1, e.2.2) else (e.2.1, e.2.2)
  | none => []

def overlapIvs (a b : List (Nat × Nat)) : Bool := a.any fun x => b.any (overlapIv x)

/-- Distinct bytes that the job writes into a 128-byte line. (DEDUCED, log 45.) -/
def Job.lineBytes (j : Job) (line : Nat) : Nat :=
  let ivs := (j.rows.map j.dest).flatten
  ((List.range 128).filter fun k => ivs.any fun iv => overlapIv iv (line * 128 + k, 1)).length

/-- Lines that a row touches. -/
def linesOf (ivs : List (Nat × Nat)) : List Nat :=
  ((ivs.map fun iv => (List.range ((iv.1 + iv.2 - 1) / 128 + 1 - iv.1 / 128)).map fun i => iv.1 / 128 + i).flatten).eraseDups

/-- Every row of the job that touches a line has landed. -/
def Job.lineDone (j : Job) (line : Nat) : Bool :=
  j.rows.all fun r => j.landed.getLsbD r || !overlapIvs (j.dest r) [(line * 128, 128)]

/-- A line is complete: its full bit, and the counted bytes (R304, R307). -/
def lineLand (s : State) (j : Job) (c : CopyReq) (line bytes : Nat) : State :=
  let s := if c.toSpad then lineFull s (spadKey (j.clu) (line * 128)) else s
  match c.bar with
  | some a => barPend s (j.clu) a (-(bytes : Int))
  | none => s

/-- The bytes that a row moves, in the order of its pieces. -/
def rowBytes (s : State) (j : Job) (c : CopyReq) (e : Nat × Nat × Nat) : List Byte :=
  if c.toGlobal || (c.kind == .cpx && c.handle.isNone) then
    let b := getB s j.btag
    (List.range e.2.2).map fun k => memGet s.spad (presentKey b (e.2.1 + k - b.spb))
  else
    (List.range e.2.2).map fun k =>
      match copySource s j.ctx c (e.1 + k) with
      | some a => (spaceRead s a.1 a.2 1).headD 0
      | none => 0

/-- Move the bytes of one piece. -/
def rowMove (s : State) (j : Job) (c : CopyReq) (e : Nat × Nat × Nat) : State :=
  let v := rowBytes s j c e
  match c.kind with
  | .cpx => ((elemWrites c.dst 4 (c.len / 4) v).foldl (fun s x => j.upd s (arriveAt c.lane x.1 x.2)) s)
  | .cpl | .cpt => { s with spad := memWrite s.spad (spadKey (j.clu) e.2.1) v }
  | .cplg | .cpo => copyPut s j.ctx c e.1 v

/-- Page addresses that a row reaches lie in device memory. (DESIGN CHOICE, log 51.) -/
def rowAbsent (s : State) (j : Job) (c : CopyReq) (r : Nat) : Bool :=
  c.handle.isSome && (c.segs r).any fun e => match copySource s j.ctx c e.1 with | some a => a.1 = .dev && decide (devEnd < a.2 + e.2.2) | none => false

/-- A row goes to a peer: it lands when the peer acknowledges it (R487). -/
def rowPeer (c : CopyReq) (r : Nat) : Bool :=
  c.toGlobal && !c.shadow && (c.segs r).any fun e => isPeer (sget 0 c.pages ((c.ofs + e.1) / c.psize))

/-- A page that a row writes is held by a checkpoint (R473). -/
def rowHeld (s : State) (j : Job) (c : CopyReq) (r : Nat) : Bool :=
  c.toGlobal && (c.segs r).any fun e =>
    let o := c.ofs + e.1
    let p := o / c.psize
    if !c.shadow then heldPage s (pageByte (sget 0 c.pages p) (o % c.psize)).1 (pageByte (sget 0 c.pages p) (o % c.psize)).2
    else match shadowOf (getC s j.ctx) (hIdx (c.handle.getD 0)) with
      | some x => heldPage s .dev (x.rime.getD p 0 + o % c.psize)
      | none => false

/-- The pieces of global memory that a row of a copy names, cut where its pages end. -/
def rowGlobal (s : State) (ctx : Nat) (c : CopyReq) (r : Nat) : List (Space × Nat × Nat) :=
  if c.handle.isNone then []
  else ((c.segs r).map fun e =>
    let k := c.psize - (c.ofs + e.1) % c.psize
    let cut := if e.2.2 ≤ k then [(e.1, e.2.2)] else [(e.1, k), (e.1 + k, e.2.2 - k)]
    cut.filterMap fun x => (copySource s ctx c x.1).map fun a => (a.1, a.2, x.2)).flatten

/-- The bytes and lines that a row of a copy reads or writes, as the effects of lanes name them. -/
def rowPlaces (s : State) (ctx : Nat) (c : CopyReq) (r : Nat) : List (Nat × Nat × Nat) :=
  let global := if c.toGlobal && c.shadow then [] else (rowGlobal s ctx c r).map fun e => (spaceNo e.1, placeAt e.1 e.2.1, e.2.2)
  let near := if c.kind == .cpx && c.handle.isSome then [] else (c.segs r).map fun e => (2, e.2.1, e.2.2)
  let lines := if c.toSpad then (linesOf (near.map Prod.snd)).map fun n => (4, n, 1) else []
  global ++ near ++ lines

/-- An earlier access of a copy's lanes keeps a row of it back: an acquire, or a write of bytes that the row reads or writes (R56, R318). -/
def rowOwed (s : State) (j : Job) (r : Nat) : Bool :=
  let ps := match j.item r with | some c => rowPlaces s j.ctx c r | none => []
  s.flight.any fun f => f.g = j.g && f.lanes &&& j.lanes != 0 && decide (f.tno ≤ j.tno)
    && (f.ord = .acq || (effPlaces f.eff).any fun x => ps.any fun y => x.1 = y.1 && overlapIv x.2 y.2)

/-- Whether a row may land now: what its lanes did before does not keep it back (R318), and destination bytes that an
earlier copy of the engine or a lower lane writes have landed. -/
def rowReady (s : State) (i : Nat) (j : Job) (r : Nat) : Bool :=
  let stores := rowOwed s j r
  let earlier := (s.jobs.take i).any fun k => k.core = j.core && k.rows.any fun x => !k.landed.getLsbD x &&
    (match k.item x, j.item r with
      | some a, some b => a.toGlobal = b.toGlobal && a.toSpad = b.toSpad && a.kind != .cpx
      | _, _ => false) && overlapIvs (k.dest x) (j.dest r)
  let lower := (match j.item r with | some c => !c.isTile && c.kind != .cpx | none => false) &&
    j.rows.any fun x => decide (x < r) && !j.landed.getLsbD x && overlapIvs (j.dest x) (j.dest r)
  let held := match j.item r with | some c => rowHeld s j c r | none => false
  j.rows.contains r && !j.landed.getLsbD r && !stores && !earlier && !lower && !held

/-- Set a bit of a slot that a tile copy has bound; all ones make it done (R307, R224). -/
def cpbOr (n : Nat) (m : Word) (q : Group) : Group := setCpb q n (cpbWith ((getCpb q n).val ||| m))
def cpbSet (s : State) (g : GKey) (n : Nat) (m : Word) : State := updG s g (cpbOr n m)

/-- A job leaves the engine once every row has landed. -/
def jobDrop (s : State) (i : Nat) : State := { s with jobs := s.jobs.eraseIdx i }

/-- Row r of job i has been performed: its bit, the lines that it completes, the end of the job. -/
def rowDone (s : State) (i : Nat) (j : Job) (c : CopyReq) (r : Nat) : State :=
  let j' := { j with landed := j.landed ||| laneBit r }
  let s : State := { s with jobs := s.jobs.set i j' }
  let s := if c.isTile then j.upd s (cpbOr c.slot (laneBit r)) else s
  let s := if c.kind == .cpx then s
    else (linesOf (j.dest r)).foldl (fun s ln => if j'.lineDone ln then lineLand s j c ln (j.lineBytes ln) else s) s
  if j'.rows.all fun x => j'.landed.getLsbD x then jobDrop s i else s

/-- The bursts of device memory that a row reads or writes may reach their banks (R428); poison read fails the context, a full
write of a burst ends its poison (R438). -/
def rowTouch (s : State) (j : Job) (c : CopyReq) (r : Nat) : State :=
  (rowGlobal s j.ctx c r).foldl (fun s e =>
    if c.toGlobal then writeSpan s e.1 e.2.1 e.2.2 else readSpan s j.ctx e.1 e.2.1 e.2.2) s

/-- COPY_LINE_LAND: row r of job i lands (R294, R303 to R307). (DESIGN CHOICE, log 51.) -/
def copyLand (s : State) (i r : Nat) : Out :=
  match s.jobs[i]? with
  | none => .next s
  | some j =>
    match j.item r with
    | none => .next s
    | some c =>
      if !rowReady s i j r || rowPeer c r then .next s
      else if rowAbsent s j c r then .fault .absentMemory
      else
        .next (rowDone (rowTouch ((c.segs r).foldl (fun s e => rowMove s j c e) s) j c r) i j c r)

/-- CPBS answers once its slot is not bound and no acquire of its lanes is on its way (R318): an acquire of what its rows or elements wrote (R309). -/
def cpbsAnswer (s : State) (i : Nat) : State :=
  match s.jobs[i]? with
  | none => s
  | some j =>
    match j.cpbs with
    | none => s
    | some (slot, dst) =>
      let v := getCpb (j.group s) slot
      let owed := s.flight.any fun f => f.g = j.g && decide (f.tno ≤ j.tno) && (match f.eff with
        | .cpc n => n = slot
        | .scat _ _ _ _ n => n = slot
        | _ => false)
      if v.st = .bound || owed || acqOwed s j.g j.lanes then s else jobDrop (j.upd (viewClear s j.g j.lanes) fun q => (lanesOf j.lanes).foldl (fun q l => arriveAt l dst v.val q) q) i

/-- What a job has landed, as a job of its own, and what is missing. -/
def Job.done (j : Job) : Job := { j with start := j.start ||| ~~~j.landed, items := j.items.filter fun c => c.isTile || j.landed.getLsbD c.lane }
def Job.missing (j : Job) : Job :=
  { j with start := j.start ||| j.landed, landed := 0, items := j.items.filter fun c => c.isTile || !j.landed.getLsbD c.lane }

/-- No further row of a job issues (R308): lines that a missing row shares are complete with the bytes that have landed, which count. -/
def jobCut (s : State) (j : Job) : State :=
  match j.items with
  | [] => s
  | c :: _ =>
    if c.kind == .cpx then s
    else ((linesOf ((j.done.rows.map j.done.dest).flatten)).filter fun ln => !j.lineDone ln).foldl (fun s ln => lineLand s j c ln (j.done.lineBytes ln)) s

/-- Cancel job i (R308): the slot holds the rows that landed and is preset. -/
def jobCancel (s : State) (i : Nat) : State :=
  match s.jobs[i]? with
  | none => s
  | some j =>
    let s := jobCut s j
    let s := match j.items with
      | c :: _ => if c.isTile then j.upd s fun q => setCpb q c.slot { (getCpb q c.slot) with st := .preset } else s
      | [] => s
    jobDrop s i

/-- The tile copy that has bound a slot of a group. -/
def slotJob (s : State) (g : GKey) (slot : Nat) : Option Nat :=
  s.jobs.findIdx? fun j => j.g = g && (match j.items with | c :: _ => c.isTile && c.slot = slot | [] => false)

/-- CPC performed (R308). -/
def cpcPerform (s : State) (g : GKey) (slot : Nat) : State :=
  match slotJob s g slot with | some i => jobCancel s i | none => s

/-! ### SHOP and PUB (R312, R313) -/

/-- The virtual addresses of a range's pages. -/
def rangeVas (e : HEntry) : List Nat := (List.range e.pages).map fun p => e.vbase / pszBytes e.psz * pszBytes e.psz + p * pszBytes e.psz

/-- Some page of the range is sealed, or holds code (R129, R312). -/
def rangeSealed (s : State) (ctx : Nat) (e : HEntry) : Bool :=
  (rangeVas e).any (fun va => match walk s 0 ctx va with | .leaf t _ => t.sealed | .bad => false)
    || (List.range e.pages).any fun p => codePage s (plistAt s e.plist p) (pszBytes e.psz)

/-- The first n pool entries of a size, and the others. (DEDUCED, log 48.) -/
def poolTake (es : List Nat) (size : Nat) : Nat → List Nat × List Nat
  | 0 => ([], es)
  | n + 1 =>
    match es.findIdx? fun e => poolSize e = size with
    | none => ([], es)
    | some i => let (a, r) := poolTake (es.eraseIdx i) size n; (es.getD i 0 :: a, r)

/-- Open a shadow over handle h of a context (R312): the result word, and the state. (DEDUCED, log 48.) -/
def shopOpen (s : State) (ctx h : Nat) (clear : Bool) : Nat × State :=
  let c := getC s ctx
  let e := hEntry s ctx (hIdx h)
  let pz := pszBytes e.psz
  let pool := poolRead s ctx
  let slots := (List.range 64).map fun i => c.shdw + i
  if e.vbase % pz != 0 || e.len % pz != 0 || rangeSealed s ctx e then (1, s)
  else if (pool.filter fun x => poolSize x = e.psz).length < e.pages then (2, s)
  else
    match slots.find? fun i => !(hEntry s ctx i).v with
    | none => (3, s)
    | some i =>
      if c.shadows.any fun x => (hEntry s ctx x.idx).isOpen &&
          overlapIv ((hEntry s ctx x.idx).vbase, (hEntry s ctx x.idx).len) (e.vbase, e.len) then (4, s)
      else if !e.w then (5, s)
      else
        let (taken, rest) := poolTake pool e.psz e.pages
        let (v, s) := fresh s
        let gen := 1 + v.toNat % 4095
        let n := fieldAt 199 57 e.vbase + fieldAt 196 3 e.psz + fieldAt 144 48 e.len + fieldAt 132 12 gen + 2 ^ 131 + 2 ^ 130
          + (if e.rd then 2 ^ 129 else 0) + 2 ^ 128 + fieldAt 64 64 e.plist + fieldAt 20 2 (if clear then 2 else 1)
          + fieldAt 0 20 (hIdx h)
        let s := poolWrite s ctx rest
        let s := { s with dmem := memWrite s.dmem (c.htab + 32 * i) (leBytes 32 n) }
        (gen * 2 ^ 20 + i, updC s ctx fun c => { c with shadows := c.shadows ++ [{ idx := i, clear := clear, rime := taken.map poolPage }] })

/-- Return pages to the pool with their size (R296). -/
def poolReturn (s : State) (ctx : Nat) (pages : List Nat) (size : Nat) : State :=
  poolWrite s ctx (poolRead s ctx ++ pages.map fun p => poolEntry p size)

/-- Close an open shadow (R312). (DEDUCED, log 48.) -/
def shopClose (s : State) (ctx idx : Nat) : State :=
  let e := hEntry s ctx idx
  match shadowOf (getC s ctx) idx with
  | none => hPut s ctx idx 131 1 0
  | some x =>
    let s := poolReturn s ctx x.rime e.psz
    let s := hPut s ctx idx 131 1 0
    updC s ctx fun c => { c with shadows := c.shadows.filter fun y => y.idx != idx }

/-- SHOP performed: its result (R312). A close that finds its shadow no longer open changes nothing. -/
def shopPerform (s : State) (ctx h sub : Nat) : Nat × State :=
  if sub = 2 then
    (0, if (hEntry s ctx (hIdx h)).isOpen then shopClose s ctx (hIdx h) else s)
  else shopOpen s ctx h (sub = 1)

/-- A buffered copy of a group that names a handle's index. -/
def buffersName (q : Group) (ctx idx : Nat) : Bool :=
  q.res && q.ctx = ctx && (match q.run with
    | some r => r.bufs.any fun b => match b.eff with
      | .copy c => c.shadow && hIdx (c.handle.getD 0) = idx
      | _ => false
    | none => false)

/-- A copy through the shadow has passed its check and not landed (R313), one that pre-emption has cancelled included. -/
def copiesOwed (s : State) (ctx idx : Nat) : Bool :=
  let names (j : Job) : Bool := j.ctx = ctx && j.items.any fun c => c.shadow && hIdx (c.handle.getD 0) = idx
  s.jobs.any names || s.saved.any (fun v => v.jobs.any names) || s.groups.any fun e => buffersName e.2 ctx idx

/-- Point the leaf of a page at a new physical page. (DEDUCED, log 49.) -/
def remap (s : State) (ctx va size pa : Nat) : State :=
  match walk s 0 ctx va with
  | .bad => s
  | .leaf t at_ =>
    if t.size != size then s
    else { s with dmem := memWrite s.dmem at_ (leBytes 8 (setField (setField (leNat (memRead s.dmem at_ 8)) 10 47 (pa / 1024)) 3 1 0)) }

/-- The pages that a publish replaces: page number, entry of the page list as it stands. -/
def oldPages (s : State) (ctx idx : Nat) : List (Nat × Nat) :=
  let e := hEntry s ctx idx
  match shadowOf (getC s ctx) idx with
  | none => []
  | some x => ((List.range e.pages).filter fun p => x.clear || x.written.contains p).map fun p => (p, plistAt s (hEntry s ctx e.sbuf).plist p)

/-- A write or a copy that passed its checks is still to reach a page that a publish replaces: it comes before the swap (R58, R313). -/
def oldOwed (s : State) (ctx idx : Nat) : Bool :=
  let olds := oldPages s ctx idx
  let n := pszBytes (hEntry s ctx idx).psz
  let hits (sp : Space) (pa k : Nat) : Bool := olds.any fun o => (pageSpace o.2).1 = sp && overlapIv (pa, k) ((pageSpace o.2).2, n)
  (s.flight.any fun f => match f.eff with
    | .store sp _ pa v => hits sp pa v.length
    | .atom sp _ pa _ ty _ _ _ => hits sp pa ((tyBytes ty).getD 4)
    | .scat sp _ pa v _ => hits sp pa v.length
    | _ => false)
  || (s.sigs.any fun d => hits d.sp d.addr 16)
  || s.jobs.any fun j => j.ctx = ctx && j.items.any fun c => !c.shadow && c.pages.any fun p => olds.any fun o => o.2 = p.2

/-- A buffered effect of a trace that has not committed follows the swap to the new pages. -/
def effMoved (vbase n : Nat) (swap : List (Nat × Nat × Nat)) (e : Eff) : Eff :=
  let at_ (va pa : Nat) : Space × Nat :=
    match swap.find? fun x => decide (vbase ≤ va) && x.1 = (va - vbase) / n with
    | some x => (.dev, x.2.2 + (va - vbase) % n)
    | none => (.sram, pa)
  match e with
  | .store sp va pa v => if sp = .spad || (at_ va pa).1 = .sram then e else .store .dev va (at_ va pa).2 v
  | .atom sp va pa op ty b c d => if sp = .spad || (at_ va pa).1 = .sram then e else .atom .dev va (at_ va pa).2 op ty b c d
  | .scat sp va pa v k => if sp = .spad || (at_ va pa).1 = .sram then e else .scat .dev va (at_ va pa).2 v k
  | .copy c => if c.shadow then e else .copy { c with pages := c.pages.map fun p => match swap.find? fun x => x.2.1 = p.2 with | some x => (p.1, x.2.2) | none => p }
  | e => e

/-- Buffered effects of a context's running traces after a swap. -/
def runsMoved (s : State) (ctx vbase n : Nat) (swap : List (Nat × Nat × Nat)) : State :=
  let move (b : Buffered) : Buffered := { b with eff := effMoved vbase n swap b.eff }
  { s with groups := s.groups.map fun e =>
      (e.1, if e.2.ctx != ctx || e.2.prof == .mgmt then e.2 else { e.2 with run := e.2.run.map fun r =>
        { r with bufs := r.bufs.map move, sending := r.sending.map fun x => { x with rest := x.rest.map move } } }) }

/-- Publish a shadow in one swap (R313): the context's page tables and the buffer's page list. Zeroing of a page that nothing wrote
through an open clear shadow happens here. Every lane of the context sees the new version whole (R65). (DEDUCED, log 49.)
An old page in host memory enters the pool as the device page of its number. (DESIGN CHOICE, log 108.) -/
def publish (s : State) (ctx idx : Nat) : State :=
  let e := hEntry s ctx idx
  match shadowOf (getC s ctx) idx with
  | none => s
  | some x =>
    let pz := pszBytes e.psz
    let buf := hEntry s ctx e.sbuf
    let all := List.range e.pages
    let olds := oldPages s ctx idx
    let s := olds.foldl (fun s o => fillRime s ctx idx o.1) s
    let new (p : Nat) : Nat := x.rime.getD p 0
    let out := all.map fun p => match olds.find? fun o => o.1 = p with | some o => o.2 | none => new p
    let s := olds.foldl (fun s o =>
      let s := remap s ctx (e.vbase + o.1 * pz) pz (new o.1)
      { s with dmem := memWrite s.dmem (buf.plist + 8 * o.1) (leBytes 8 (new o.1)) }) s
    let s := runsMoved s ctx e.vbase pz (olds.map fun o => (o.1, o.2, new o.1))
    let s : State := { s with
      tlb := s.tlb.filter fun t => !(t.ctx = ctx && overlapIv (t.vpage, t.size) (e.vbase, e.len))
      pubs := s.pubs ++ [(ctx, e.vbase, e.len)] }
    let s := poolReturn (viewContext s ctx) ctx out e.psz
    let s := hPut s ctx idx 131 1 0
    updC s ctx fun c => { c with shadows := c.shadows.filter fun y => y.idx != idx }

/-- A lane that met version replay twice in a row on a published buffer holds its next publish until the lane's trace has ended (R22). -/
def pubHeld (s : State) (ctx base len : Nat) : Bool :=
  s.groups.any fun e => e.2.res && e.2.ctx = ctx && !e.2.stopped && e.2.vhold.any fun v =>
    v.2.2 % 2 = 1 && decide (base ≤ v.2.2 / 2) && decide (v.2.2 / 2 < base + len)

/-- A page that a publish writes is held by a checkpoint (R473): a rime page that takes a page's place, zeroed at the publish included, the page of
the buffer that it takes the place of, or that of the shadow's handle-table entry. -/
def pubPageHeld (s : State) (ctx idx : Nat) : Bool :=
  match shadowOf (getC s ctx) idx with
  | none => false
  | some x =>
    let n := pszBytes (hEntry s ctx idx).psz
    let held (sp : Space) (a : Nat) : Bool := (List.range (n / 0x4000)).any fun k => heldPage s sp (a + 0x4000 * k)
    heldPage s .dev ((getC s ctx).htab + 32 * idx)
      || (oldPages s ctx idx).any fun o => held .dev (x.rime.getD o.1 0) || held (pageSpace o.2).1 (pageSpace o.2).2

/-- Wake lanes of saved groups that wait for the synchronising effect of one trace (R319, R422). -/
def wakeSaved (s : State) (tno : Nat) : State :=
  { s with saved := s.saved.map fun v => { v with groups := v.groups.map fun q =>
      ((List.range 32).filter fun i => waitsSync (getP q i) && (getP q i).tno = tno).foldl wakePath q } }

/-- Elements of a SCAT that a save cancelled are still to be issued by the group whose lanes wait for a trace's synchronising effect (R227). -/
def scatsSaved (s : State) (tno : Nat) : Bool :=
  s.saved.any fun v => v.groups.any fun q => (v.scats.any fun f => f.btag = q.btag && f.gnum = q.gnum)
    && (List.range 32).any fun i => waitsSync (getP q i) && (getP q i).tno = tno

/-- PUB_COMPLETE (R313). A PUB of a group that is about to be saved finishes after the save, which finds its lanes in sync-wait (R319).
(DEDUCED, log 40.) -/
def pubDone (s : State) (i : Nat) : State :=
  match s.pubWaits[i]? with
  | none => s
  | some w =>
    let idx := hIdx w.handle
    let e := hEntry s w.ctx idx
    let leaving := (getG s w.g).evict && !(waitingPaths (getG s w.g) fun y => y = .pub w.handle).isEmpty
    if !effectsDone s w.g w.tno || scatsSaved s w.tno || leaving || copiesOwed s w.ctx idx || oldOwed s w.ctx idx || pubHeld s w.ctx e.vbase e.len
        || pubPageHeld s w.ctx idx then s
    else
      let s := publish { s with pubWaits := s.pubWaits.eraseIdx i } w.ctx idx
      wakeSaved (wakeTrace s w.g w.tno) w.tno

/-- The port of the peer page that a row of a copy writes. -/
def rowPort (c : CopyReq) (r : Nat) : Option Nat :=
  (c.segs r).findSome? fun e =>
    let raw := sget 0 c.pages ((c.ofs + e.1) / c.psize)
    if rowPeer c r && isPeer raw then some (nbits raw 61 58) else none

/-- A peer acknowledges a row of job i (R487). A reserved port carries checkpoint traffic alone (R19). -/
def peerAck (s : State) (i r : Nat) : State :=
  match s.jobs[i]? with
  | none => s
  | some j =>
    match j.item r with
    | none => s
    | some c => if rowReady s i j r && rowPeer c r && !(rowPort c r).any s.mg.reserved.testBit then rowDone s i j c r else s

/-- DESIGN CHOICE, log 51. -/
def execCopyLineLand (job row : Nat) (s : State) : Out := copyLand s job row
def execCpbsArrival (job : Nat) (s : State) : Out := .next (cpbsAnswer s job)
def execPubComplete (i : Nat) (s : State) : Out := .next (pubDone s i)

end Sys2Proof.Machine
end

