-- ==== Sys2Proof/Machine/Floe.lean ====
section
/-! DEFINITION. The floe: operands and passes, the reservation table, tile operations, lineages and the churn, statistics
(R321 to R385). -/
namespace Sys2Proof.Machine
open Sys2Proof Sys2Proof.Checks

def noTile : Tile := {}
def noEnt : Ent := {}
def noLin : Lin := {}
def noFloe : Floe := {}
def getF (s : State) (f : FKey) : Floe := sget noFloe s.floes f
def setF (s : State) (f : FKey) (v : Floe) : State := { s with floes := sset noFloe s.floes f v }
/-- A quiesce request or a stop of the cluster holds the floe's grants (R342, R455). -/
def floeHeld (s : State) (k : FKey) : Bool :=
  (getF s k).quiesce || (getD s (k / 48)).stopping || (getD s (k / 48)).stopped
def updF (s : State) (f : FKey) (h : Floe → Floe) : State := setF s f (h (getF s f))
def tileAt (f : Floe) (t : Nat) : Tile := sget noTile f.tiles t
def setTile (f : Floe) (t : Nat) (v : Tile) : Floe := { f with tiles := sset noTile f.tiles t v }
def entAt (f : Floe) (e : Nat) : Ent := sget noEnt f.ents e
def setEnt (f : Floe) (e : Nat) (v : Ent) : Floe := { f with ents := sset noEnt f.ents e v }
def linAt (f : Floe) (i : Nat) : Lin := sget noLin f.lins i
def setLin (f : Floe) (i : Nat) (v : Lin) : Floe := { f with lins := sset noLin f.lins i v }
/-- The cluster of a floe. -/
def fclu (f : FKey) : Nat := f / 48
/-- The floe of a group's quad (R11). -/
def floeOfG (q : Group) : FKey := floeOf q.clu q.core

/-- The floe of a core's quad, by the core's key. -/
def quadOf (c : CKey) : FKey := c / 192 * 48 + c % 192 / 4

/-- A fence takes a core out of use (R2, R322, R438, R507). Which part of a core an error in a scratchpad bank, a code line or a TLB takes out the
manual does not say: here it is the core. (DESIGN CHOICE, log 90.) -/
def fencesCore (c : CKey) : Fence → Bool
  | .tested (.core k) => k = c
  | .tested (.quad k) => k = quadOf c
  | .tested (.stack _) => false
  | .unit e =>
    match e.unit with
    | .acc => e.clu * 48 + e.floe = quadOf c
    | .whey => e.clu * 48 + e.floe = quadOf c
    | .spad => e.clu * 192 + e.core = c
    | .code => e.clu * 192 + e.core = c
    | .tlb => e.clu * 192 + e.core = c
    | _ => false

/-- The unit of the test schedule in which a fence lies (R2, R507); none for a link. (DESIGN CHOICE, log 90.) -/
def fenceUnit : Fence → Option TestUnit
  | .tested u => some u
  | .unit e =>
    match e.unit with
    | .spad | .regs | .code | .tlb => some (.core (e.clu * 192 + e.core))
    | .acc | .whey => some (.quad (e.clu * 48 + e.floe))
    | .stack | .rowact | .msc => some (.stack e.stack)
    | .link => none

/-- A core is fenced (R2). (DESIGN CHOICE, log 90.) -/
def coreFenced (s : State) (c : CKey) : Bool := s.mg.fenced.any (fencesCore c)

/-- The home core of a floe (R321): the lowest of its quad that is not fenced. -/
def homeCore (s : State) (k : FKey) : CKey :=
  let c := k / 48 * 192 + 4 * (k % 48)
  (([0, 1, 2, 3].map (c + ·)).find? fun c => !coreFenced s c).getD c

/-- The key of a byte of a core's scratchpad. -/
def coreByte (c : CKey) (a : Nat) : Nat := spadKey (c / 192) (c % 192 * 2 ^ 18 + a)

/-- Write a record into the floe's table in its home core (R321). -/
def tableWrite (s : State) (k : FKey) (e r : Nat) : State :=
  { s with spad := memWrite s.spad (coreByte (homeCore s k) (0x2F000 + 64 * e)) (leBytes 64 r) }

/-! ### Serials (R328) -/

/-- The serial after another, modulo 2^32. -/
def nextSerial (n : Nat) : Nat := (n + 1) % 2 ^ 32

/-- A serial before another: their difference modulo 2^32 as a signed value. -/
def serLt (a b : Nat) : Bool := decide (2 ^ 31 ≤ (a + 2 ^ 32 - b % 2 ^ 32) % 2 ^ 32)

/-! ### Records (R329, R330) -/

def rOp (r : Nat) : Nat := nbits r 511 509
def rPrio (r : Nat) : Nat := nbits r 508 507
def rSplit (r : Nat) : Bool := r.testBit 506
def rSpo (r : Nat) : Nat := nbits r 505 504
def rAcc (r : Nat) : Nat := nbits r 503 501
def rPasses (r : Nat) : Nat := nbits r 500 493 + 1
def rPub (r : Nat) : Nat := nbits r 492 485
def rAtid (r : Nat) : Nat := nbits r 479 474
def rBtid (r : Nat) : Nat := nbits r 473 468
def rCtid (r : Nat) : Nat := nbits r 467 462
def rA (r : Nat) : Nat := nbits r 447 320
def rB (r : Nat) : Nat := nbits r 319 192
def rSeed (r : Nat) : Nat := nbits r 191 160
def rTval (r : Nat) : Nat := nbits r 159 128
def rDep0 (r : Nat) : Nat := nbits r 127 96
def rDep1 (r : Nat) : Nat := nbits r 95 64
def rTok (r : Nat) : Nat := nbits r 63 32
def rTag (r : Nat) : Nat := nbits r 31 16

def oSrc (o : Nat) : Nat := nbits o 127 126
def oKind (o : Nat) : Nat := nbits o 125 123
def oScl (o : Nat) : Bool := o.testBit 122
def oFtz (o : Nat) : Bool := o.testBit 121
def oTpitch (o : Nat) : Nat := nbits o 59 38 * 16
def oRpitch (o : Nat) : Nat := nbits o 37 22 * 16
def oName (o : Nat) : Nat := nbits o 21 0
/-- Stored elements of a row of 128 code bytes, and its scale bytes (R323, R299). -/
def oElems (kind : Nat) : Nat := match kind with | 2 => 64 | 3 => 256 | _ => 128
def oScales (kind : Nat) : Nat := match kind with | 2 => 2 | 3 => 8 | _ => 4
/-- Element width in half bytes. -/
def oWidth (kind : Nat) : Nat := match kind with | 2 => 4 | 3 => 1 | _ => 2

/-! ### Operand values (R332 to R337) -/

/-- A value times 2^n. -/
def fvScale (v : FVal) (n : Int) : FVal := match v with | .fin s m e => .fin s m (e + n) | v => v

/-- Stored element e of a row (R335): its value, and whether it was flushed. -/
def rowElem (o : Nat) (bytes : List Byte) (e : Nat) : FVal × Bool :=
  let byte (k : Nat) : Nat := (bytes.getD k 0).toNat
  let sc := byte (128 + e / 32)
  let scaled (v : FVal) : FVal := if oScl o then fvScale v ((sc % 64 : Nat) - 32) else v
  match oKind o with
  | 2 => (scaled (fDecode fmtBf16 (byte (2 * e) + 256 * byte (2 * e + 1))), false)
  | 3 => (q4Value sc (byte (e / 2) / (if e % 2 = 0 then 1 else 16) % 16), false)
  | k =>
    let f := if k = 0 then fmtE4m3 else fmtE5m2
    let c := byte e
    (scaled (fDecodeFtz f (oFtz o) c), oFtz o && fSubnormal f c)

/-- The kept positions of a seeded 2:4 pattern (R337). -/
def keptPair (seed n t : Nat) : Nat × Nat :=
  match rsHash seed n t % 6 with
  | 0 => (0, 1) | 1 => (0, 2) | 2 => (0, 3) | 3 => (1, 2) | 4 => (1, 3) | _ => (2, 3)

/-- Values of a row over a pass's logical positions; `none` is a position that sparsity skips. -/
def rowVals (o : Nat) (bytes : List (List Byte)) : List (Option FVal) :=
  (bytes.map fun b => (List.range (oElems (oKind o))).map fun e => some (rowElem o b e).1).flatten

/-- The same for a sparse row, whose pass is p (R337). -/
def sparseVals (o seed n p : Nat) (bytes : List (List Byte)) : List (Option FVal) :=
  let b := bytes.headD []
  let e := oElems (oKind o)
  ((List.range (e / 2)).map fun t =>
    let (u, v) := keptPair seed n (p * (e / 2) + t)
    (List.range 4).map fun k =>
      if k = u then some (rowElem o b (2 * t)).1 else if k = v then some (rowElem o b (2 * t + 1)).1 else none).flatten

def rowFlushes (o : Nat) (bytes : List Byte) : Nat :=
  ((List.range (oElems (oKind o))).filter fun e => (rowElem o bytes e).2).length

/-- One exact product term (R173). -/
def term (a b : Option FVal) : FVal := match a, b with | some x, some y => fvMul x y | _, _ => .fin false 0 0

/-- Fold groups of 32 terms into S, in ascending order (R174). -/
def foldGroups : Nat → List FVal → Word → Word
  | 0, _, acc => acc
  | n + 1, ts, acc => foldGroups n (ts.drop 32) (w32 (groupSum (fDecode fmtF32 acc.toNat :: ts.take 32)))

def dotFold (a b : List (Option FVal)) (acc : Word) : Word :=
  let ts := (a.zip b).map fun e => term e.1 e.2
  foldGroups ((ts.length + 31) / 32) ts acc

/-- The 32 rows of bytes that an operand supplies for one slice. -/
def sliceRows (s : State) (clu : Nat) (f : Floe) (o slice : Nat) (snap : Option Nat) (acc : Nat → Word) : List (List Byte) :=
  (List.range 32).map fun r =>
    match oSrc o with
    | 0 =>
      let a := oName o * 16 + slice * oTpitch o + r * oRpitch o
      memRead s.spad (spadKey clu a) (128 + if oScl o then oScales (oKind o) else 0)
    | 1 => (((sget [] f.snaps (snap.getD 0)).drop (32 * r)).take 32).map (fun w => leBytes 4 w.toNat) |>.flatten
    | _ =>
      ((List.range 32).map fun c => leBytes 2 (fEnc fmtBf16 .rne (fDecode fmtF32 (acc (32 * r + c)).toNat))).flatten
        ++ List.replicate 64 0

/-- The bytes of one pass of an operand: one slice, or two for the dense operand of a sparse task. Keyed by row. -/
def passRows (s : State) (clu : Nat) (f : Floe) (o p : Nat) (two : Bool) (snap : Option Nat) (acc : Nat → Word) :
    List (List (List Byte)) :=
  let one (k : Nat) := sliceRows s clu f o k snap acc
  if two then ((one (2 * p)).zip (one (2 * p + 1))).map fun e => [e.1, e.2] else (one p).map fun b => [b]

/-- One pass of a task over its accumulator values (R323, R336). `held` are the rows of the pass before, for a split
BF16 group. -/
def passFold (r p : Nat) (a b heldA heldB : List (List (List Byte))) (acc : Nat → Word) : SMap Word :=
  let oa := rA r
  let ob := rB r
  let valA (n : Nat) (x : List (List (List Byte))) : List (Option FVal) :=
    if rSpo r = 1 then sparseVals oa (rSeed r) n p (x.getD n []) else rowVals oa (x.getD n [])
  let valB (n : Nat) (x : List (List (List Byte))) : List (Option FVal) :=
    if rSpo r = 2 then sparseVals ob (rSeed r) n p (x.getD n []) else rowVals ob (x.getD n [])
  let rowsA := (List.range 32).map fun n => valA n a
  let rowsB := (List.range 32).map fun n => valB n b
  let prevA := (List.range 32).map fun n => valA n heldA
  let prevB := (List.range 32).map fun n => valB n heldB
  let quarter (j : Nat) (v : List (Option FVal)) := (v.drop (j * (v.length / 4))).take (v.length / 4)
  (List.range 1024).foldl (fun m k =>
    let i := k / 32
    let c := k % 32
    let v := if rSplit r then
        let j := c / 8
        let n := 8 * (i / 8) + c % 8
        dotFold (quarter j (prevA.getD i []) ++ quarter j (rowsA.getD i []))
          (quarter j (prevB.getD n []) ++ quarter j (rowsB.getD n [])) (acc k)
      else dotFold (rowsA.getD i []) (rowsB.getD c []) (acc k)
    sset 0 m k v) []

/-! ### Statistics (R177 to R180) -/

def statList (f : Floe) (tid : Option Nat) : List (Nat × Nat) :=
  f.stats.filter fun e => match tid with | some t => e.1 / 3 = t | none => true

/-- Begin a drain: its counts leave the floe (R179). -/
def drainStart (f : Floe) (tid : Option Nat) (btag : Nat) (g : Option (GKey × Mask × Nat)) : Floe :=
  { f with
    drains := f.drains ++ [{ ctx := f.statCtx, btag := btag, counts := statList f tid, g := g }]
    stats := f.stats.filter fun e => match tid with | some t => e.1 / 3 != t | none => false }

/-- A change of context drains the counts of the one before (R179). -/
def statCtxSet (f : Floe) (ctx : Nat) : Floe :=
  if f.statCtx = ctx then f
  else if f.stats.isEmpty then { f with statCtx := ctx }
  else { drainStart f none 0 none with statCtx := ctx }

/-- Count events. A count that reaches 2^31 is drained at once (R179). -/
def statAdd (f : Floe) (ctx tid k n : Nat) : Floe :=
  if n = 0 then f
  else
    let f := statCtxSet f ctx
    let v := sget 0 f.stats (3 * tid + k) + n
    let f := { f with stats := sset 0 f.stats (3 * tid + k) (v % 2 ^ 32) }
    if 2 ^ 31 ≤ v then drainStart f (some tid) 0 none else f

/-- A drain is performed: the counts in the floe's reserved area, then the adds (R178, R179, R321). It writes nothing where the context names no
statistics area. -/
def drainApply (s : State) (k : FKey) (d : Drain) : State :=
  let home := homeCore s k
  let base := (getC s d.ctx).stata
  if base = 0 then s
  else
    let s := d.counts.foldl (fun (s : State) e =>
      { s with spad := memWrite s.spad (coreByte home (0x2F800 + 12 * (e.1 / 3) + 4 * (e.1 % 3))) (leBytes 4 e.2) }) s
    d.counts.foldl (fun s e =>
      let a := base + 32 * (e.1 / 3) + 8 * (e.1 % 3)
      ctxWrite s d.ctx a (leBytes 8 ((leNat (ctxRead s d.ctx a 8) + e.2) % 2 ^ 64))) s

/-! ### Serials, completion and conflicts (R347, R374) -/

/-- Tiles that a tile operation reads and writes. MREL frees its tile, which every earlier use of it must have left (R351). -/
def TileReq.reads (t : TileReq) : List Nat := [t.a, t.b].filter fun x => decide (x < 8)
def TileReq.writes (t : TileReq) : List Nat := (if t.kind = .mrel then [t.a] else [t.d]).filter fun x => decide (x < 8)
def TileReq.names (t : TileReq) : List Nat := t.reads ++ t.writes

/-- Tiles that a record reads as operands. -/
def recReads (r : Nat) : List Nat := (if oSrc (rA r) = 2 then [oName (rA r) % 8] else []) ++ (if oSrc (rB r) = 2 then [oName (rB r) % 8] else [])
def recNames (r : Nat) : List Nat := rAcc r :: recReads r

/-- A post counts as complete on its tile for derivations and provisional reads: a root from its publish on, a derived
matrix task from its pass on (R374). -/
def entPublished (e : Ent) : Bool := e.lin.isSome && (if e.derived then decide (1 ≤ e.done) else decide (rPub e.recd ≤ e.done))

/-- The operation's use of a tile is one that R374 lets read provisional values: the source of a derivation, or a PROV source that stood in
an open lineage. -/
def provUse (o : TileOp) (t : Nat) : Bool := (t = o.req.a && o.lin.isSome) || o.prov.contains t

def tileConflict (o : TileOp) (r w : List Nat) : Bool :=
  (w.any fun t => o.req.names.contains t) || (r.any fun t => o.req.writes.contains t)

/-- A queued tile operation may be performed (R347, R349, R374). -/
def tileOpReady (f : Floe) (o : TileOp) : Bool :=
  let ops := f.queue.any fun x => serLt x.serial o.serial && tileConflict o x.req.reads x.req.writes
  let posts := f.ents.any fun e =>
    let x := e.2
    x.st != .free && serLt x.serial o.serial &&
      (((recReads x.recd).any fun t => o.req.writes.contains t) ||
       (o.req.names.contains (rAcc x.recd) && !(entPublished x && provUse o (rAcc x.recd) &&
          !(o.req.writes.contains (rAcc x.recd) && rAcc x.recd != o.req.a))))
  let cream := o.req.names.any fun t => (tileAt f t).tst = 3 && !provUse o t
  !ops && !posts && !cream

/-- Committed effects of a group that have still to leave the core (R86). -/
def restOf (s : State) (g : GKey) : List Flight :=
  let q := getG s g
  match q.run with
  | none => []
  | some r =>
    match r.sending with
    | none => []
    | some x => x.rest.map fun b => { g := g, btag := q.btag, gnum := q.gnum, lanes := b.lanes, tno := r.tno, eff := b.eff, ord := b.ord, scope := b.scope, off := b.off }

/-- An effect that a floe or a copy engine takes, or the commit itself, is not one that a pass has to see performed. -/
def Eff.taken : Eff → Bool
  | .post .. | .macq .. | .tile _ | .tstat .. | .copy _ | .cpbs .. | .emit _ => true
  | _ => false

/-- The arrival at the floe releases every effect of the committing lanes up to their trace (R341, R348): one is left, or has still to leave
the core. -/
def arrivalOwed (s : State) (g : GKey) (lanes : Mask) (tno : Nat) : Bool :=
  (s.flight ++ (restOf s g).filter fun x => !x.eff.taken).any fun x => x.g = g && x.lanes &&& lanes != 0 && decide (x.tno ≤ tno)

/-- A tile is named by a post or tile operation of a smaller serial that is not complete. -/
def tileBusy (f : Floe) (t serial : Nat) : Bool :=
  (f.queue.any fun x => serLt x.serial serial && x.req.writes.contains t)
    || f.ents.any fun e => e.2.st != .free && serLt e.2.serial serial && rAcc e.2.recd = t

/-- TST after a change: pending tasks on the tile (R326). -/
def tileTst (f : Floe) (t : Nat) : Nat :=
  let x := tileAt f t
  if x.tst = 3 then 3
  else if !x.v then 0
  else if f.ents.any fun e => e.2.st != .free && rAcc e.2.recd = t then 2 else 1

def refreshTst (f : Floe) : Floe :=
  (List.range 8).foldl (fun f t => setTile f t { tileAt f t with tst := tileTst f t }) f

/-- The tile that a derived matrix task derives from, whose provisional values it reads (R373, R374). -/
def derivedFrom (f : Floe) (x : Ent) : Option Nat := if x.derived then x.lin.map fun l => (linAt f (linAt f l).par).tile else none

/-- A waiting entry becomes eligible (R338, R347, R374). -/
def entReady (s : State) (k : FKey) (f : Floe) (i : Nat) : Bool :=
  let x := entAt f i
  let from_ (t : Nat) : Bool := derivedFrom f x = some t
  let dep (d : Nat) : Bool := !d.testBit 31 || !lineEmpty s (spadKey (fclu k) (nbits d 25 0))
  let acc := rAcc x.recd
  let earlier := f.ents.any fun e => e.1 != i && e.2.st != .free && serLt e.2.serial x.serial &&
    (rAcc e.2.recd = acc || ((recReads x.recd).contains (rAcc e.2.recd) && !(from_ (rAcc e.2.recd) && entPublished e.2)))
  let ops := f.queue.any fun o => serLt o.serial x.serial &&
    (o.req.names.contains acc || (recReads x.recd).any fun t => o.req.writes.contains t)
  let cream := (tileAt f acc).tst = 3 || ((recReads x.recd).any fun t => (tileAt f t).tst = 3 && !from_ t)
  dep (rDep0 x.recd) && dep (rDep1 x.recd) && !earlier && !ops && !cream

/-- Every waiting entry that can becomes eligible, and stays so. -/
def entSweep (s : State) (k : FKey) : State :=
  let f := getF s k
  setF s k (f.ents.foldl (fun f e =>
    if e.2.st = .waiting && entReady s k f e.1 then setEnt f e.1 { entAt f e.1 with st := .eligible } else f) f)

/-! ### Lineages (R368 to R379) -/

/-- The open lineage's entry that holds a tile (R371). -/
def openLin (f : Floe) (t : Nat) : Option (Nat × Lin) :=
  f.lins.find? fun e => e.2.v && !e.2.cls && !e.2.ghost && e.2.tile = t

/-- Close the lineage that holds a tile, at a serial (R377). (DEDUCED, log 36.) -/
def closeTile (f : Floe) (t serial : Nat) : Floe :=
  match openLin f t with
  | none => f
  | some (_, x) =>
    { f with lins := f.lins.map fun e => if e.2.v && e.2.root = x.root then (e.1, { e.2 with cls := true, clsSerial := serial }) else e }

/-- The lowest free entry. The checks at issue may look past the 16 entries; a trace commits only where they suffice (R369). -/
def freeLin (f : Floe) : Option Nat := (List.range 64).find? fun i => !(linAt f i).v

/-- Take an entry for a tile derived from another (R373). -/
def deriveLin (f : Floe) (src d kind arg tid btag serial : Nat) (rnd : Rnd) : Option Nat × Floe :=
  match openLin f src, freeLin f with
  | some (p, x), some i =>
    let f := if d = src then setLin f p { linAt f p with ghost := true } else f
    let f := setLin f i { v := true, kind := kind, lvl := x.lvl + 1, par := p, root := x.root, tile := d, rnd := rnd
                          arg := arg, tid := tid, btag := btag, made := serial }
    (some i, setLin f x.root { linAt f x.root with nder := (linAt f x.root).nder + 1 })
  | _, _ => (none, f)

/-- The lineage step of a tile operation (R373): its closing uses in the order B, destination, A, then its derivation. -/
def opLineage (f : Floe) (t : TileReq) (btag serial : Nat) : Option Nat × List Nat × Floe :=
  match t.kind with
  | .tscl =>
    let f := if t.d != t.a then closeTile f t.d serial else f
    let (i, f) := deriveLin f t.a t.d 1 t.k t.tid btag serial t.rnd
    (i, [], f)
  | .tadd =>
    let f := closeTile f t.b serial
    let f := if t.d != t.a then closeTile f t.d serial else f
    let (i, f) := deriveLin f t.a t.d 2 0 t.tid btag serial .rne
    (i, [], f)
  | .taxpy =>
    let f := closeTile f t.b serial
    let f := if t.d != t.a then closeTile f t.d serial else f
    let (i, f) := deriveLin f t.a t.d 3 t.k t.tid btag serial t.rnd
    (i, [], f)
  | .mzer => (none, [], closeTile f t.d serial)
  | .mlda => (none, [], closeTile f t.d serial)
  | .mrel => (none, [], closeTile f t.a serial)
  | .mpub => (none, [], closeTile f t.a serial)
  | _ =>
    if t.prov then (none, t.reads.filter (fun x => (openLin f x).isSome), f)
    else (none, [], closeTile (closeTile f t.b serial) t.a serial)

/-- The lineage step of a post (R373): its entry, whether it derives, and the table. -/
def postLineage (f : Floe) (r ent btag serial : Nat) : Option Nat × Bool × Floe :=
  let openR := (recReads r).filter fun t => (openLin f t).isSome
  let both := openR.length = 2
  let f := if both then openR.reverse.foldl (fun f t => closeTile f t serial) f else f
  let f := closeTile f (rAcc r) serial
  match openR with
  | [t] =>
    match deriveLin f t (rAcc r) 4 ent (rCtid r) btag serial .rne with
    | (some i, f) => (some i, true, f)
    | (none, f) => rootLin f r ent btag serial
  | _ => rootLin f r ent btag serial
where
  rootLin (f : Floe) (r ent btag serial : Nat) : Option Nat × Bool × Floe :=
    if rPub r = 0 then (none, false, f)
    else
      match freeLin f with
      | none => (none, false, f)
      | some i =>
        (some i, false, setLin f i { v := true, kind := 0, par := i, root := i, tile := rAcc r, arg := ent, tid := rCtid r
                                     btag := btag, made := serial })

/-- Write the token of a task: the word, then its line full (R340). -/
def tokenWrite (s : State) (clu r : Nat) : State :=
  let a := nbits (rTok r) 25 0
  lineFull { s with spad := memWrite s.spad (spadKey clu a) (leBytes 4 (rTval r)) } (spadKey clu a)

/-- Free an entry and its snapshot buffers. -/
def entFree (f : Floe) (i : Nat) : Floe :=
  let x := entAt f i
  let f := match x.snapA with | some b => { f with snaps := sset [] f.snaps b [] } | none => f
  let f := match x.snapB with | some b => { f with snaps := sset [] f.snaps b [] } | none => f
  setEnt f i noEnt

def tileVals (f : Floe) (t : Nat) (k : Nat) : Word := sget 0 (tileAt f t).el k
def nanKeys (f : Nat → Word) : List Nat := (List.range 1024).filter fun k => isNaNv (fDecode fmtF32 (f k).toNat)
/-- NaN elements of a tile that were not NaN before (R177). -/
def newNans (f : Nat → Word) (old : List Nat) : Nat := ((nanKeys f).filter fun k => !old.contains k).length

def ctxOfTag (s : State) (btag : Nat) : Nat := (getB s btag).ctx

/-- The token of a completed task, and its entry freed. -/
def entComplete (s : State) (k : FKey) (i : Nat) : State :=
  let r := (entAt (getF s k) i).recd
  let s := tokenWrite s (fclu k) r
  updF s k fun f => refreshTst (entFree f i)

/-- Rows of bytes of both operands for pass p of an entry. -/
def entRows (s : State) (k : FKey) (x : Ent) (p : Nat) (sub : Option (Nat × (Nat → Word))) :
    List (List (List Byte)) × List (List (List Byte)) :=
  let f := getF s k
  let vals (t : Nat) : Nat → Word := match sub with | some (t', v) => if t = t' then v else tileVals f t | none => tileVals f t
  let r := x.recd
  (passRows s (fclu k) f (rA r) p (rSpo r = 2) x.snapA (vals (oName (rA r) % 8)),
   passRows s (fclu k) f (rB r) p (rSpo r = 1) x.snapB (vals (oName (rB r) % 8)))

/-- DEDUCED, log 81. -/
def rawFlushes (o : Nat) (rows : List (List (List Byte))) : Nat := ((rows.flatten).map (rowFlushes o)).sum

/-- Entries of a lineage in the order of their creation. -/
def linOrder (f : Floe) (root : Nat) : List Nat :=
  let es := f.lins.filter fun e => e.2.v && e.2.root = root
  let rec ins (e : Nat × Lin) : List (Nat × Lin) → List (Nat × Lin)
    | [] => [e]
    | x :: r => if serLt e.2.made x.2.made then e :: x :: r else x :: ins e r
  (es.foldl (fun a e => ins e a) []).map Prod.fst

/-- A lineage whose churn may start (R378). -/
def churnReady (f : Floe) (root : Nat) : Bool :=
  let x := linAt f root
  let es := (linOrder f root).map (linAt f)
  let tiles := es.map Lin.tile
  x.v && x.cls && x.root = root && (es.all fun e => (e.kind != 0 && e.kind != 4) || e.whc)
    && !(f.queue.any fun o => serLt o.serial x.clsSerial && o.req.names.any tiles.contains)
    && !(f.ents.any fun e => e.2.st != .free && e.2.st != .settling && e.2.st != .writing
          && serLt e.2.serial x.clsSerial && (recNames e.2.recd).any tiles.contains)

/-- FLOE_PASS_GRANT: the eligible entry of highest effective priority, and of those the smallest serial (R339). -/
def entPrio (s : State) (k : FKey) (x : Ent) : Nat :=
  let a := x.age + ((sget 0 s.clock (fclu k)).toNat - x.born)
  Nat.min 3 (rPrio x.recd + a / 65536)

def passGrant (s : State) (k : FKey) : State :=
  let s := entSweep s k
  let f := getF s k
  if f.inFlight.isSome || f.churn.isSome || floeHeld s k || f.lins.any (fun e => churnReady f e.1) then s
  else
    let best := f.ents.foldl (fun a e =>
      if e.2.st != .eligible || arrivalOwed s e.2.g e.2.lanes e.2.tno then a
      else
        match a with
        | none => some e
        | some b =>
          if entPrio s k b.2 < entPrio s k e.2 || (entPrio s k b.2 = entPrio s k e.2 && serLt e.2.serial b.2.serial)
          then some e else some b) (none : Option (Nat × Ent))
    match best with
    | none => s
    | some e =>
      -- the counts of another context leave before the first pass for this one (R179)
      setF s k { setEnt (statCtxSet f (ctxOfTag s (rTag e.2.recd))) e.1 { e.2 with st := .running } with inFlight := some e.1 }

/-- FLOE_PASS_COMPLETE (R324, R339, R368). Of a task that starts from zeros no element was NaN when it began. The operands are read
here, as the pass ends. (DESIGN CHOICE, log 105; DESIGN CHOICE, log 109.) -/
def passComplete (s : State) (k : FKey) : State :=
  let f := getF s k
  match f.inFlight with
  | none => s
  | some i =>
    let x := entAt f i
    let r := x.recd
    let p := x.done
    let rows := entRows s k x p none
    let t := rAcc r
    let published := x.lin.isSome && !x.derived && decide (rPub r ≤ p)
    let acc : Nat → Word :=
      if published then fun e => sget 0 (linAt f (x.lin.getD 0)).whey e
      else if p = 0 && rOp r = 1 then fun _ => 0
      else tileVals f t
    let nan0 := if p = 0 then nanKeys acc else x.nan0
    let paired := rSplit r && oKind (rA r) = 2
    let folds := !paired || p % 2 = 1
    let v : SMap Word := if folds then passFold r p rows.1 rows.2 (x.heldA.map fun b => [b]) (x.heldB.map fun b => [b]) acc
      else (List.range 1024).foldl (fun m e => sset 0 m e (acc e)) []
    let f := if published then setLin f (x.lin.getD 0) { linAt f (x.lin.getD 0) with whey := v }
      else setTile f t { tileAt f t with el := v }
    let ctx := ctxOfTag s (rTag r)
    let f := statCtxSet f ctx
    let f := statAdd f ctx (rAtid r) 1 (rawFlushes (rA r) rows.1)
    let f := statAdd f ctx (rBtid r) 1 (rawFlushes (rB r) rows.2)
    let done := p + 1
    let all := done = rPasses r
    let f := if x.lin.isSome && (x.derived || done = rPub r) then
        let f := setTile f t { tileAt f t with tst := 3 }
        setLin f (x.lin.getD 0) { linAt f (x.lin.getD 0) with whey := [] }
      else f
    let f := if all && x.lin.isSome then setLin f (x.lin.getD 0) { linAt f (x.lin.getD 0) with whc := true } else f
    let keep := paired && p % 2 = 0
    let f := setEnt f i { x with
      done := done
      nan0 := nan0
      heldA := if keep then rows.1.map fun b => b.headD [] else []
      heldB := if keep then rows.2.map fun b => b.headD [] else []
      st := if all then (if x.lin.isSome then .settling else .writing) else .eligible }
    let f := { f with inFlight := none }
    let f := if all && x.lin.isNone then statAdd f ctx (rCtid r) 2 (newNans (tileVals f t) nan0) else f
    let s := setF s k f
    if all && x.lin.isNone then entComplete s k i else s

/-! ### Tile operations performed (R348 to R362) -/

/-- A row of an epilogue write: its bytes at a cluster address, and each line that the whole write fills. -/
def rowsWrite (s : State) (clu : Nat) (rows : List (Nat × List Byte)) : State :=
  let s := rows.foldl (fun s e => { s with spad := memWrite s.spad (spadKey clu e.1) e.2 }) s
  (linesOf (rows.map fun e => (e.1, e.2.length))).foldl (fun s ln => lineFull s (spadKey clu (ln * 128))) s

/-- f of TMAP (R360). -/
def tmapFn (fn : Nat) (x : Nat) : Nat :=
  match fn with
  | 0 => x
  | 1 => fMinMax fmtF32 true x 0
  | 2 => fSig x
  | 3 => fTnh x
  | 4 => fMul fmtF32 .rne x (fSig x)
  | _ => fEx2 x

/-- The element that an operation writes into scratchpad, with its statistics. -/
def epiElem (t : TileReq) (r c : Nat) (a b : Word) : RoundOut × Bool :=
  let f := fmtOf t.ty
  let v := match t.kind with
    | .tmap => fDecode fmtF32 (tmapFn t.fn a.toNat)
    | .tmul => fvMul (fDecode fmtF32 a.toNat) (fDecode fmtF32 b.toNat)
    | _ => fDecode fmtF32 a.toNat
  (fRound f t.rnd t.sat t.ftz (if t.rnd = .rs then rsHash t.seed r c else 0) v, isNaNv v)

def count (l : List Bool) : Nat := (l.filter id).length

/-- TMAP, TMUL and TCVT other than `.q4`. (DEDUCED, log 81.) -/
def epiWrite (s : State) (k : FKey) (o : TileOp) : State :=
  let f := getF s k
  let t := o.req
  let es := (List.range 32).map fun r => (List.range 32).map fun c =>
    epiElem t r c (tileVals f t.a (32 * r + c)) (tileVals f t.b (32 * r + c))
  let n := fmtBits (fmtOf t.ty) / 8
  let rows := (List.range 32).map fun r =>
    (t.addr + 16 * t.pitch * r, ((es.getD r []).map fun e => leBytes n e.1.code).flatten)
  let all := es.flatten
  let ctx := ctxOfTag s o.btag
  let f := statAdd f ctx t.tid 0 (count (all.map fun e => e.1.sat))
  let f := statAdd f ctx t.tid 1 (count (all.map fun e => e.1.ftz))
  let f := statAdd f ctx t.tid 2 (count (all.map fun e => e.2))
  rowsWrite (setF s k f) (fclu k) rows

/-- TCVT into four-bit blocks: row r is one block with its own scale (R362), written after the codes. (DESIGN CHOICE, log 109.) -/
def q4Write (s : State) (k : FKey) (o : TileOp) : State :=
  let f := getF s k
  let t := o.req
  let blocks := (List.range 32).map fun r =>
    let vs := (List.range 32).map fun c => fDecode fmtF32 (tileVals f t.a (32 * r + c)).toNat
    let scale := q4Scale (BitVec.ofNat 32 (256 + 64 * t.qk)) vs
    let cs := (List.range 32).map fun c =>
      q4Encode t.rnd scale (if t.rnd = .rs then rsHash t.seed r c else 0) (vs.getD c .nan)
    (scale, cs, vs)
  let rows := (List.range 32).map fun r =>
    let b := blocks.getD r (0, [], [])
    (t.addr + 16 * t.pitch * r,
     (List.range 16).map fun i => BitVec.ofNat 8 ((b.2.1.getD (2 * i) (0, false)).1 + 16 * (b.2.1.getD (2 * i + 1) (0, false)).1))
  let scales := (List.range 32).map fun r => (t.saddr + 16 * t.pitch * r, [BitVec.ofNat 8 (blocks.getD r (0, [], [])).1])
  let ctx := ctxOfTag s o.btag
  let f := statAdd f ctx t.tid 0 (count ((blocks.map fun b => b.2.1.map Prod.snd).flatten))
  let f := statAdd f ctx t.tid 2 (count ((blocks.map fun b => b.2.2.map isNaNv).flatten))
  rowsWrite (setF s k f) (fclu k) (rows ++ scales)

/-- Result tile of TADD, TSCL and TAXPY (R358). -/
def linearTile (f : Floe) (t : TileReq) : SMap Word :=
  (List.range 1024).foldl (fun m e =>
    let a := fDecode fmtF32 (tileVals f t.a e).toNat
    let b := fDecode fmtF32 (tileVals f t.b e).toNat
    let k := fDecode fmtF32 t.k
    let v := match t.kind with
      | .tadd => fvAdd t.rnd a b
      | .tscl => fvMul k a
      | _ => fvAdd t.rnd (fvMul k a) b
    sset 0 m e (w32 (fEnc fmtF32 t.rnd v))) []

/-- Free a tile whose handle was released (R351). -/
def tileFree (f : Floe) (t : Nat) : Floe := setTile f t { el := (tileAt f t).el }

/-- FLOE_TILE_OP_PERFORM of queue entry i (R347 to R362). (DESIGN CHOICE, log 109.) -/
def tilePerform (s : State) (k : FKey) (i : Nat) : State :=
  let f := getF s k
  match f.queue[i]? with
  | none => s
  | some o =>
    if !tileOpReady f o || arrivalOwed s o.g o.com o.tno then s
    else
      let t := o.req
      let s := setF s k { f with queue := f.queue.eraseIdx i }
      let clu := fclu k
      let s := match t.kind with
        | .mrel => updF s k fun f => tileFree f t.a
        | .mzer => updF s k fun f => setTile f t.d { tileAt f t.d with el := [] }
        | .mlda =>
          let el := (List.range 1024).foldl (fun m e =>
            sset 0 m e (w32 (leNat (memRead s.spad (spadKey clu (t.addr + 16 * t.pitch * (e / 32) + 4 * (e % 32))) 4)))) []
          updF s k fun f => setTile f t.d { tileAt f t.d with el := el }
        | .mrd => (lanesOf o.lanes).foldl (fun s l => deliver s o.g l t.dst (tileVals (getF s k) t.a (32 * t.row + l))) s
        | .msta => rowsWrite s clu ((List.range 32).map fun r =>
            (t.addr + 16 * t.pitch * r, ((List.range 32).map fun c => leBytes 4 (tileVals (getF s k) t.a (32 * r + c)).toNat).flatten))
        | .mpub => updF s k fun f => setTile f t.a { tileAt f t.a with group := t.grp }
        | .tmap => epiWrite s k o
        | .tmul => epiWrite s k o
        | .tcvt => if t.ty = .q4 then q4Write s k o else epiWrite s k o
        | _ =>
          let el := linearTile (getF s k) t
          let ctx := ctxOfTag s o.btag
          updF s k fun f =>
            let f := setTile f t.d { tileAt f t.d with el := el }
            match o.lin with
            | some l => setLin (setTile f t.d { tileAt f t.d with tst := 3 }) l { linAt f l with whc := true }
            | none => statAdd f ctx t.tid 2 (nanKeys fun e => sget 0 el e).length
      updF s k refreshTst

/-! ### The churn (R375 to R379) -/

def churnStart (s : State) (k : FKey) (root : Nat) : State :=
  let f := getF s k
  if f.inFlight.isSome || f.churn.isSome || floeHeld s k || !churnReady f root then s
  else setF s k { f with churn := some root }

/-- W of an entry from its parent's W (R375). -/
def wheyOf (s : State) (k : FKey) (i : Nat) : SMap Word :=
  let f := getF s k
  let x := linAt f i
  let pw (e : Nat) : Word := sget 0 (linAt f x.par).whey e
  let scaled (rnd : Rnd) : SMap Word := (List.range 1024).foldl (fun m e =>
    sset 0 m e (w32 (fMul fmtF32 rnd x.arg (pw e).toNat))) []
  match x.kind with
  | 0 => x.whey
  | 1 => scaled x.rnd
  | 2 => (linAt f x.par).whey
  | 3 => scaled x.rnd
  | _ =>
    let ent := entAt f (x.arg % 32)
    let src := (linAt f x.par).tile
    let rows := entRows s k ent 0 (some (src, pw))
    passFold ent.recd 0 rows.1 rows.2 [] [] fun _ => 0

/-- The end of a lineage: tokens in serial order, tiles out of cream, entries freed (R378). -/
def churnEnd (s : State) (k : FKey) (root : Nat) : State :=
  let f := getF s k
  let order := linOrder f root
  let tasks := (f.ents.filter fun e => e.2.st != .free && match e.2.lin with | some l => order.contains l | none => false)
  let rec ins (e : Nat × Ent) : List (Nat × Ent) → List (Nat × Ent)
    | [] => [e]
    | x :: r => if serLt e.2.serial x.2.serial then e :: x :: r else x :: ins e r
  let tasks := (tasks.foldl (fun a e => ins e a) []).map Prod.fst
  let s := tasks.foldl (fun s i => updF (tokenWrite s (fclu k) (entAt (getF s k) i).recd) k fun f => entFree f i) s
  updF s k fun f =>
    let f := (order.map fun i => (linAt f i)).foldl (fun f x => setTile f x.tile { tileAt f x.tile with tst := 1 }) f
    refreshTst { f with lins := f.lins.filter fun e => !order.contains e.1, churn := none }

/-- CHURN_STEP: the first entry that is not settled (R378). -/
def churnStep (s : State) (k : FKey) : State :=
  let f := getF s k
  match (if floeHeld s k then none else f.churn) with
  | none => s
  | some root =>
    match (linOrder f root).find? fun i => !(linAt f i).stl with
    | none => churnEnd s k root
    | some i =>
      let x := linAt f i
      let w := wheyOf s k i
      let f := setLin f i { x with whey := w, stl := true }
      let f :=
        if x.ghost then f
        else
          let p (e : Nat) : Word := tileVals f x.tile e
          let el := (List.range 1024).foldl (fun m e => sset 0 m e (w32 (fAdd fmtF32 .rne (p e).toNat (sget 0 w e).toNat))) []
          let old := if x.kind = 0 || x.kind = 4 then (entAt f (x.arg % 32)).nan0 else []
          let f := setTile f x.tile { tileAt f x.tile with el := el }
          statAdd f (ctxOfTag s x.btag) x.tid 2 (newNans (fun e => sget 0 el e) old)
      let s := setF s k f
      if (linOrder f root).all fun j => (linAt f j).stl then churnEnd s k root else s

/-! ### MSETL (R363) -/

def msetlDone (f : Floe) (t serial : Nat) : Bool := !tileBusy f t serial && (tileAt f t).tst != 3

/-- Wake the lanes of a quad whose MSETL is met: an acquire of what it waited for (R363). -/
def msetlSweep (s : State) (k : FKey) : State :=
  ((s.groups.filter fun e => e.2.res && floeOfG e.2 = k).map Prod.fst).foldl (fun s g =>
    let ps := waitingPaths (getG s g) fun y => match y with | .msetl t n => msetlDone (getF s k) t n | _ => false
    ps.foldl (fun s i => wakeSeen s g i) s) s

/-! ### Arrival at the floe, at commit (R328, R347, R350 to R352, R355) -/

/-- Lineage entries that floe effects take as they arrive (R369, R370). -/
def linNeed (f : Floe) (effs : List Eff) : Nat :=
  (effs.foldl (fun (a : Nat × Floe) e =>
    match e with
    | .post r _ _ => let x := postLineage a.2 r 0 0 0; (a.1 + (if x.1.isSome then 1 else if rPub r != 0 then 1 else 0), x.2.2)
    | .tile t => let x := opLineage a.2 t 0 0; (a.1 + if x.1.isSome then 1 else 0, x.2.2)
    | _ => a) (0, f)).1

def freeLins (f : Floe) : Nat := ((List.range 16).filter fun i => !(linAt f i).v).length

/-- Room that floe effects need: reservation entries, snapshot buffers, queue entries, lineage entries (R328, R333, R347, R369). -/
def floeRoom (f : Floe) (effs : List Eff) : Bool :=
  let posts := effs.filterMap fun e => match e with | .post r a b => some (r, a, b) | _ => none
  let ops := effs.filter fun e => match e with | .tile _ => true | .macq .. => true | _ => false
  let snaps := (posts.map fun p => (if p.2.1.isSome then 1 else 0) + (if p.2.2.isSome then 1 else 0)).sum
  decide (posts.length ≤ ((List.range 32).filter fun i => (entAt f i).st = .free).length)
    && decide (snaps ≤ ((List.range 4).filter fun i => (sget [] f.snaps i).isEmpty).length)
    && decide (ops.length + f.queue.length ≤ 32) && decide (linNeed f effs ≤ freeLins f)

/-- A commit that creates lineage entries begins only when the floe has that many free, less those that other commits already begun will take
(R369). -/
def linRoom (s : State) (g : GKey) (es : List Buffered) : Bool :=
  let k := floeOfG (getG s g)
  let f := getF s k
  let n := linNeed f (es.map Buffered.eff)
  let others := (s.groups.map fun e =>
    if e.1 = g || floeOfG e.2 != k then 0
    else match e.2.run.bind Run.sending with | some x => linNeed f (x.rest.map Buffered.eff) | none => 0).sum
  n = 0 || decide (n + others ≤ freeLins f)

/-- Serials in use on a floe: posts, tile operations, MSETL waits, lineages (R328). -/
def serialsUsed (s : State) (k : FKey) : List Nat :=
  let f := getF s k
  (f.ents.filter fun e => e.2.st != .free).map (fun e => e.2.serial) ++ f.queue.map TileOp.serial
    ++ ((f.lins.filter fun e => e.2.v).map fun e => if e.2.cls then [e.2.made, e.2.clsSerial] else [e.2.made]).flatten
    ++ (((s.groups.filter fun e => e.2.res && floeOfG e.2 = k).map fun e => e.2.paths.filterMap fun p =>
      match p.2.sync with | .msetl _ n => some n | _ => none).flatten)

/-- The next serial stands at most 2^30 from every serial in use (R328). -/
def serialRoom (s : State) (k : FKey) : Bool :=
  (serialsUsed s k).all fun n => decide (((getF s k).serial + 2 ^ 32 - n) % 2 ^ 32 ≤ 2 ^ 30)

/-- The 32 rows of a snapshot (R333): live lanes' committed values, zeros of retired lanes. -/
def snapOf (q : Group) (k : Nat) : List Word :=
  (allLanes.map fun l => (List.range 32).map fun m => if q.live.getLsbD l then rdX q.com l (k + m) else 0).flatten

/-- Take a snapshot buffer. -/
def snapTake (f : Floe) (v : List Word) : Nat × Floe :=
  let i := ((List.range 4).find? fun i => (sget [] f.snaps i).isEmpty).getD 0
  (i, { f with snaps := sset [] f.snaps i v })

/-- A post of committing lanes arrives (R328, R341, R355). Its snapshots hold their new values, before last-read bits take them
away. (DESIGN CHOICE, log 109.) -/
def postArrive (s : State) (g : GKey) (lanes : Mask) (tno : Nat) (r : Nat) (sa sb : Option Nat) : State :=
  let q := getG s g
  let k := floeOfG q
  let f := getF s k
  let serial := f.serial
  let i := ((List.range 32).find? fun i => (entAt f i).st = .free).getD 0
  let (na, f) := match sa with | some x => let y := snapTake f (snapOf q x); (some y.1, y.2) | none => (none, f)
  let (nb, f) := match sb with | some x => let y := snapTake f (snapOf q x); (some y.1, y.2) | none => (none, f)
  let r := match na with | some n => setField r 320 22 n | none => r
  let r := match nb with | some n => setField r 192 22 n | none => r
  let r := setField r 16 16 q.btag
  let (l, der, f) := postLineage f r i q.btag serial
  let f := setEnt f i { st := .waiting, recd := r, serial := serial, g := g, lanes := lanes, tno := tno, born := (sget 0 s.clock (fclu k)).toNat
                        snapA := na, snapB := nb, lin := l, derived := der }
  entSweep (tableWrite (setF s k (refreshTst { f with serial := nextSerial serial })) k i r) k

/-- A tile operation arrives: it takes its serial, its place in the lineages and a queue entry (R347). MREL and a granted
MPUB unbind their handle at once. -/
def tileArrive (s : State) (g : GKey) (lanes com : Mask) (tno : Nat) (t : TileReq) : State :=
  let q := getG s g
  let k := floeOfG q
  let f := getF s k
  let (l, rd, f) := opLineage f t q.btag f.serial
  let o : TileOp := { serial := f.serial, g := g, btag := q.btag, lanes := lanes, com := com, tno := tno, req := t, lin := l, prov := rd }
  setF s k { f with queue := f.queue ++ [o], serial := nextSerial f.serial }

/-- The group of a batch that a number names, if it is resident with a live lane in the quad (R352). -/
def handTo (s : State) (q : Group) (n : Nat) : Option GKey :=
  if 1024 ≤ n then none
  else
    match (s.groups.find? fun e => e.2.res && e.2.btag = q.btag && e.2.gnum = n) with
    | some e => if e.2.live != 0 && floeOfG e.2 = floeOfG q then some e.1 else none
    | none => none

/-- MPUB at commit: the status, and the handover when it is granted (R352). (DEDUCED, log 36.) -/
def mpubArrive (s : State) (g : GKey) (lanes com : Mask) (tno : Nat) (t : TileReq) : State :=
  let q := getG s g
  let status := match handTo s q t.grp with | none => 1 | some k => if k = g then 2 else 0
  let s := if status = 0 then
      let s := tileArrive s g lanes com tno t
      updG s g fun q => { q with hnd := sset 0 q.hnd t.h 0 }
    else
      -- the instruction still takes its place in the lineages (R377)
      updF s (floeOfG q) fun f => { closeTile f t.a f.serial with serial := nextSerial f.serial }
  deliverAll s g lanes t.dst (w32 status)

def mrelArrive (s : State) (g : GKey) (lanes com : Mask) (tno : Nat) (t : TileReq) : State :=
  updG (tileArrive s g lanes com tno t) g fun q => { q with hnd := sset 0 q.hnd t.h 0 }

/-- MACQ at commit, which leaves the queue as it enters it (R347, R350): the status, the tile it binds, zeroed in the plain form. (DEDUCED, log 35.) -/
def macqArrive (s : State) (g : GKey) (lanes : Mask) (h : Nat) (own : Bool) (dst : Nat) : State :=
  let q := getG s g
  let k := floeOfG q
  let s := updF s k fun f => { f with serial := nextSerial f.serial }
  let f := getF s k
  if sget 0 q.hnd h != 0 then deliverAll s g lanes dst 2
  else
    let released (t : Nat) : Bool := f.queue.any fun o => o.req.kind = .mrel && o.req.a = t
    let pick := (List.range 8).find? fun t =>
      let x := tileAt f t
      if own then x.v && x.btag = q.btag && x.group = q.gnum && !(q.hnd.any fun e => e.2 = 8 + t) && !released t
      else x.tst = 0 && !x.v
    match pick with
    | none => deliverAll s g lanes dst 1
    | some t =>
      let x := tileAt f t
      let x : Tile := if own then { x with v := true, btag := q.btag, group := q.gnum }
        else { v := true, tst := 1, btag := q.btag, group := q.gnum, el := [] }
      let s := setF s k (setTile f t x)
      let s := updG s g fun q => { q with hnd := sset 0 q.hnd h (8 + t) }
      deliverAll s g lanes dst 0

/-- Release every tile that a group holds, but one that a granted MPUB is to hand over (R352, R353). -/
def releaseTiles (s : State) (g : GKey) : State :=
  let q := getG s g
  let k := floeOfG q
  let f := getF s k
  let mine := (List.range 8).filter fun t =>
    let x := tileAt f t
    x.v && x.btag = q.btag && x.group = q.gnum && !(f.queue.any fun o => (o.req.kind = .mrel || o.req.kind = .mpub) && o.req.a = t)
  let s := mine.foldl (fun s t => tileArrive s g 0 0 0 { kind := .mrel, a := t }) s
  updG s g fun q => { q with hnd := [] }

/-- When a batch has ended every tile with its tag is free (R353). -/
def batchTiles (s : State) (b : BTag) : State :=
  { s with floes := s.floes.map fun e =>
      (e.1, refreshTst ((List.range 8).foldl (fun f t => if (tileAt f t).v && (tileAt f t).btag = b then tileFree f t else f) e.2)) }

/-- Entries of a cluster's floes that a full line lets go on do so before the line is emptied (R338). -/
def lineSweep (s : State) (clu : Nat) : State := ((s.floes.filter fun e => fclu e.1 = clu).map Prod.fst).foldl entSweep s

/-! ### The events of a floe -/

/-- After any event of a floe: entries that can become eligible, lanes that MSETL held. -/
def floeSweep (s : State) (k : FKey) : State := msetlSweep (entSweep s k) k

def execFloePassGrant (k : FKey) (s : State) : Out := .next (passGrant s k)
def execFloePassComplete (k : FKey) (s : State) : Out := .next (floeSweep (passComplete s k) k)
def execFloeTileOpPerform (k : FKey) (i : Nat) (s : State) : Out := .next (floeSweep (tilePerform s k i) k)
def execChurnStart (k : FKey) (root : Nat) (s : State) : Out := .next (churnStart s k root)
def execChurnStep (k : FKey) (s : State) : Out := .next (floeSweep (churnStep s k) k)

/-- A count that reaches 2^31 is drained at once (R179). -/
def execStatsCountOverflow (k : FKey) (tid : Nat) (s : State) : Out :=
  let f := getF s k
  if (statList f (some tid)).any fun e => decide (2 ^ 31 ≤ e.2) then .next (setF s k (drainStart f (some tid) 0 none))
  else .next s

/-- The first drain's adds are performed; a TSTAT that waits for it gets 0 (R179, R364). -/
def execStatsDrainDone (k : FKey) (s : State) : Out :=
  let f := getF s k
  match f.drains with
  | [] => .next s
  | d :: r =>
    let s := drainApply (setF s k { f with drains := r }) k d
    .next (match d.g with | some (g, m, dst) => deliverAll s g m dst 0 | none => s)

/-- A floe is quiescent (R342): a churn stands between two steps. -/
def quiescent (f : Floe) : Bool := f.inFlight.isNone

/-- After a quiesce request the floe is at its quiescent point once no pass is in flight (R342). -/
def execFloeQuiescent (k : FKey) (s : State) : Out :=
  let f := getF s k
  if floeHeld s k && quiescent f then .next (setF s k { f with quiet := true }) else .next s

end Sys2Proof.Machine
end

