-- ==== Sys2Proof/Machine/FloeOps.lean ====
section
/-! DEFINITION. The floe instructions at issue (R345 to R366, R331, R373, R381). -/
namespace Sys2Proof.Machine
open Sys2Proof Sys2Proof.Checks

/-- The floe of the issuing group as the earlier floe instructions of the trace will leave its lineages (R345, R371). -/
def viewF (c : Ctx1) : Floe :=
  c.r.bufs.foldl (fun f b => match b.eff with
    | .post r _ _ => (postLineage f r 0 c.q.btag f.serial).2.2
    | .tile t => (opLineage f t c.q.btag f.serial).2.2
    | _ => f) (getF c.s (floeOfG c.q))

/-- A handle is bound for the instruction (R345): committed, and not released by an earlier MREL or MPUB of the trace. -/
def handleTile (c : Ctx1) (h : Nat) : Option Nat :=
  let gone := c.r.bufs.any fun b => match b.eff with
    | .tile t => (t.kind = .mrel || t.kind = .mpub) && t.h = h
    | _ => false
  match sget 0 c.q.hnd h with
  | 0 => none
  | v => if gone then none else some (v % 8)

/-- The first unbound handle of a list. -/
def handleCheck (c : Ctx1) (hs : List Opnd) : Option LaneOut :=
  hs.findSome? fun o => match o with
    | .a n => if (handleTile c n.val).isNone then some (trapLane 0x0D 5 n.val) else none
    | _ => none

def tileOf (c : Ctx1) (o : Opnd) : Nat := match o with | .a n => (handleTile c n.val).getD 8 | _ => 8

def tTid (w : IW ModT) : Nat := nbits w.imm.toNat 5 0
def tPitch (w : IW ModT) : Nat := nbits w.imm.toNat 27 12

/-- Checks of rows in the scratchpad (R359): alignment, then R253 orders 1 and 2, then no dual region. -/
def rowsCheck (c : Ctx1) (a pitch n : Nat) (al : Bool) : Option LaneOut :=
  let b := batchOf c
  if al && a % 16 != 0 then some (trapLane 0x0A 0 a)
  else
    let rows := (List.range 32).map fun r => a + 16 * pitch * r
    match rows.findSome? fun x => (spadRange b x n).map fun k => (k, x) with
    | some (cause, x) => some (trapLane 0x0D cause x)
    | none => (rows.find? fun x => touchesDual b (x - b.spb) n).map fun x => trapLane 0x0E 0 x

/-- Lineage-Overflow of an instruction that would make an entry (R381). -/
def linCheck (after : Floe) (l : Option Nat) (extra : Bool) : Option LaneOut :=
  match l with
  | none => none
  | some i =>
    let x := linAt after i
    if 8 < (linAt after x.root).nder then some (trapLane 0x12 0 0)
    else if 4 ≤ x.lvl then some (trapLane 0x12 1 0)
    else if extra then some (trapLane 0x12 2 0)
    else none

def tileLinCheck (c : Ctx1) (t : TileReq) : Option LaneOut :=
  let x := opLineage (viewF c) t c.q.btag 0
  linCheck x.2.2 x.1 false

/-- A tile operation: its shape, its uniform operands, its checks, its request. -/
def tileInst (w : IW ModT) (s : State) (sh : Shape) (uni : List (Opnd × Nat)) (handles : List Opnd)
    (checks : Ctx1 → Nat → Option LaneOut) (pend : Ctx1 → List (Nat × Nat)) (req : Ctx1 → Nat → TileReq) : Out :=
  issue s (hd w) {
    sh := sh,
    uni := uni,
    body := fun c l =>
      match handleCheck c handles with
      | some o => o
      | none =>
        match checks c l with
        | some o => o
        | none =>
          match tileLinCheck c (req c l) with
          | some o => o
          | none => { pend := pend c },
    once := some fun c => .tile (req c (firstLane c)) }

/-! ### Holding tiles (R350 to R352) -/

/-- DEDUCED, log 35. -/
def execMacq (w : IW ModT) (s : State) : Out :=
  issue s (hd w) {
    sh := { na := 0 },
    body := fun c _ => { pend := heldTo c w.dst 1 },
    once := some fun c => .macq (opndReg w.sa) (w.imm.getLsbD 0) (dstTag c w.dst) }

def execMrel (w : IW ModT) (s : State) : Out :=
  tileInst w s { na := 0 } [] [w.sa] (fun _ _ => none) (fun _ => []) fun c _ => { kind := .mrel, a := tileOf c w.sa, h := opndReg w.sa }

def execMpub (w : IW ModT) (s : State) : Out :=
  tileInst w s { na := 0, nb := 1 } [(w.sb, 1)] [w.sa] (fun _ _ => none) (heldTo · w.dst 1) fun c l =>
    { kind := .mpub, a := tileOf c w.sa, h := opndReg w.sa, grp := (src c l w.sb).toNat, dst := dstTag c w.dst }

/-! ### Whole tiles (R356, R357) -/

def execMzer (w : IW ModT) (s : State) : Out :=
  tileInst w s { na := 0 } [] [w.dst] (fun _ _ => none) (fun _ => []) fun c _ => { kind := .mzer, d := tileOf c w.dst }

def pitch16 (w : IW ModT) : Nat := nbits w.imm.toNat 15 0

def execMlda (w : IW ModT) (s : State) : Out :=
  tileInst w s {} [(w.sa, 1)] [w.dst] (fun c l => rowsCheck c (src c l w.sa).toNat (pitch16 w) 128 true) (fun _ => []) fun c l =>
    { kind := .mlda, d := tileOf c w.dst, addr := (src c l w.sa).toNat, pitch := pitch16 w }

def execMsta (w : IW ModT) (s : State) : Out :=
  tileInst w s { na := 0, nd := 1 } [(w.dst, 1)] [w.sa] (fun c l => rowsCheck c (src c l w.dst).toNat (pitch16 w) 128 true) (fun _ => [])
    fun c l =>
      { kind := .msta, a := tileOf c w.sa, addr := (src c l w.dst).toNat, pitch := pitch16 w, prov := w.mod.prov }

def execMrd (w : IW ModT) (s : State) : Out :=
  tileInst w s { na := 0 } [] [w.sa] (fun _ _ => none) (scored · w.dst 1) fun c _ =>
    { kind := .mrd, a := tileOf c w.sa, row := nbits w.imm.toNat 4 0, dst := dstTag c w.dst, prov := w.mod.prov }

/-! ### Linear operations (R358) -/

def execTadd (w : IW ModT) (s : State) : Out :=
  tileInst w s { na := 0 } [] [w.dst, w.sa, w.sb] (fun _ _ => none) (fun _ => []) fun c _ =>
    { kind := .tadd, d := tileOf c w.dst, a := tileOf c w.sa, b := tileOf c w.sb, tid := tTid w, rnd := w.mod.rnd }

def execTscl (w : IW ModT) (s : State) : Out :=
  tileInst w s { na := 0, nb := 1 } [(w.sb, 1)] [w.dst, w.sa] (fun _ _ => none) (fun _ => []) fun c l =>
    { kind := .tscl, d := tileOf c w.dst, a := tileOf c w.sa, k := (src c l w.sb).toNat, tid := tTid w, rnd := w.mod.rnd }

def execTaxpy (w : IW ModT) (s : State) : Out :=
  tileInst w s { na := 0, nc := 1 } [(w.sc, 1)] [w.dst, w.sa, w.sb] (fun _ _ => none) (fun _ => []) fun c l =>
    { kind := .taxpy, d := tileOf c w.dst, a := tileOf c w.sa, b := tileOf c w.sb, k := (src c l w.sc).toNat
      tid := tTid w, rnd := w.mod.rnd }

/-! ### Epilogue writes (R359 to R362) -/

/-- Bytes of 32 elements of a type. -/
def rowLen (ty : Ty) : Nat := if ty = .q4 then 16 else 32 * (tyBytes ty).getD 4

def destCheck (w : IW ModT) (c : Ctx1) (l : Nat) : Option LaneOut :=
  rowsCheck c (src c l w.dst).toNat (tPitch w) (rowLen w.mod.tya) true

def execTmap (w : IW ModT) (s : State) : Out :=
  tileInst w s { na := 0, nd := 1 } [(w.dst, 1)] [w.sa] (destCheck w) (fun _ => []) fun c l =>
    { kind := .tmap, a := tileOf c w.sa, addr := (src c l w.dst).toNat, pitch := tPitch w, tid := tTid w, ty := w.mod.tya
      fn := nbits w.imm.toNat 11 8, prov := w.mod.prov }

def execTmul (w : IW ModT) (s : State) : Out :=
  tileInst w s { na := 0, nd := 1 } [(w.dst, 1)] [w.sa, w.sb] (destCheck w) (fun _ => []) fun c l =>
    { kind := .tmul, a := tileOf c w.sa, b := tileOf c w.sb, addr := (src c l w.dst).toNat, pitch := tPitch w, tid := tTid w
      ty := w.mod.tya, rnd := w.mod.rnd, prov := w.mod.prov }

def execTcvt (w : IW ModT) (s : State) : Out :=
  let q4 := w.mod.tya = .q4
  let rs := w.mod.rnd = .rs
  tileInst w s { na := 0, nb := if q4 then 1 else 0, nc := if rs then 1 else 0, nd := 1 }
    ([(w.dst, 1)] ++ (if q4 then [(w.sb, 1)] else []) ++ (if rs then [(w.sc, 1)] else [])) [w.sa]
    (fun c l =>
      match destCheck w c l with
      | some o => some o
      | none => if q4 then rowsCheck c (src c l w.sb).toNat (tPitch w) 1 false else none) (fun _ => [])
    fun c l =>
      { kind := .tcvt, a := tileOf c w.sa, addr := (src c l w.dst).toNat, saddr := (src c l w.sb).toNat
        seed := (src c l w.sc).toNat, pitch := tPitch w, tid := tTid w, ty := w.mod.tya, rnd := w.mod.rnd
        sat := w.imm.getLsbD 6, ftz := w.imm.getLsbD 7, qk := nbits w.imm.toNat 9 8, prov := w.mod.prov }

/-! ### Settling, statistics and queries (R363 to R366) -/

def execMsetl (w : IW ModT) (s : State) : Out :=
  issue s (hd w) {
    sh := { na := 0 },
    body := fun c _ => (handleCheck c [w.sa]).getD {},
    sync := some fun c => (0, .msetl (tileOf c w.sa) 0) }

def execTstat (w : IW ModT) (s : State) : Out :=
  issue s (hd w) {
    sh := { na := 0 },
    body := fun c _ => { pend := scored c w.dst 1 },
    once := some fun c => .tstat (if w.imm.getLsbD 8 then none else some (tTid w)) (dstTag c w.dst) }

/-- Occupancy and quiescence of the floe (R365). -/
def mquiVal (f : Floe) : Nat :=
  fieldAt 24 6 f.queue.length + fieldAt 16 4 ((List.range 8).filter fun t => (tileAt f t).tst = 0).length
    + fieldAt 8 6 ((List.range 32).filter fun i => (entAt f i).st != .free).length + (if quiescent f then 1 else 0)

def execMqui (w : IW ModT) (s : State) : Out :=
  issue s (hd w) {
    sh := { na := 0 },
    wait := fun c => waitOwn c fun _ => [],
    body := fun c _ => deferred (dstX w.dst (w32 (mquiVal (getF c.s (floeOfG c.q))))) }

def execMtok (w : IW ModT) (s : State) : Out :=
  issue s (hd w) {
    uni := [(w.sa, 1)],
    wait := fun c => waitOwn c fun l => spadPlace c (src c l w.sa).toNat 4 4 ++ [(4, (src c l w.sa).toNat / 128, 1)],
    acc := some { cls := 0, spad := true, addr := fun c l => (src c l w.sa).toNat, len := 4 },
    body := fun c l =>
      let a := (src c l w.sa).toNat
      match spadCheck c a 4 4 .read with
      | some v => { leave := some v }
      | none =>
        let b := batchOf c
        let v := leNat (bindBytes (lineCtx c fun l => (src c l w.sa).toNat) l .spad (presentKey b (a - b.spb)) 4)
        { deferred (dst64 w.dst (BitVec.ofNat 64 (v + if lineEmpty c.s (spadKey c.q.clu a) then 0 else 2 ^ 32))) with
          vread := dualRead c l a },
    after := fun c s => loadSees false .ln c (lineSees c (fun l => (src c l w.sa).toNat) s) }

/-! ### MPOST (R354, R355, R331) -/

/-- How many registers an operand field of MPOST names. (DEDUCED, log 33.) -/
def postRegs (o : Opnd) (snap : Bool) : Nat := match o with | .x _ => if snap then 32 else 2 | _ => 0

/-- The control block of a lane. -/
def ctlBlock (w : IW ModT) (c : Ctx1) (l : Nat) : Nat :=
  ((srcN c l w.sc 8).zip (List.range 8)).foldl (fun n e => n + fieldAt (32 * e.2) 32 e.1.toNat) 0

/-- An operand field of the record (R330, R354); the header's SRC is its top two bits. -/
def operandField (c : Ctx1) (l : Nat) (o : Opnd) (hdr : Nat) (snap : Bool) : Nat :=
  fieldAt 121 7 hdr + match o with
    | .a _ => tileOf c o
    | .x _ => if snap then 0 else (src64 c l o).toNat
    | _ => 0

/-- The record of a post, with BTAG still to be written by the device. -/
def recordOf (w : IW ModT) (c : Ctx1) (l : Nat) : Nat :=
  let b := ctlBlock w c l
  fieldAt 480 32 (nbits b 31 0) + fieldAt 501 3 (tileOf c w.dst) + fieldAt 448 32 (nbits b 63 32)
    + operandField c l w.sa (nbits b 95 89) (w.imm.getLsbD 0) * 2 ^ 320
    + operandField c l w.sb (nbits b 88 82) (w.imm.getLsbD 1) * 2 ^ 192
    + fieldAt 160 32 (nbits b 127 96) + fieldAt 128 32 (nbits b 159 128) + fieldAt 96 32 (nbits b 191 160)
    + fieldAt 64 32 (nbits b 223 192) + fieldAt 32 32 (nbits b 255 224)

/-- A field's code class or its form bit disagrees with its SRC (R354). -/
def formBad (o : Opnd) (snap : Bool) (srcCode : Nat) : Bool :=
  match o, srcCode with
  | .x k, 0 => snap || k.val % 2 != 0
  | .x _, 1 => !snap
  | .a _, 2 => snap
  | _, _ => true

/-- An operand field breaks R330 or the one-pass limits of R331. -/
def operandBad (o passes other : Nat) (denseOfSparse : Bool) : Bool :=
  let k := oKind o
  oSrc o = 3 || decide (3 < k) || (k = 3 && !oScl o) || (oFtz o && decide (2 ≤ k))
    || (oSrc o = 0 && nbits o 120 64 != 0)
    || (oSrc o != 0 && (passes != 1 || denseOfSparse || k = 3 || oScl o))
    || (oSrc o = 2 && (k != 2 || oKind other != 2))

/-- Order 1 of R331. -/
def recordBad (r : Nat) : Bool :=
  let a := rA r
  let b := rB r
  decide (1 < rOp r) || rSpo r = 3 || nbits r 484 480 != 0 || nbits r 461 448 != 0
    || nbits (rTok r) 30 26 != 0 || nbits (rDep0 r) 30 26 != 0 || nbits (rDep1 r) 30 26 != 0
    || operandBad a (rPasses r) b (rSpo r = 2) || operandBad b (rPasses r) a (rSpo r = 1)
    || oWidth (oKind a) != oWidth (oKind b) || !(rTok r).testBit 31 || decide (rPasses r ≤ rPub r)
    || (rSplit r && rSpo r != 0) || (rSplit r && oKind a = 2 && rPasses r % 2 = 1)

/-- Bytes of a scratchpad operand that the passes read: the address of each row of each slice, and a row's bytes. -/
def operandRows (o slices : Nat) : List Nat :=
  ((List.range slices).map fun p => (List.range 32).map fun r => oName o * 16 + p * oTpitch o + r * oRpitch o).flatten
def operandLen (o : Nat) : Nat := 128 + if oScl o then oScales (oKind o) else 0

/-- CAUSE of order 2 for the bytes a, ..., a + n − 1, which must lie in the `spad` bytes. (DEDUCED, log 34.) -/
def postRange (b : Batch) (a n : Nat) : Option Nat :=
  if 192 ≤ nbits a 25 18 || 0x30000 ≤ nbits a 17 0 || 2 ^ 26 ≤ a then some 0
  else if b.spb ≤ a && decide (a + n ≤ b.spb + b.sps) then none
  else some 1

/-- The checks of R331, with the address that fails. (DEDUCED, log 34; DESIGN CHOICE, log 109.) -/
def recordCheck (b : Batch) (r : Nat) : Option LaneOut :=
  if recordBad r then some (trapLane 0x0D 4 0)
  else
    let ops := ([(rA r, if rSpo r = 2 then 2 * rPasses r else rPasses r), (rB r, if rSpo r = 1 then 2 * rPasses r else rPasses r)]).filter
      fun e => oSrc e.1 = 0
    let rows := (ops.map fun e => (operandRows e.1 e.2).map fun a => (a, operandLen e.1)).flatten ++ [(nbits (rTok r) 25 0, 4)]
    let deps := [rDep0 r, rDep1 r]
    match rows.findSome? fun e => (postRange b e.1 e.2).map fun k => (k, e.1) with
    | some (cause, a) => some (trapLane 0x0D cause a)
    | none =>
      match deps.find? fun d => decide (192 ≤ nbits d 25 18) with
      | some d => some (trapLane 0x0D 0 (nbits d 25 0))
      | none =>
        match (rTok r :: deps).find? fun d => d % 4 != 0 with
        | some d => some (trapLane 0x0A 0 (nbits d 25 0))
        | none => (rows.find? fun e => touchesDual b (e.1 - b.spb) e.2).map fun e => trapLane 0x0E 0 e.1

/-- Lineage checks of a post (R381). -/
def postLinCheck (c : Ctx1) (r : Nat) : Option LaneOut :=
  let x := postLineage (viewF c) r 0 c.q.btag 0
  linCheck x.2.2 x.1 (if x.2.1 then rPub r != 0 || rSplit r else rSplit r && oKind (rA r) = 2 && rPub r % 2 = 1)

/-- Every register operand is uniform as it stands at issue, a snapshot's 32 included (R345, R355), which R333 reads at commit. (DEDUCED, log 33.) -/
def execMpost (w : IW ModT) (s : State) : Out :=
  let sa := w.imm.getLsbD 0
  let sb := w.imm.getLsbD 1
  issue s (hd w) {
    sh := { na := postRegs w.sa sa, nb := postRegs w.sb sb, nc := 8 },
    uni := [(w.sa, if sa then 32 else 2), (w.sb, if sb then 32 else 2), (w.sc, 8)],
    body := fun c l =>
      match handleCheck c [w.dst, w.sa, w.sb] with
      | some o => o
      | none =>
        let b := ctlBlock w c l
        if formBad w.sa sa (nbits b 95 94) || formBad w.sb sb (nbits b 88 87) || nbits b 23 21 != 0 || nbits b 81 64 != 0 then
          trapLane 0x0D 4 0
        else
          let r := recordOf w c l
          match recordCheck (batchOf c) r with
          | some o => o
          | none => (postLinCheck c r).getD {},
    once := some fun c =>
      .post (recordOf w c (firstLane c)) (if sa then some (opndReg w.sa) else none) (if sb then some (opndReg w.sb) else none) }

end Sys2Proof.Machine
end

