-- ==== Sys2Proof/Machine/Mgmt.lean ====
section
/-! DEFINITION. The management profile's instructions: fuses, the crypto engine, wiping, measurements, the life cycle and the
debug ports (R495 to R505). -/
namespace Sys2Proof.Machine
open Sys2Proof Sys2Proof.Checks

/-! ### Issue (R497) -/

/-- An operation of the management profile: its operands are uniform, it acts once for the path, D is held to commit. -/
def mgInst (w : IW ModS) (s : State) (sh : Shape) (uni : List (Opnd × Nat)) (range : Ctx1 → Nat → Option (Nat × Nat))
    (eff : Ctx1 → Eff) : Out :=
  issue s (hd w) {
    sh := sh,
    uni := uni,
    body := fun c l =>
      match range c l with
      | some (a, n) => if sramSize < a + n then trapLane 0x09 0 a else { pend := heldTo c w.dst 1 }
      | none => { pend := heldTo c w.dst 1 },
    once := some eff }

def execFusr (w : IW ModS) (s : State) : Out :=
  mgInst w s { na := 0 } [] (fun _ _ => none) fun c => .fusr (nbits w.imm.toNat 7 0) (dstTag c w.dst)

def crypInst (w : IW ModS) (s : State) (sub n : Nat) : Out :=
  mgInst w s {} [(w.sa, 1)] (fun c l => some ((src c l w.sa).toNat, n)) fun c =>
    .cryp sub (src c (firstLane c) w.sa).toNat (dstTag c w.dst)

def execCrypHash (w : IW ModS) (s : State) : Out := crypInst w s 0 64
def execCrypVrfy (w : IW ModS) (s : State) : Out := crypInst w s 1 64
def execCrypSign (w : IW ModS) (s : State) : Out := crypInst w s 2 64
def execCrypVtok (w : IW ModS) (s : State) : Out := crypInst w s 3 1152

def execWipe (w : IW ModS) (s : State) : Out :=
  mgInst w s { na := 0 } [] (fun _ _ => none) fun c => .wipe (nbits w.imm.toNat 4 0) (dstTag c w.dst)

/-- k and L of MEXT are in range (R502). -/
def mextOk (k len : Nat) : Bool := decide (2 ≤ k) && decide (k ≤ 15) && decide (1 ≤ len) && decide (len ≤ 0x400000)

def execMext (w : IW ModS) (s : State) : Out :=
  let k := nbits w.imm.toNat 3 0
  mgInst w s { nb := 1 } [(w.sa, 1), (w.sb, 1)]
    (fun c l =>
      let len := (src c l w.sb).toNat
      if mextOk k len then some ((src c l w.sa).toNat, len) else none)
    fun c => .mext k (src c (firstLane c) w.sa).toNat (src c (firstLane c) w.sb).toNat (dstTag c w.dst)

def execLcst (w : IW ModS) (s : State) : Out :=
  mgInst w s { na := 0 } [] (fun _ _ => none) fun c => .lcst (nbits w.imm.toNat 1 0) (dstTag c w.dst)

def execDbgo (w : IW ModS) (s : State) : Out :=
  mgInst w s { na := 0 } [] (fun _ _ => none) fun c => .dbgo (nbits w.imm.toNat 1 0) (dstTag c w.dst)

/-! ### What they do after commit -/

def updM (s : State) (f : Mgmt → Mgmt) : State := { s with mg := f s.mg }

/-- A fuse word: words 8 and 9 are blown in use, 0x30 to 0x3F hold the digest of the attestation key, the others stand since Manufacture. An index
that R495 does not list reads all ones (R498). (DESIGN CHOICE, log 8.) -/
def fuseWord (s : State) (i : Nat) : Word :=
  if i = 8 || i = 9 then sget 0 s.mg.fuses i
  else if decide (0x30 ≤ i) && decide (i ≤ 0x3F) then w32 (leNat (((sha512 attestModulus).drop (4 * (i - 0x30))).take 4))
  else if i ≤ 7 || (decide (0x10 ≤ i) && decide (i ≤ 0x2F)) then Config.fusedWord i
  else 0xFFFFFFFF#32

/-- A byte string stored across consecutive fuse words (R495). -/
def fuseBytes (s : State) (first words : Nat) : List Byte :=
  ((List.range words).map fun j => leBytes 4 (fuseWord s (first + j)).toNat).flatten

def sramRead (s : State) (a n : Nat) : List Byte := memRead s.sram a n
def inSram (a n : Nat) : Bool := decide (a + n ≤ sramSize)

/-- A signature of the attestation key over a message (R499): the salt is random. (DESIGN CHOICE, log 17.) -/
def attestSign (s : State) (msg : List Byte) : List Byte × State :=
  let (salt, s) := (List.range 8).foldl (fun (e : List Byte × State) _ =>
    let x := fresh e.2
    (e.1 ++ beBytes 8 x.1.toNat, x.2)) (([] : List Byte), s)
  (beBytes 512 (attestPrivate (beNat (pssEncode msg salt))), s)

/-- `.hash`, `.vrfy` and `.sign` (R499): D and the state. -/
def crypRun (s : State) (sub a : Nat) : Nat × State :=
  let f (o : Nat) : Nat := leNat (sramRead s (a + o) 8)
  let m := f 0
  let len := f 8
  let malformed := len = 0 || decide (0x400000 < len) || (leNat (sramRead s (a + 0x28) 24) != 0)
    || (sub != 1 && f 0x18 != 0) || (sub != 0 && f 0x20 != 0)
  if malformed || !inSram m len || (sub != 0 && !inSram (f 0x10) 512) || (sub = 1 && !inSram (f 0x18) 512)
      || (sub = 0 && !inSram (f 0x20) 64) then (1, s)
  else
    let msg := sramRead s m len
    match sub with
    | 0 => (0, { s with sram := memWrite s.sram (f 0x20) (sha512 msg) })
    | 1 => (if pssVerify (sramRead s (f 0x18) 512) msg (sramRead s (f 0x10) 512) then 0 else 5, s)
    | _ => let x := attestSign s msg; (0, { x.2 with sram := memWrite x.2.sram (f 0x10) x.1 })

/-- The checks of a debug token, in order (R500): the code of the first that fails, or 0. -/
def tokenCheck (s : State) (t : List Byte) : Nat :=
  let nxt := leNat ((t.drop 36).take 4)
  if leNat ((t.drop 104).take 24) != 0 || (nxt != 2 && nxt != 3) then 1
  else if t.take 32 != fuseBytes s 0 8 then 2
  else if leNat ((t.drop 32).take 4) != s.mg.lcs then 3
  else if sha512 ((t.drop 128).take 512) != fuseBytes s 0x20 16 then 4
  else if !pssVerify ((t.drop 128).take 512) (t.take 640) ((t.drop 640).take 512) then 5
  else if s.mg.chal != some ((t.drop 40).take 64) then 6
  else 0

/-- `cryp.vtok` over a token: D, and VTOK. -/
def vtokRun (s : State) (t : List Byte) : Nat × State :=
  let d := tokenCheck s t
  (d, updM s fun m => { m with vtok := if d = 0 then some (leNat ((t.drop 36).take 4), sha512 (t.take 128)) else none })

/-- A context is bound. -/
def anyBound (s : State) : Bool := s.ctxs.any fun e => e.2.bound

/-- Zero the stores that a mask selects (R501). The caches hold nothing that the arrays do not, and lose every line. Saved images, bins and the
records taken from them lie in device memory (R398, R424). (DESIGN CHOICE, log 2.) -/
def wipeStores (s : State) (mask : Nat) : State :=
  let s := if mask.testBit 0 then updM s fun m => { m with keys := [] } else s
  let s : State := if mask.testBit 1 then
      { s with
        spad := []
        groups := (s.groups.filter fun e => e.2.prof = .mgmt)
        floes := []
        batches := s.batches.map fun e => (e.1, { e.2 with terms := [] }) }
    else s
  let s : State := if mask.testBit 2 || mask.testBit 3 then { s with cached := [] } else s
  let s : State := if mask.testBit 3 then
      { s with
        dmem := []
        poison := []
        saved := []
        formed := s.formed.filter fun f => !f.parent.isNone
        ctxs := s.ctxs.map fun e => (e.1, { e.2 with bins := [] }) }
    else s
  if mask.testBit 4 then
    let cmd := s.mg.mcmd.toNat
    { s with sram := s.sram.filter fun e => Config.firmwareArea e.1 || (decide (cmd ≤ e.1) && decide (e.1 < cmd + 4096)) }
  else s

def wipeRun (s : State) (mask : Nat) : Nat × State :=
  if nbits mask 3 1 != 0 && anyBound s then (2, s) else (0, wipeStores s mask)

/-- A measurement register (R502). -/
def measOf (s : State) (k : Nat) : List Byte :=
  match sget [] s.mg.meas k with | [] => List.replicate 64 0 | v => v

/-- Extend a measurement register by a message. -/
def measExtend (s : State) (k : Nat) (msg : List Byte) : State :=
  updM s fun m => { m with meas := sset [] m.meas k (sha512 (measOf s k ++ sha512 msg)) }

def mextRun (s : State) (k a len : Nat) : Nat × State :=
  if mextOk k len then (0, measExtend s k (sramRead s a len)) else (1, s)

/-- The moves of R503: whether a move is in the table, the TO that VTOK must hold, whether KEYZ is asked, the fuse bit. -/
def lcMove (from_ nxt : Nat) : Option (Option Nat × Bool × Option Nat) :=
  match from_, nxt with
  | 0, 1 => some (none, false, some 0)
  | 0, 3 => some (some 3, false, some 1)
  | 1, 3 => some (some 3, false, some 1)
  | 2, 3 => some (some 3, false, some 1)
  | 1, 2 => some (some 2, true, none)
  | 2, 1 => some (none, false, none)
  | _, _ => none

/-- LCST up to its wipe (R503): D of the check that fails, or 0 with the fuse blown and the state changed. Blowing the fuse may fail, which the part
decides. -/
def lcstMove (s : State) (nxt : Nat) : Nat × State :=
  match lcMove s.mg.lcs nxt with
  | none => (1, s)
  | some (need, keyz, fuse) =>
    if anyBound s || !s.mg.testing.isEmpty then (2, s)
    else if (match need with | some n => !(match s.mg.vtok with | some (t, _) => t = n | none => false) | none => false) then (3, s)
    else if keyz && !s.mg.keys.isEmpty then (4, s)
    else
      let fails := fuse.isSome && Config.fuseFails s.free
      let s : State := { s with free := s.free + 1 }
      if fails then (5, s)
      else
        let s := match fuse with
          | some b => updM s fun m => { m with fuses := sset 0 m.fuses 8 (sget 0 m.fuses 8 ||| w32 (2 ^ b)) }
          | none => s
        (0, updM s fun m => { m with lcs := nxt, vtok := none, chal := none, ports := 0, wiping := true })

/-- The wipe of every store that ends an LCST: binds are taken again (R503). (DEDUCED, log 73.) -/
def lcstWiped (s : State) : State := wipeStores (updM s fun m => { m with wiping := false }) 31

def dbgoRun (s : State) (mask : Nat) : Nat × State :=
  if s.mg.lcs = 2 then (0, updM s fun m => { m with ports := mask }) else (1, s)

/-- A management effect performed: D in every committing lane. -/
def mgmtPerform (s : State) (g : GKey) (lanes : Mask) (e : Eff) : State :=
  let out (r : Nat × State) (dst : Nat) : State := deliverAll r.2 g lanes dst (w32 r.1)
  let clear (s : State) : State := updM s fun m => { m with vtok := none }
  match e with
  | .fusr n dst => deliverAll s g lanes dst (fuseWord s n)
  | .cryp sub a dst => if sub = 3 then out (vtokRun (clear s) (sramRead s a 1152)) dst else out (crypRun (clear s) sub a) dst
  | .wipe mask dst => out (wipeRun s mask) dst
  | .mext k a len dst => out (mextRun s k a len) dst
  | .lcstWipe dst => out (0, lcstWiped s) dst
  | .dbgo mask dst => out (dbgoRun s mask) dst
  | _ => s

end Sys2Proof.Machine
end

