-- ==== Sys2Proof/Machine/Perform.lean ====
section
/-! DEFINITION. What a committed effect does when it is performed: stores, terms and steps, atomics, regions, barriers, rings,
sealing, and the order in which the effects of a lane may be performed (R53, R56, R67, R209 to R226, R256 to R288). -/
namespace Sys2Proof.Machine
open Sys2Proof Sys2Proof.Checks

/-! ### Order (R56, R66, R67) -/

/-- Two effects act on common bytes. (DEDUCED, log 21.) -/
def placesMeet (a b : Eff) : Bool := (effPlaces a).any fun x => (effPlaces b).any fun y => x.1 = y.1 && overlapIv x.2 y.2

/-- Two effects stand for a common lane. -/
def Flight.shares (x f : Flight) : Bool := x.g = f.g && x.lanes &&& f.lanes != 0

/-- An earlier effect x keeps a later one f of its lanes behind it: they act on common bytes, or x is an acquire (R56, R63, R229). -/
def Flight.holds (x f : Flight) : Bool := x.shares f && (placesMeet x.eff f.eff || x.ord = .acq)

/-- A SEAL or UNSL of a range, and whether an effect writes bytes of it. -/
def sealMeets (x f : Eff) : Bool :=
  match x, f with
  | .seal _ va len _, .store sp a _ v => sp != .spad && overlapIv (a, v.length) (va, len)
  | .seal _ va len _, .atom sp a _ _ ty _ _ _ => sp != .spad && overlapIv (a, (tyBytes ty).getD 4) (va, len)
  | .seal _ va len _, .scat sp a _ v _ => sp != .spad && overlapIv (a, v.length) (va, len)
  | .seal _ va len _, .copy c => c.toGlobal && !c.shadow &&
      overlapIvs (((List.range (if c.isTile then dRows c.desc else 1)).map c.segs).flatten.map fun g => (c.vbase + g.1, g.2.2)) [(va, len)]
  | _, _ => false

/-- SEAL and UNSL. -/
def Eff.isSeal : Eff → Bool
  | .seal .. => true
  | _ => false

/-- The effects after f that cannot be performed before it: what f keeps behind it, what those keep, and later releases (R56, R67). A release
is not behind a SEAL. -/
def behind (f : Flight) (later : List Flight) : List Flight :=
  later.foldl (fun d x => if (f :: d).any fun y => y.holds x || (x.ord = .rel && y.shares x && !y.eff.isSeal) then d ++ [x] else d) []

/-- Every trace commit of a revision-1 context is a release at device scope (R69). -/
def rev1 (s : State) (f : Flight) : Bool := (getC s (getB s f.btag).ctx).rev1

/-- Tickets of one ring are taken in commit order and then in lane order (R412, R418), or as the log that replay follows has them. -/
def sameRing (s : State) (x f : Flight) : Bool :=
  match x.eff, f.eff with
  | .rtkt h .., .rtkt k .. => gclu x.g = gclu f.g && h = k && (x.g = f.g || (replayLog s (getB s f.btag).ctx).isEmpty)
  | _, _ => false

/-- Effect i may be performed now. No earlier effect of its lanes to the same bytes is left, and no earlier acquire of its lanes (R56,
R63). For a release, a SEAL or an UNSL no earlier effect of its lanes is left and no other effect of its trace, those that have still to leave the core
included (R67, R219), but those that must follow it: a later one to the same bytes (R64), and a SEAL whose range it writes itself, which follows
every write that has passed its check. A SEAL follows the releases of its trace. In a revision-1 context no effect of an earlier trace of its lanes is left
(R69). (DEDUCED, log 21; DEDUCED, log 87.) -/
def flightReady (s : State) (i : Nat) : Bool :=
  match s.flight[i]? with
  | none => false
  | some f =>
    let earlier := s.flight.take i
    let later := s.flight.drop (i + 1) ++ restOf s f.g
    let d := behind f later
    let seals := f.eff.isSeal
    let follows (x : Flight) : Bool := d.contains x || (f :: d).any (fun y => sealMeets x.eff y.eff) || (x.eff.isSeal && !seals && x.tno = f.tno)
    !(earlier.any fun x => x.holds f || sameRing s x f)
      && !(rev1 s f && earlier.any fun x => x.shares f && decide (x.tno < f.tno))
      && !((f.ord = .rel || seals) && (earlier.any (fun x => x.shares f && !follows x)
          || later.any fun x => x.shares f && x.tno = f.tno && !follows x))

def flightDrop (s : State) (i : Nat) : State := { s with flight := s.flight.eraseIdx i }

/-! ### Atomics (R214, R483) -/

/-- The new value of an atomic (R214). -/
def atomNew (op : AtOp) (ty : Ty) (old b c : Nat) : Nat :=
  let n := 8 * (tyBytes ty).getD 4
  let val (v : Nat) : Int := if ty = .s32 || ty = .s64 then toSigned n v else (v % 2 ^ n : Nat)
  match op with
  | .add => if ty = .f32 then fAdd fmtF32 .rne old b else (old + b) % 2 ^ n
  | .min => if ty = .f32 then fMinMax fmtF32 false old b else if val old ≤ val b then old else b
  | .max => if ty = .f32 then fMinMax fmtF32 true old b else if val b ≤ val old then old else b
  | .and => old &&& b
  | .or => old ||| b
  | .xor => old ^^^ b
  | .exch => b
  | .cas => if old = b then c else old

/-- An old value lands in its register or pair. (DESIGN CHOICE, log 17.) -/
def deliverVal (s : State) (g : GKey) (l dst : Nat) (ty : Ty) (v : Nat) : State :=
  let s := deliver s g l dst (w32 v)
  if is64 ty then deliver s g l (dst + 1) (w32 (v / 2 ^ 32)) else s

/-! ### Regions (R257 to R263) and terms (R281 to R283) -/

/-- Initial bytes of a region's next plane (R258): the present plane's, or zeros. -/
def planeSetup (s : State) (b : Batch) (r : Nat × Nat) : State :=
  let base := rgnBase r.2 * 128
  let n := rgnSize r.2 * 128
  let src := spadKey b.clu (b.spb + planeOff b r (rgnPsel r.2) base)
  let dst := spadKey b.clu (b.spb + planeOff b r (1 - rgnPsel r.2) base)
  let s := viewSeen s .spad dst n
  { s with spad := if rgnClear r.2 then memZero s.spad dst n else memCopy s.spad src s.spad dst n }

/-- A dual entry that is changed or removed leaves its present plane at the region's own addresses (R263). (DEDUCED, log 85.) -/
def planeHome (s : State) (b : Batch) (r : Nat × Nat) : State :=
  if rgnPsel r.2 = 1 then
    let base := rgnBase r.2 * 128
    let s := viewSeen s .spad (spadKey b.clu (b.spb + base)) (rgnSize r.2 * 128)
    { s with spad := memCopy s.spad (spadKey b.clu (b.spb + planeOff b r 1 base)) s.spad (spadKey b.clu (b.spb + base)) (rgnSize r.2 * 128) }
  else s

/-- Terms of a region are cleared. -/
def termsClear (b : Batch) (r : Nat × Nat) : Batch :=
  { b with terms := b.terms.filter fun e => !(decide (rgnBase r.2 * 128 ≤ e.1) && decide (e.1 < (rgnBase r.2 + rgnSize r.2) * 128)) }

/-- Bytes of plane store that a set of regions takes. -/
def planeNeed (rs : SMap Nat) : Nat := ((rs.filter fun e => rgnEn e.2 && rgnDual e.2).map fun e => rgnSize e.2 * 128).sum

/-- Bytes of settle store that a set of regions takes (R281). -/
def settleNeed (rs : SMap Nat) : Nat :=
  ((rs.filter fun e => rgnEn e.2 && rgnDual e.2).map fun e =>
    rgnSize e.2 * 32 * (if rgnRule e.2 = 1 then (if rgnStype e.2 = 3 then 48 else 0) else 4)).sum

/-- The STN is to a region. -/
def stnHits (b : Batch) (r : Nat × Nat) : Eff → Bool
  | .stn a _ d => !d.isEmpty && decide (rgnBase r.2 * 128 ≤ a - b.spb) && decide (a - b.spb < (rgnBase r.2 + rgnSize r.2) * 128)
  | _ => false

/-- Some committed STN to a region has not landed, or has landed in the interval. -/
def regionUsed (s : State) (btag : BTag) (b : Batch) (r : Nat × Nat) : Bool :=
  let lo := rgnBase r.2 * 128
  let hi := (rgnBase r.2 + rgnSize r.2) * 128
  (b.terms.any fun e => decide (lo ≤ e.1) && decide (e.1 < hi) && e.2.n != 0)
    || (s.flight.any fun f => f.btag = btag && stnHits b r f.eff)
    || s.groups.any fun e => e.2.btag = btag && match e.2.run with
      | some q => (match q.sending with | some x => x.rest.any fun y => stnHits b r y.eff | none => false)
      | none => false

/-- An STN that passed its check and has not committed is dropped when its region is changed or removed: no term of it lands (R263). -/
def stnsDrop (s : State) (btag : BTag) (b : Batch) (r : Nat × Nat) : State :=
  let drop (e : Eff) : Eff := if stnHits b r e then (match e with | .stn a ty _ => .stn a ty [] | e => e) else e
  { s with groups := s.groups.map fun e =>
      (e.1, if e.2.btag != btag then e.2 else { e.2 with run := e.2.run.map fun q => { q with bufs := q.bufs.map fun y => { y with eff := drop y.eff } } }) }

/-- The place of each dual region's plane, one after another from the plane store's start (R258); RGN moves the planes of the regions that
stay, so that its own always fits. (DESIGN CHOICE, log 52.) -/
def planePlaces (base : Nat) (rs : SMap Nat) : SMap Nat :=
  (rs.foldl (fun (a : Nat × SMap Nat) e =>
    if rgnEn e.2 && rgnDual e.2 then (a.1 + rgnSize e.2 * 128, sset 0 a.2 e.1 a.1) else a) (base, [])).2

/-- The planes of the regions that stay move to their new places in the plane store. -/
def planesMove (s : State) (old b : Batch) (stay : SMap Nat) : State :=
  let s := stay.foldl (fun s e => viewSeen s .spad (spadKey b.clu (b.spb + sget 0 b.pstore e.1)) (rgnSize e.2 * 128)) s
  { s with spad := (stay.filter fun e => rgnEn e.2 && rgnDual e.2).foldl (fun m e =>
      memCopy s.spad (spadKey b.clu (b.spb + sget 0 old.pstore e.1)) m (spadKey b.clu (b.spb + sget 0 b.pstore e.1)) (rgnSize e.2 * 128)) s.spad }

/-- RGN (R263): the status, and the state. -/
def rgnRun (s : State) (g : GKey) (slotTeam : Nat) (place config : Nat) : Nat × State :=
  let q := getG s g
  let b := getB s q.btag
  let ix := nbits config 31 28
  let old := sget 0 b.regions ix
  let en := config.testBit 27
  let dual := config.testBit 26
  let rule := nbits config 24 23
  let stype := nbits config 22 21
  let base := nbits place 10 0
  let size := nbits place 26 16
  let others := b.regions.filter fun e => e.1 != ix
  let fresh_ : SMap Nat := [(ix, 2 ^ 63 + 2 ^ 62 + fieldAt 59 2 rule + fieldAt 57 2 stype + fieldAt 26 11 size)]
  let meets := others.any fun e => rgnEn e.2 && overlapIv (rgnBase e.2, rgnSize e.2) (base, size)
  if nbits place 15 11 != 0 || nbits place 31 27 != 0 || nbits config 20 0 != 0 || rule = 3 || (stype != 0 && rule != 1)
      || (stype = 0 && rule = 1) || (!dual && (config.testBit 25 || rule != 0 || stype != 0)) then (1, s)
  else if en && (b.sps < (base + size) * 128 || size = 0 || meets) then (2, s)
  else if rgnEn old && rgnDual old && (regionUsed s q.btag b (ix, old) || (getT s (tkey q.clu (rgnTmx old))).narr != 0) then (3, s)
  else if en && dual && (b.planes < planeNeed others + size * 128 || b.settle < settleNeed others + settleNeed fresh_) then (4, s)
  else if dual && slotTeam = 0 then (5, s)
  else
    let e := (if en then 2 ^ 63 else 0) + (if dual then 2 ^ 62 else 0) + (if config.testBit 25 then 2 ^ 61 else 0)
      + fieldAt 59 2 rule + fieldAt 57 2 stype + (if dual then fieldAt 48 8 slotTeam else 0) + fieldAt 37 11 base + fieldAt 26 11 size
    let was := rgnEn old && rgnDual old
    let s := if was then stnsDrop (planeHome s b (ix, old)) q.btag b (ix, old) else s
    let rs := sset 0 b.regions ix e
    let new := { (if was then termsClear b (ix, old) else b) with regions := rs, pstore := planePlaces (b.sps + b.mbox) rs }
    let s := setB (planesMove s b new others) q.btag new
    (0, if en && dual then planeSetup s new (ix, e) else s)

def noTerm : Term := {}

/-- Rank of a group in a team (R260). -/
def rankOf (t : Team) (gnum : Nat) : Nat := ((List.range gnum).filter fun i => t.members.testBit i).length

/-- The addend of an exact sum. (DEDUCED, log 45.) -/
def termAdd (x : Term) (v : FVal) : Term :=
  match v with
  | .nan => { x with nan := true, pos := true }
  | .inf neg => if neg then { x with ninf := true, pos := true } else { x with pinf := true, pos := true }
  | .fin neg n e =>
    { x with sum := x.sum + (if neg then -1 else 1) * (n : Int) * 2 ^ (e + 149).toNat, pos := x.pos || !(neg && n = 0) }

/-- One element of a term lands (R282, R283). (DEDUCED, log 45.) -/
def termLand (s : State) (btag : BTag) (r : Nat × Nat) (gnum rank lane off n : Nat) (v : Nat) : State :=
  let b := getB s btag
  let x := sget noTerm b.terms off
  let key := spadKey b.clu (b.spb + planeOff b r (1 - rgnPsel r.2) off)
  let put (s : State) (x : Term) : State := updB s btag fun b => { b with terms := sset noTerm b.terms off x }
  let store (s : State) (v : Nat) : State := { s with spad := memWrite s.spad key (leBytes n v) }
  let x1 := { x with n := x.n + 1 }
  if rgnRule r.2 = 1 then
    if rgnStype r.2 = 3 then
      if x.n = 2 ^ 32 - 1 then put s { x with cap := true } else put s (termAdd x1 (fDecode fmtF32 v))
    else store (put s x1) ((leNat (memRead s.spad key n) + v) % 2 ^ (8 * n))
  else if !x.w then store (put s { x1 with w := true, rank := rank, lane := lane, wgrp := gnum }) v
  else
    let x2 := { x1 with m := x1.m || x.rank != rank || x.lane != lane }
    if x.rank < rank || (x.rank = rank && decide (x.lane ≤ lane)) then
      store (put s { x2 with rank := rank, lane := lane, wgrp := gnum }) v
    else put s x2

/-- A committed STN lands at its bank: one term for each element. One whose region is gone is dropped (R263). -/
def stnLand (s : State) (f : Flight) (a : Nat) (ty : Ty) (d : List Word) : State :=
  let q := getG s f.g
  let n := (tyBytes ty).getD 4
  let vals : List Nat := if is64 ty then (List.range (d.length / 2)).map fun i => (d.getD (2 * i) 0).toNat + 2 ^ 32 * (d.getD (2 * i + 1) 0).toNat
    else d.map fun w => w.toNat % 2 ^ (8 * n)
  let lane := (lowLane f.lanes).getD 0
  (vals.zip (List.range vals.length)).foldl (fun s e =>
    let b := getB s f.btag
    let off := a - b.spb + e.2 * n
    match dualAt b off with
    | none => s
    | some r => termLand s f.btag r q.gnum (rankOf (getT s (tkey q.clu (rgnTmx r.2))) q.gnum) lane off n e.1) s

/-! ### Steps (R267, R284, R285) -/

/-- The groups of a team that are resident. -/
def teamGroups (s : State) (clu tmx : Nat) : List GKey :=
  let t := getT s (tkey clu tmx)
  (s.groups.filter fun e => e.2.res && e.2.btag = t.btag && t.members.testBit e.2.gnum).map Prod.fst

/-- Group g arrives at a step once every live lane stands in sync-wait on a STEP of one team (R267). A record names the lowest of its entries
that stand there (R284). (DESIGN CHOICE, log 107.) -/
def stepArrive (s : State) (g : GKey) : State :=
  let q := getG s g
  let ps := waitingPaths q fun y => match y with | .step .. => true | _ => false
  match ps with
  | [] => s
  | i :: _ =>
    match (getP q i).sync with
    | .step tmx tix off word =>
      let t := getT s (tkey q.clu tmx)
      let m := (ps.filter fun j => match (getP q j).sync with | .step t' _ _ _ => t' = tmx | _ => false).foldl
        (fun m j => m ||| (getP q j).mask) (0 : Mask)
      if m = q.live && !t.arrived.testBit q.gnum then
        setT s (tkey q.clu tmx) { t with narr := t.narr + 1, arrived := t.arrived + 2 ^ q.gnum, lastG := g, lastNum := q.gnum
                                         lastPath := i, lastTix := tix, lastOff := off, lastWord := word }
      else s
    | _ => s

/-- STNs of the team's regions, or effects of its members, which the step releases (R65), are still on their way. (DEDUCED, log 40.) -/
def stepOwed (s : State) (t : Team) : Bool :=
  (s.flight.any fun f => f.btag = t.btag && (t.members.testBit f.gnum || match f.eff with | .stn .. => true | _ => false))
    || s.saved.any fun x => x.btag = t.btag && x.scats.any fun f => t.members.testBit f.gnum

/-- A lane that met version replay twice in a row on a region holds its next step until the lane's trace has ended (R22). -/
def stepHeld (s : State) (btag : BTag) (rs : List (Nat × Nat)) : Bool :=
  s.groups.any fun e => e.2.res && e.2.btag = btag && !e.2.stopped && e.2.vhold.any fun v => rs.any fun x => v.2.2 = 2 * (btag * 16 + x.1)

/-- Settle the sums of a region's next plane (R261, R282, R283). -/
def settleSums (s : State) (btag : BTag) (r : Nat × Nat) : State :=
  let b := getB s btag
  let lo := rgnBase r.2 * 128
  let hi := (rgnBase r.2 + rgnSize r.2) * 128
  if rgnRule r.2 = 1 && rgnStype r.2 = 3 then
    (b.terms.filter fun e => decide (lo ≤ e.1) && decide (e.1 < hi) && e.2.n != 0 && !e.2.cap).foldl (fun s e =>
      let key := spadKey b.clu (b.spb + planeOff b r (1 - rgnPsel r.2) e.1)
      let x := termAdd e.2 (fDecode fmtF32 (leNat (memRead s.spad key 4)))
      { s with spad := memWrite s.spad key (leBytes 4 (f32Sum x.sum x.nan x.pinf x.ninf (!x.pos))) }) s
  else s

/-- Elements of a region that collided, or reached capacity: CAUSE and the terms (R284). (DEDUCED, log 46.) -/
def collisions (b : Batch) (r : Nat × Nat) : Option (Nat × List (Nat × Term)) :=
  let mine := b.terms.filter fun e => decide (rgnBase r.2 * 128 ≤ e.1) && decide (e.1 < (rgnBase r.2 + rgnSize r.2) * 128)
  let c0 := if rgnRule r.2 = 2 then mine.filter fun e => e.2.m else []
  let c1 := mine.filter fun e => e.2.cap
  if !c0.isEmpty then some (0, c0) else if !c1.isEmpty then some (1, c1) else none

/-- Header and entries of a collision block (R285). (DEDUCED, log 46.) -/
def collisionBlock (b : Batch) (r : Nat × Nat) (steps : Nat) (c : Nat × List (Nat × Term)) : Nat × List Nat :=
  let listed := c.2.take 126
  (fieldAt 96 32 c.2.length + fieldAt 88 8 listed.length + fieldAt 84 4 r.1 + fieldAt 76 8 (rgnTmx r.2) + fieldAt 44 32 steps,
   listed.map fun e => fieldAt 38 26 (b.spb + e.1) + fieldAt 27 11 (Nat.min 2047 e.2.n)
     + (if c.1 = 1 then 0 else fieldAt 17 10 e.2.wgrp + fieldAt 12 5 e.2.lane))

/-- One region at its step: settle, flip, set up the new next plane (R267, 1, 2 and 4). -/
def stepRegion (s : State) (btag : BTag) (r : Nat × Nat) : State :=
  let s := settleSums s btag r
  let e := setField r.2 56 1 (1 - rgnPsel r.2)
  let s := updB s btag fun b => termsClear { b with regions := sset 0 b.regions r.1 e } r
  planeSetup s (getB s btag) (r.1, e)

/-- STEP_COMPLETE of a team-table entry (R267). One that would trap waits for the handlers of its batch to end, for no trap can occur while they
run (R247). Its record names the group that arrived last, a step that a member's end completes included. (DESIGN CHOICE, log 107.) -/
def stepComplete (s : State) (k : Nat) : State :=
  let t := getT s k
  let clu := k / 256
  let tmx := k % 256
  let b := getB s t.btag
  let rs := b.regions.filter fun e => rgnEn e.2 && rgnDual e.2 && rgnTmx e.2 = tmx
  let cols := rs.filterMap fun r => (collisions b r).map fun c => (r, c)
  if !t.v || t.narr = 0 || t.narr != t.nlive || stepOwed s t || stepHeld s t.btag rs || (!cols.isEmpty && b.halt.any Halt.running) then s
  else
    let steps := (t.steps + 1) % 2 ^ 32
    let s := rs.foldl (fun s r => stepRegion s t.btag r) s
    let s := setT s k { t with steps := steps, narr := 0, arrived := 0 }
    let at_ (q : Group) : List Nat := waitingPaths q fun y => match y with | .step x _ _ _ => x = tmx | _ => false
    let s := (teamGroups s clu tmx).foldl (fun s g => (at_ (getG s g)).foldl (fun s i => wakeSeen s g i) s) s
    let s := savedGroups s clu fun q => if q.btag = t.btag && t.members.testBit q.gnum then (at_ q).foldl wakePath q else q
    cols.foldl (fun s rc =>
      let blk := collisionBlock b rc.1 steps rc.2
      let noArea := (getC s b.ctx).cola = 0
      addRec s t.btag { g := t.lastG, path := t.lastPath, lanes := 0, exms := 0, tix := t.lastTix
                        trap := { code := 0x0F, cause := rc.2.1, off := t.lastOff, word := t.lastWord }
                        gnum := t.lastNum, clu := gclu t.lastG, core := t.lastG / 128 % 192, trk := t.lastG / 16 % 8
                        collision := if noArea then none else some blk }) s

/-- What the lanes of a group wait for may now hold: steps and barriers. -/
def arriveSweep (s : State) (g : GKey) : State := barSettle (barArrive (stepArrive s g) g) g

/-! ### Sealing (R219, R220) -/

/-- The leaves that cover [va, end), each as a leaf whole inside the range; `none` where a page is missing or sticks out. -/
def leavesOf (s : State) (ctx lo hi : Nat) : Nat → Nat → Option (List (Tlb × Nat))
  | 0, _ => some []
  | n + 1, va =>
    if hi ≤ va then some []
    else
      match walk s 0 ctx va with
      | .bad => none
      | .leaf t e =>
        if t.vpage < lo || hi < t.vpage + t.size || !t.w then none
        else (leavesOf s ctx lo hi n (t.vpage + t.size)).map fun r => (t, e) :: r

/-- The leaves of a range that passes the checks of R219. -/
def sealRange (s : State) (ctx va len : Nat) : Option (List (Tlb × Nat)) :=
  if va % 0x4000 != 0 || len % 0x4000 != 0 || len = 0 || 2 ^ 40 < len then none
  else leavesOf s ctx va (va + len) (len / 0x4000) va

/-- Set or clear SEAL in leaves and in every TLB. -/
def sealMark (s : State) (ctx va len : Nat) (ls : List (Tlb × Nat)) (on : Bool) : State :=
  let s := ls.foldl (fun s e =>
    { s with dmem := memWrite s.dmem e.2 (leBytes 8 (setField (leNat (memRead s.dmem e.2 8)) 4 1 (if on then 1 else 0))) }) s
  { s with tlb := s.tlb.map fun t => if t.ctx = ctx && overlapIv (t.vpage, t.size) (va, len) then { t with sealed := on } else t }

/-- A write to the range that passed its check is not yet performed: it is on its way, has still to leave the core, or was cancelled by a save
(R219, R316). -/
def rangeOwed (s : State) (ctx va len : Nat) : Bool :=
  ((s.flight ++ (s.saved.map Saved.scats).flatten ++ (s.groups.map fun e => restOf s e.1).flatten).any fun f =>
      (getB s f.btag).ctx = ctx && sealMeets (.seal false va len 0) f.eff)
  || (s.jobs ++ (s.saved.map Saved.jobs).flatten).any fun j => j.ctx = ctx && j.rows.any fun r => !j.landed.getLsbD r &&
      (match j.item r with | some c => c.toGlobal && !c.shadow && overlapIvs (j.dest r) [(va, len)] | none => false)

/-- SEAL_COMPLETE and UNSEAL_COMPLETE of effect i. -/
def sealPerform (s : State) (i : Nat) (undo : Bool) : State :=
  match s.flight[i]? with
  | none => s
  | some f =>
    match f.eff with
    | .seal u va len dst =>
      let ctx := (getB s f.btag).ctx
      if u != undo || !flightReady s i then s
      else
        let ls := sealRange s ctx va len
        let ok := match ls with | some l => !undo || l.all fun e => e.1.sealed | none => false
        if ok && !undo && rangeOwed s ctx va len then s
        else
          let s := if ok then viewContext (sealMark s ctx va len (ls.getD []) (!undo)) ctx else s
          arriveSweep (flightDrop (deliverAll s f.g f.lanes dst (if ok then 0 else 1)) i) f.g
    | _ => s

/-! ### EFFECT_PERFORMED and its kin -/

/-- An RPUT or RSKP performed (R413). -/
def ringMarked (s : State) (btag : BTag) (hdr payload : Nat) (pad : Bool) : State :=
  let b := getB s btag
  let s := setSt s b (payload - 8) (if pad then 4 else 2)
  ringPut s b hdr (advanceVis s b ringFuel (ringHdr s b hdr))

/-- RTKT of one lane (R412): its ticket is taken at once; the payload address waits for room. -/
def rtktRun (s : State) (g : GKey) (l hdr : Nat) (byteRing : Bool) (len dst : Nat) : State :=
  let q := getG s g
  let b := getB s q.btag
  let h := ringHdr s b hdr
  if !h.v || h.bad || h.byteRing != byteRing then deliver s g l dst 0
  else
    let p := if h.cap = 0 then 0 else h.tkt % h.cap
    let want := byteFoot len
    let pad := byteRing && decide (h.cap < p + want)
    let f := if !byteRing then 1 else if pad then h.cap - p else want
    let s := ringPut s b hdr { h with tkt := h.tkt + f }
    { s with tickets := s.tickets ++ [{
        g := g, lane := l, dst := dst, hdr := hdr - b.spb, clu := q.clu, btag := q.btag, byteRing := byteRing, t := h.tkt,
        f := f, len := if !byteRing then 0 else if pad then f - 8 else len, pad := pad
        value := recAddr b h h.tkt - b.spb + 8 + if pad then 1 else 0 }] }

/-- An effect of the plain kinds performed. (DESIGN CHOICE, log 17.) -/
def effRun (s : State) (f : Flight) : State :=
  let clu := gclu f.g
  let l := (lowLane f.lanes).getD 0
  match f.eff with
  | .store sp _ pa bytes =>
    clearPoison (touch (spaceWrite (viewWrite s f.g f.lanes (fun _ => false) sp pa bytes.length) sp pa bytes) .store sp pa) sp pa bytes.length
  | .atom sp _ pa op ty b c dst =>
    let n := (tyBytes ty).getD 4
    let old := leNat (spaceRead s sp pa n)
    let s := viewWrite (readPoison (touch s .read sp pa) (getB s f.btag).ctx sp pa n) f.g f.lanes (fun _ => false) sp pa n
    let status := if sp = .host then Config.atomicStatus s.free else 0
    if sp = .host && status != 0 then
      failCtx { s with free := s.free + 1 } (getB s f.btag).ctx 5 status 0xFFFFFFFF 0xFFFFFFFF 0 0
    else deliverVal { spaceWrite s sp pa (leBytes n (atomNew op ty old b c)) with free := s.free + 1 } f.g l dst ty old
  | .line a full => if full then lineFull s (spadKey clu a) else setLine (lineSweep s clu) (spadKey clu a) false
  | .bari a slot exp => if slot = 0 then s else barInit s clu a (slot % 256) exp
  | .barx a amount => barPend (barKnown s clu a) clu a (amount : Int)
  | .rgn slot place config dst =>
    let r := rgnRun s f.g slot place.toNat config.toNat
    deliverAll r.2 f.g f.lanes dst (w32 r.1)
  | .rput hdr a pad => ringMarked s f.btag hdr a pad
  | .retire hdr recd => let b := getB s f.btag; ringSettle s b ⟨l, hdr - b.spb, recd⟩ true
  | .rtkt hdr byteRing len dst => rtktRun s f.g l hdr byteRing len dst
  | .govh sub a => { viewSeen s .spad (spadKey clu a) 1 with
      spad := memSet s.spad (spadKey clu a) (BitVec.ofNat 8 (setField (memGet s.spad (spadKey clu a)).toNat 7 1 (if sub = 1 then 1 else 0))) }
  | .shop h sub dst =>
    let r := shopPerform s (getB s f.btag).ctx h sub
    deliverAll r.2 f.g f.lanes dst (w32 r.1)
  | .cpc slot => cpcPerform s f.g slot
  | .fwk node addr cap =>
    let s := setLine (lineSweep s clu) (spadKey clu addr) false
    wakeTrace { s with fwks := s.fwks ++ [{ g := f.g, btag := f.btag, ctx := (getB s f.btag).ctx
                                            node := (getB s f.btag).node / 4096 * 4096 + node, clu := clu, addr := addr, cap := cap }] } f.g f.tno
  | .lcst nxt dst =>
    let r := lcstMove s nxt
    if r.1 = 0 then { r.2 with flight := r.2.flight ++ [{ f with eff := .lcstWipe dst }] } else deliverAll r.2 f.g f.lanes dst (w32 r.1)
  | e => mgmtPerform s f.g f.lanes e

/-- A release carries what is performed before it to the observers of its scope, under R69 at device scope (R52, R67). -/
def effRelease (s : State) (f : Flight) : State :=
  if rev1 s f then viewRelease s f.g .dev else if f.ord = .rel then viewRelease s f.g f.scope else s

/-- An acquiring atomic has been performed (R214). -/
def effOrder (s : State) (f : Flight) : State := if f.ord = .acq then viewAcquire s f.g f.lanes f.scope else s

/-- Kinds of effect that another event performs. -/
def otherEvent : Eff → Bool
  | .stn .. => true
  | .scat .. => true
  | .seal .. => true
  | _ => false

/-- What the order log keeps of an effect (R475): an atomic's location, by virtual address or by its offset in
the batch's allocation, and its party; the ticket that RTKT takes. (DEDUCED, log 47.) -/
def effLog (s : State) (f : Flight) : Option LogEntry :=
  match f.eff with
  | .atom sp va _ _ _ _ _ _ =>
    let loc := if sp = .spad then f.btag * 2 ^ 26 + (va - (getB s f.btag).spb) else va
    some (.atomic sp loc f.btag f.gnum ((lowLane f.lanes).getD 0) f.lcn)
  | .rtkt hdr byteRing _ _ =>
    let b := getB s f.btag
    let h := ringHdr s b hdr
    if !h.v || h.bad || h.byteRing != byteRing then none
    else some (.ticket (hdr - b.spb) f.btag f.gnum ((lowLane f.lanes).getD 0) f.lcn h.tkt)
  | _ => none

/-- A SCAT element is on its way. -/
def isScat : Eff → Bool
  | .scat .. => true
  | _ => false

/-- Once every saved SCAT element of a resumed group has been performed it may enter traces (R227). -/
def rescatDone (s : State) (g : GKey) : State :=
  if s.flight.any fun x => x.g = g && isScat x.eff then s else updG s g fun q => { q with rescat := false }

/-- A SCAT element performed: its bytes, and its bit once every observer in its scope sees it (R226). -/
def scatRun (s : State) (f : Flight) : State :=
  match f.eff with
  | .scat sp _ pa bytes slot =>
    let s := rescatDone s f.g
    cpbSet (touch (spaceWrite (viewWrite s f.g f.lanes (inScope s f.g f.scope ∘ partyOf s) sp pa bytes.length) sp pa bytes) .store sp pa) f.g slot f.lanes
  | _ => s

/-- An effect that has left the list of those on their way performed, with what it orders; `none` where replay has another next in the log. -/
def effOne (s : State) (f : Flight) : Option State :=
  let ctx := (getB s f.btag).ctx
  let run (s : State) : State := if isScat f.eff then scatRun (effRelease s f) f else effOrder (effRun (effRelease s f) f) f
  match effLog s f with
  | none => some (run s)
  | some e => if replayReady s ctx e then some (run (logged s ctx e)) else none

/-! ### Traces of a revision-1 context -/

/-- Effects that the events of a trace as a whole perform. -/
def inUnit (f x : Flight) : Bool := x.g = f.g && x.tno = f.tno && (match x.eff with | .stn .. => false | .seal .. => false | _ => true)

/-- In a revision-1 context the visible effects of a trace are performed as one, for a commit releases the whole trace (R67, R69), once no effect of an
earlier trace of their lanes is left and all have left the core. (DEDUCED, log 87.) -/
def unitRun (s : State) (f : Flight) : Option State :=
  let us := s.flight.filter (inUnit f)
  let early (u : Flight) : Bool := (s.flight.takeWhile fun x => x != u).any fun x => !inUnit f x && (sameRing s x u || (x.shares u && (decide (x.tno < f.tno) || x.holds u)))
  if us.any early || (restOf s f.g).any fun x => x.tno = f.tno then none
  else (us.foldl (fun (a : Option State) u => a.bind fun s => effOne { s with flight := s.flight.erase u } u) (some s)).map fun s => viewRelease s f.g .dev

/-- Effect i performed, with its trace in a revision-1 context. -/
def effPerform (s : State) (i : Nat) (f : Flight) : State :=
  if rev1 s f then (match unitRun s f with | some t => arriveSweep t f.g | none => s)
  else if !flightReady s i then s
  else match effOne (flightDrop s i) f with | some t => arriveSweep t f.g | none => s

/-- EFFECT_PERFORMED (R53). (DEDUCED, log 21.) -/
def execEffectPerformed (i : Nat) (s : State) : Out :=
  match s.flight[i]? with
  | none => .next s
  | some f => if otherEvent f.eff then .next s else .next (effPerform s i f)

/-- STN_TERM_LAND (R282). -/
def execStnTermLand (i : Nat) (s : State) : Out :=
  match s.flight[i]? with
  | none => .next s
  | some f =>
    match f.eff with
    | .stn a ty d => if flightReady s i then .next (arriveSweep (stnLand (flightDrop s i) f a ty d) f.g) else .next s
    | _ => .next s

/-- The element of a SCAT under its page's translation as it stands, where the page takes it now: it is mapped, may be written, and no checkpoint
holds it (R205, R473). -/
def scatMoved (s : State) (f : Flight) : Option Eff :=
  match f.eff with
  | .scat sp va _ v n =>
    if sp = .spad then some f.eff
    else match walk s (gclu f.g) (getB s f.btag).ctx va with
      | .leaf t _ => if t.w && !heldPage s (t.place va).1 (t.place va).2 then some (.scat (t.place va).1 va (t.place va).2 v n) else none
      | .bad => none
  | e => some e

/-- Elements of SCATs that a resume issued anew are translated then, and wait while a page does not take them (R227); `none` where element f waits.
(DESIGN CHOICE, log 58.) -/
def scatReissue (s : State) (f : Flight) : Option State :=
  let mine (x : Flight) : Bool := x.g = f.g && isScat x.eff && (x = f || (rev1 s f && x.tno = f.tno))
  if !(getG s f.g).rescat then some s
  else if s.flight.any fun x => mine x && (scatMoved s x).isNone then none
  else some { s with flight := s.flight.map fun x => if mine x then { x with eff := (scatMoved s x).getD x.eff } else x }

/-- SCAT_ELEMENT_PERFORM (R226): elements of one SCAT to overlapping bytes in lane order. -/
def execScatElementPerform (i : Nat) (s : State) : Out :=
  match (s.flight[i]?).bind fun f => (scatReissue s f).bind fun t => (t.flight[i]?).map fun x => (x, t) with
  | none => .next s
  | some (f, s) =>
    match f.eff with
    | .scat sp _ pa bytes slot =>
      let lower := (s.flight.take i).any fun x => x.g = f.g && x.tno = f.tno && (match x.eff with
        | .scat sp' _ pa' v' slot' => slot' = slot && sp' = sp && overlapIv (pa', v'.length) (pa, bytes.length)
        | _ => false)
      if lower then .next s else .next (effPerform s i f)
    | _ => .next s

def execSealComplete (i : Nat) (s : State) : Out := .next (sealPerform s i false)
def execUnsealComplete (i : Nat) (s : State) : Out := .next (sealPerform s i true)
def execStepComplete (t : Nat) (s : State) : Out := .next (stepComplete s t)

/-- What a fence of a form waits for (R216, R217): an acquire fence for the lanes' atomics, the others for every effect of theirs; loads
and GATH elements are bound at issue. -/
def fenceOwed (s : State) (g : GKey) (m : Mask) (ord : Ord2) : Bool :=
  s.flight.any fun f => f.g = g && f.lanes &&& m != 0 && (ord != .acq || match f.eff with | .atom .. => true | _ => false)

/-- What a fence orders at its scope: a full or release fence leaves every effect of its group performed for the observers of the
instance and releases, a full or acquire fence acquires (R65, R217). -/
def fenceOrders (s : State) (g : GKey) (m : Mask) (ord : Ord2) (sc : Scope) : State :=
  let s := if ord = .acq then s else viewRelease (viewPerform s g sc) g sc
  if ord = .rel then s else viewAcquire s g m sc

/-- FENCE_COMPLETE (R217). -/
def execFenceComplete (g : GKey) (path : Nat) (s : State) : Out :=
  let q := getG s g
  let p := getP q path
  match p.sync with
  | .fence ord sc =>
    if waitsSync p && !fenceOwed s g p.mask ord then .next (updG (fenceOrders s g p.mask ord sc) g fun q => wakePath q path)
    else .next s
  | _ => .next s

end Sys2Proof.Machine
end

