-- ==== Sys2Proof/Machine/Entry.lean ====
section
/-! DEFINITION. Entering a trace: the choice of a path, the trace-table entry and its checks, the words, the register budget
(R74, R75, R80, R83, R126, R235, R248). -/
namespace Sys2Proof.Machine
open Sys2Proof Sys2Proof.Checks

/-! ### The trace table (R74, R75) -/

/-- A trace-table entry (R74). `sk` is 0 NEXT, 1 SELF, 2 CALL, 3 RET, 4 INDIRECT, 5 EXIT. -/
structure TraceEnt where
  start : Nat
  len : Nat
  sk : Nat
  link : Nat
  eff : Nat
  regs : Nat
  succ : Nat
  retix : Nat
  livx : Nat
  livp : Nat
  rsv : Nat
  deriving DecidableEq, Repr

def traceEntOf (n : Nat) : TraceEnt :=
  { start := nbits n 255 224, len := nbits n 223 216 + 1, sk := nbits n 215 213, link := nbits n 212 207, eff := nbits n 206 202
    regs := nbits n 199 192, succ := nbits n 191 168, retix := nbits n 159 136, livx := nbits n 127 64, livp := nbits n 62 56
    rsv := nbits n 201 200 + nbits n 167 160 + nbits n 135 128 + nbits n 63 63 + nbits n 55 0 }

/-- Check 2 of R75 fails. -/
def TraceEnt.bad (e : TraceEnt) : Bool :=
  e.rsv != 0 || decide (5 < e.sk) || decide (16 < e.eff) || decide (192 < e.regs) || (e.sk != 4 && e.link != 0)
    || (e.sk != 0 && e.sk != 2 && e.succ != 0) || (e.sk != 2 && e.retix != 0)

/-- The trace-table entry of an index, read through the context's tables. -/
def traceEnt (s : State) (b : Batch) (t : Nat) : TraceEnt := traceEntOf (leNat (ctxRead s b.ctx (b.ttBase + 32 * t) 32))

/-- NX of a word, bits 117:116 (R107). -/
def nxOfWord (w : IWord) : Nat := nbits w.toNat 117 116

/-- The words of a trace. (DEDUCED, log 30.) -/
def traceWords (s : State) (b : Batch) (e : TraceEnt) : List IWord :=
  (List.range e.len).map fun i => Decode.wordOfBytes (ctxRead s b.ctx (b.codeBase + e.start + 16 * i) 16)

/-- 128-byte code lines of n bytes. (DEDUCED, log 44.) -/
def codeLines (a n : Nat) : List Nat := (List.range ((a % 128 + n + 127) / 128)).map fun i => a / 128 + i

/-- The key of a group's core. -/
def coreOf (q : Group) : CKey := q.clu * 192 + q.core

def lineOf (s : State) (core : CKey) (ctx line : Nat) : Option CodeLine :=
  s.code.find? fun c => !c.dropped && c.core = core && c.ctx = ctx && c.line = line

/-- The first word that fails R125 on a core of a profile, with its offset and CAUSE (R126). -/
def badWord (p : Profile) : Nat → List IWord → Option (Nat × IWord × Nat)
  | _, [] => none
  | i, w :: r => match Decode.decode p w with | .error c => some (i, w, c.code) | .ok _ => badWord p (i + 1) r

/-- What the entry of a trace finds. -/
inductive EntryRes where
  | trap (t : Trap)
  | fetch (lines : List Nat)
  | ok (e : TraceEnt) (words : List IWord)
  deriving DecidableEq, Repr

/-- The checks of R237, item 1, once the lines that they read are in the core: R75, Code-Poison, R126. (DEDUCED, log 30; DEDUCED, log 44.) -/
def entryCheck (s : State) (q : Group) (t : Nat) : EntryRes :=
  let b := getB s q.btag
  let missing (ls : List Nat) : List Nat := ls.filter fun n => (lineOf s (coreOf q) q.ctx n).isNone
  let tl := codeLines (b.ttBase + 32 * t) 32
  if b.ttNum ≤ t then .trap { code := 2, cause := 1 }
  else if missing tl != [] then .fetch (missing tl)
  else
    let e := traceEnt s b t
    if e.bad then .trap { code := 2, cause := 2 }
    else if e.start % 16 != 0 || decide (b.codeLen < e.start + 16 * e.len) then .trap { code := 2, cause := 3 }
    else
      let cl := codeLines (b.codeBase + e.start) (16 * e.len)
      if missing cl != [] then .fetch (missing cl)
      else
        let ws := traceWords s b e
        let last := nxOfWord (ws.getLast?.getD 0)
        if ws.dropLast.any (fun w => nxOfWord w != 0) || last = 0 then .trap { code := 2, cause := 4 }
        else if (last = 2) != (e.sk = 4) then .trap { code := 2, cause := 5 }
        else
          match cl.find? fun n => match lineOf s (coreOf q) q.ctx n with | some c => c.poison | none => false with
          | some n => .trap { code := 3, addr := n * 128 }
          | none =>
            match badWord q.prof 0 ws with
            | some (i, w, c) => .trap { code := 1, cause := c, off := i, word := w }
            | none => .ok e ws

/-! ### The register budget (R83) -/

/-- Group-registers of a track that no group holds and no trace has reserved. (DEDUCED, log 41.) -/
def trackFree (s : State) (q : Group) : Nat := 192 - trackUse s q.clu q.core q.trk

/-- Keys of the groups of a group's track. -/
def trackGroups (q : Group) : List GKey := (List.range 16).map fun i => gkey q.clu q.core q.trk i

/-- The waiting entry of a track that began to wait first: group, path and time. -/
def oldestWait (s : State) (q : Group) : Option (GKey × Nat × Nat) :=
  ((trackGroups q).map fun g => (List.range 32).map fun i => (g, i)).flatten.foldl (fun a e =>
    let x := getG s e.1
    let p := getP x e.2
    if !x.res || p.state != .budgetWait then a
    else match a with
      | none => some (e.1, e.2, p.since)
      | some b => if p.since < b.2.2 then some (e.1, e.2, p.since) else a) none

/-- A trap of the whole path at entry: no instruction of the trace executes (R75, R126). -/
def entryTrap (s : State) (g : GKey) (i : Nat) (t : Trap) : State :=
  let q := getG s g
  let p := getP q i
  let s := stepOver (setG s g { setP q i noPath with step := if q.step = .off then .off else .idle }) q
  let s : State := if t.code = 3 then
      -- the poisoned copy is dropped before the path re-enters (R248)
      { s with code := s.code.map fun c => if c.core = coreOf q && c.ctx = q.ctx && c.poison && c.line = t.addr / 128 then { c with dropped := true } else c }
    else s
  takeTraps s g p.tix p.mask q ((lanesOf p.mask).map fun l => (l, t))

/-- Lanes of a path begin a trace, which counter 0x00 counts; one whose entry checks trap has not begun. (DESIGN CHOICE, log 97.) -/
def beginTrace (s : State) (g : GKey) (i : Nat) (e : TraceEnt) (words : List IWord) : State :=
  let q := getG s g
  let p := getP q i
  let step := match q.step with | .off => 0 | _ => 5
  let r : Run := { path := i, tix := p.tix, entry := p.mask, exm := p.mask, words := words, sk := e.sk, link := e.link, succ := e.succ
                   retix := e.retix, regs := e.regs, tno := s.serial + 1, rcnt := p.rcnt, vrep := p.vrep, again := p.again, skipB := p.skipB
                   skipW := p.skipW, hold := step }
  let q := setP q i { tix := p.tix, state := .running, mask := p.mask }
  let s := setG s g (perfAdd { q with run := some r, work := q.com, recoveryStop := false } 0 1)
  { s with serial := s.serial + 1, cur := g }

/-- An entry of a group tries to begin its trace; `granted` where the track has granted it its registers. -/
def enterTrace (s : State) (g : GKey) (i : Nat) (granted : Bool) : State :=
  let q := getG s g
  let p := getP q i
  match entryCheck s q p.tix with
  | .trap t => entryTrap s g i t
  | .fetch _ => setG s g (setP q i { p with state := .fetchWait })
  | .ok e ws =>
    if 192 < footprint q.alloc q.com.uni + e.regs then entryTrap s g i { code := 6, cause := 1 }
    else if !granted && ((oldestWait s q).isSome || decide (trackFree s q < e.regs)) then
      { setG s g (setP q i { p with state := .budgetWait, since := s.serial + 1 }) with serial := s.serial + 1 }
    else beginTrace s g i e ws

/-! ### The choice of a path (R80, R235, R458) -/

/-- A parked entry, held or not. -/
def isParked (p : Path) : Bool := p.state = .parked || (p.state = .held && p.ust = .parked)

/-- Smallest index of a parked entry. (DEDUCED, log 42.) -/
def parkedAt (q : Group) : Option Nat := (lowestPath q isParked).map fun i => (getP q i).tix

/-- The entry that the scheduler chooses: of a group in step mode the one that a step command names; else the ready entry
of smallest index, where that is less than every parked one's (R235). (DEDUCED, log 42.) -/
def choosePath (q : Group) : Option Nat :=
  if !q.res || q.run.isSome || q.stopped || q.evict || q.rescat then none
  else
    match q.step with
    | .trace => if (getP q q.stepPath).state = .ready then some q.stepPath else none
    | .inst => if (getP q q.stepPath).state = .ready then some q.stepPath else none
    | .off =>
      if q.debugStop || q.frozen then none
      else
        match lowestPath q fun p => p.state = .ready with
        | none => none
        | some i => match parkedAt q with | some t => if t ≤ (getP q i).tix then none else some i | none => some i
    | _ => none

/-- A group with a parked entry has none to choose, nor one that is chosen and waits: it is to stop with status recovery-stop (R235). (DEDUCED, log 42.) -/
def recoveryDue (q : Group) : Bool :=
  q.res && q.run.isNone && !q.recoveryStop && (parkedAt q).isSome && (choosePath q).isNone
    && !((List.range 32).any fun i => [PState.budgetWait, .fetchWait].contains (getP q i).state)

/-- The group stops with status recovery-stop, where that is due. -/
def recoverySettle (s : State) (g : GKey) : State := updG s g fun q => if recoveryDue q then { q with recoveryStop := true } else q

/-- TRACE_ENTRY (R80). -/
def execTraceEntry (g : GKey) (s : State) : Out :=
  match choosePath (getG s g) with
  | none => .next (recoverySettle s g)
  | some i => .next (enterTrace s g i false)

/-- The first poisoned burst of device memory that a code line of a context stands in. -/
def linePoison (s : State) (ctx line : Nat) : Option Nat :=
  match walk s 0 ctx (line * 128) with
  | .leaf t _ => let x := t.place (line * 128); poisonAt s x.1 x.2 128
  | .bad => none

/-- The error of a core's copy of a code line. -/
def codeErr (core : CKey) (line : Nat) : MemErr :=
  { noErr .code with kind := .codeLine, die := core / 192 / 2, clu := core / 192, core := core % 192, paddr := line * 128 }

/-- A core fetches a code line of its context. One that is uncorrectable in memory arrives poisoned: the error record names the core's copy, and where
the core has dropped such a copy before, the stack (R248). -/
def fetchLine (s : State) (core : CKey) (ctx line : Nat) : State :=
  let bad := linePoison s ctx line
  let mine (c : CodeLine) : Bool := c.dropped && c.core = core && c.ctx = ctx && c.line = line
  let again := s.code.any mine
  let s : State := { s with code := (s.code.filter fun c => !mine c) ++ [{ core := core, ctx := ctx, line := line, poison := bad.isSome }] }
  match bad with
  | some k => logErr s 1 (some ctx) (if again then burstErr (k * 64) else codeErr core line)
  | none => s

/-- TRACE_FETCH_COMPLETE (R79): the lines that the entry misses are in the core, and it may be chosen again. (DEDUCED, log 42.) -/
def execTraceFetchComplete (g : GKey) (path : Nat) (s : State) : Out :=
  let q := getG s g
  if q.res && (getP q path).state = .fetchWait then
    match entryCheck s q (getP q path).tix with
    | .fetch ls =>
      let s := ls.foldl (fun s n => fetchLine s (coreOf q) q.ctx n) s
      match entryCheck s q (getP q path).tix with
      | .fetch _ => .next s
      | _ => .next (updG s g fun q => makeReady q path (getP q path).tix)
    | _ => .next (updG s g fun q => makeReady q path (getP q path).tix)
  else .next s

/-- REGISTER_BUDGET_GRANT (R83). -/
def execRegisterBudgetGrant (g : GKey) (path : Nat) (s : State) : Out :=
  let q := getG s g
  if !q.res || (getP q path).state != .budgetWait || q.run.isSome || q.stopped || q.evict
      || (if q.step = .off then q.debugStop || q.frozen else !stepping q || q.stepPath != path) then .next s
  else
    match oldestWait s q with
    | some (g', i, _) =>
      if g' = g && i = path then
        match entryCheck s q (getP q path).tix with
        | .ok e _ => if e.regs ≤ trackFree s q then .next (perfTime (enterTrace s g path true) g 7) else .next s
        | _ => .next (perfTime (enterTrace s g path true) g 7)
      else .next s
    | none => .next s

end Sys2Proof.Machine
end

