-- ==== Sys2Proof/Machine/Commit.lean ====
section
/-! DEFINITION. The end of a trace: the checks at commit, the commit of the surviving lanes, the discard of the others, the
successors, the synchronising effect, the end of a group (R22, R73, R76, R77, R84 to R90, R221, R231, R237). -/
namespace Sys2Proof.Machine
open Sys2Proof Sys2Proof.Checks

/-! ### How the lanes leave (R86, R237) -/

/-- Lanes that left the mask in a way that `f` picks, with what it finds. -/
def leftLanes {α : Type} (r : Run) (f : Leave → Option α) : List (Nat × α) :=
  allLanes.filterMap fun l => ((sget none r.leaves l).bind f).map fun a => (l, a)

def maskL {α : Type} (ls : List (Nat × α)) : Mask := maskOf fun l => ls.any fun e => e.1 = l

/-- The last word of a trace. -/
def lastWord (r : Run) : IWord := r.words.getLast?.getD 0

/-- A trap at commit names the last instruction of the trace (R239). -/
def endTrap (r : Run) (code cause addr : Nat) : Trap :=
  { code := code, cause := cause, off := r.words.length - 1, addr := addr, word := lastWord r }

/-! ### Checks at commit (step 1 of R86) -/

/-- A page of global memory is sealed as it now stands (R221). -/
def sealedAt (s : State) (ctx va : Nat) : Bool := match walk s 0 ctx va with | .leaf t _ => t.sealed | .bad => false

/-- The first sealed address among n bytes. -/
def firstSealed (s : State) (ctx va n : Nat) : Option Nat :=
  if sealedAt s ctx va then some va
  else if 0 < n && va / 0x4000 != (va + n - 1) / 0x4000 then
    ((List.range ((va + n - 1) / 0x4000 - va / 0x4000)).map fun i => (va / 0x4000 + i + 1) * 0x4000).find? (sealedAt s ctx)
  else none

/-- The sealed address that a buffered effect would write (R221, R316). -/
def effSealed (s : State) (q : Group) (e : Eff) : Option Nat :=
  if q.prof = .mgmt then none
  else
    match e with
    | .store sp va _ v => if sp = .spad then none else firstSealed s q.ctx va v.length
    | .atom sp va _ _ ty _ _ _ => if sp = .spad then none else firstSealed s q.ctx va ((tyBytes ty).getD 4)
    | .scat sp va _ v _ => if sp = .spad then none else firstSealed s q.ctx va v.length
    | .copy c =>
      if c.shadow || !c.toGlobal then none
      else ((List.range (if c.isTile then dRows c.desc else 1)).map fun r => c.segs r).flatten.findSome? fun g => firstSealed s q.ctx (c.vbase + g.1) g.2.2
    | _ => none

/-- The trap of a lane at commit (R77, R221). -/
def commitTrap (s : State) (q : Group) (r : Run) (l : Nat) : Option Trap :=
  let depth := (sget [] q.link l).length
  if r.nx = .stop && r.sk = 2 && decide (16 ≤ depth) then some (endTrap r 8 0 0)
  else if r.nx = .stop && r.sk = 3 && depth = 0 then some (endTrap r 8 1 0)
  else ((r.bufs.filter fun b => b.lanes.getLsbD l).findSome? fun b => effSealed s q b.eff).map fun a => endTrap r 0x0C 0 a

/-- Bits 23:0 of the LINK register of a lane (R76). (DEDUCED, log 38.) -/
def linkVal (q : Group) (r : Run) (l : Nat) : Nat := nbits (rdX q.work l r.link).toNat 23 0

/-- What the end of a trace finds. Lanes that read two versions of an object run again, whichever way they left but for a fault or a stop
(R22). The path reads LINK, which must be uniform and not pending (R76, R101). (DEDUCED, log 38.) -/
def endPlan (s : State) (q : Group) (r : Run) : EndPlan :=
  let left (l : Nat) : Bool := match sget none r.leaves l with | some (.alt _) => true | some (.trap _) => true | _ => false
  let lost := maskOf fun l => r.entry.getLsbD l && (r.exm.getLsbD l || left l) && lostLane s q.ctx r l
  let live := lanesOf (r.exm &&& ~~~lost)
  let traps := live.filterMap fun l => (commitTrap s q r l).map fun t => (l, t)
  let ok := live.filter fun l => !(traps.any fun e => e.1 = l)
  let pending := r.nx = .link && ok.any fun l => rdPend q.work l r.link != 0
  let split := r.nx = .link && ok.any fun l => linkVal q r l != linkVal q r (ok.headD 0)
  if pending || split then { commit := 0, lost := lost, traps := traps ++ ok.map fun l => (l, endTrap r (if pending then 5 else 4) 0 0) }
  else { commit := maskOf fun l => ok.contains l, lost := lost, traps := traps }

/-! ### Waits of a commit -/

/-- The buffered effects of the committing lanes. -/
def commitEffs (r : Run) (c : Mask) : List Buffered :=
  (r.bufs.filter fun b => b.lanes &&& c != 0).map fun b => { b with lanes := b.lanes &&& c }

/-- An effect waits in step 2 for the arrival of a CPBS of its lanes that left before it (R309): accesses do, what touches only the group's own
registers and slots does not. -/
def waitsCpbs : Eff → Bool
  | .cpbs .. => false
  | .qbnd .. => false
  | .wrsr .. => false
  | .prio .. => false
  | _ => true

/-- A SEAL or UNSL of the lanes is on its way whose range their buffered writes meet. They are ordered after it, and so are their checks
(R219, R220, R229). -/
def sealOwed (s : State) (g : GKey) (r : Run) : Bool :=
  s.flight.any fun f => f.g = g && r.bufs.any fun b => b.lanes &&& f.lanes &&& r.exm != 0 && sealMeets f.eff b.eff

/-- Room for one effect where it goes (R293, R328, R347), with no CPBS of its lanes to arrive (R309). -/
def sendRoom (s : State) (g : GKey) (r : Run) (b : Buffered) : Bool :=
  let q := getG s g
  !(waitsCpbs b.eff && cpbsOwed s g b.lanes) && match b.eff with
  | .post .. => floeRoom (getF s (floeOfG q)) [b.eff] && serialRoom s (floeOfG q)
  | .macq .. => floeRoom (getF s (floeOfG q)) [b.eff] && serialRoom s (floeOfG q)
  | .tile _ => floeRoom (getF s (floeOfG q)) [b.eff] && serialRoom s (floeOfG q)
  | .copy c => (s.jobs.any fun j => sameIssue j g r b c q) || decide (copyUsed s (c.engine q) < copyQueue)
  | .shop .. => decide (copyUsed s (coreOf q) < copyQueue)
  | .cpc _ => decide (copyUsed s (coreOf q) < copyQueue)
  | .cpbs .. => decide (copyUsed s (coreOf q) < copyQueue)
  | _ => true

/-- What a synchronising instruction of lanes m needs before it can start: a CPBS of the lanes has arrived (R309), an acquire of theirs is
performed (R63, R385), PUB has an entry of its engine (R293), MSETL a serial (R328). -/
def syncRoom (s : State) (g : GKey) (m : Mask) (y : Option SyncReq) : Bool :=
  let q := getG s g
  match y with
  | none => true
  | some x => !cpbsOwed s g m && !acqOwed s g m && match x.sync with
    | .pub _ => decide (copyUsed s (coreOf q) < copyQueue)
    | .msetl .. => serialRoom s (floeOfG q)
    | _ => true

/-- What a commit waits for before it begins: a scoreboarded LINK (R99), a CPBS of its lanes (R309), an acquire of theirs before a
synchronising effect (R63), a SEAL or UNSL under its writes, room for its first effect, and the lineage entries that it creates (R369). -/
def commitWaits (s : State) (g : GKey) (q : Group) (r : Run) (p : EndPlan) : Bool :=
  let es := commitEffs r p.commit
  let acts := match r.sync with | some y => y.lanes &&& p.commit != 0 | none => false
  (r.nx = .link && (lanesOf r.exm).any fun l => isScored (rdPend q.work l r.link))
    || ((!es.isEmpty || acts) && cpbsOwed s g p.commit) || (acts && acqOwed s g p.commit)
    || sealOwed s g r || !(es.take 1).all (sendRoom s g r) || !linRoom s g es

/-! ### Registers (R94 to R97) -/

/-- The keys `k * lane + _` of committing lanes. -/
def laneKey (c : Mask) (k : Nat) (key : Nat) : Bool := c.getLsbD (key / k)

/-- Allocated registers that are dead or retired in every live lane are freed (R97). -/
def freeDead (q : Group) : Group :=
  let gone := (List.range 64).filter fun k => q.alloc.getLsbD k && (lanesOf q.live).all fun l => sget false q.dead (64 * l + k)
  let m := gone.foldl (fun m k => m ||| BitVec.ofNat 64 (2 ^ k)) (0 : DWord)
  { q with alloc := q.alloc &&& ~~~m, com := { q.com with uni := q.com.uni &&& ~~~m } }

/-- The versions of the committing lanes become current (R94). -/
def commitVals (q : Group) (c : Mask) : Group :=
  if c = 0 then q
  else
    let a := q.work
    let b := q.com
    { q with com := { b with
      x := smerge 0 (laneKey c 64) a.x b.x
      p := smerge false (laneKey c 8) a.p b.p
      pend := smerge 0 (laneKey c 64) a.pend b.pend
      ghost := a.ghost.filter (fun e => laneKey c 64 e.1) ++ b.ghost.filter fun e => !laneKey c 64 e.1
      clk := smerge 0 (laneKey c 1) a.clk b.clk } }

/-- What they wrote is allocated, and their frees by last-read bits take place (R95 to R97). -/
def commitFrees (q : Group) (r : Run) (c : Mask) : Group :=
  if c = 0 then q
  else
    let b := q.com
    let uni := if c = q.live then (q.work.uni &&& r.written) ||| (b.uni &&& ~~~r.written) else b.uni &&& ~~~r.written
    let dyX := r.dyingX.filter fun e => laneKey c 64 e.1 && sget false r.dyingX e.1
    let dyP := r.dyingP.filter fun e => laneKey c 8 e.1 && sget false r.dyingP e.1
    let com : Vers := { b with
      x := dyX.foldl (fun m e => sset 0 m e.1 0) b.x
      p := dyP.foldl (fun m e => sset false m e.1 false) b.p
      uni := uni }
    let dead := (r.wrote.filter fun e => laneKey c 64 e.1 && sget false r.wrote e.1).foldl (fun m e => sset false m e.1 false) q.dead
    let dead := dyX.foldl (fun m e => sset false m e.1 true) dead
    freeDead { q with com := com, alloc := q.alloc ||| r.written, dead := dead }

/-! ### Effects that take place with the commit -/

/-- TEAM (R265): the status. -/
def teamRun (s : State) (g : GKey) (slot : Nat) (b : Word) : Nat × State :=
  let q := getG s g
  let t := getT s (tkey q.clu (b.toNat % 256))
  if 512 ≤ b.toNat || (!b.getLsbD 8 && !(t.v && t.btag = q.btag && t.members.testBit q.gnum)) then (1, s)
  else if (waitingPaths q fun _ => true) != [] then (2, s)
  else (0, updG s g fun q => { q with team := sset 0 q.team slot (if b.getLsbD 8 then 0 else 256 + b.toNat % 256) })

/-- PRIO (R408). -/
def prioRun (s : State) (b : BTag) (lvl : Word) : Word × State :=
  if 4 ≤ lvl.toNat then (0xFFFFFFFF#32, s)
  else (w32 (getB s b).rank, updB s b fun x => { x with rank := lvl.toNat })

/-- GOVH (R416): the table's place, and for a pin the effect on the group's byte in it, where the byte stands in the batch's `spad` bytes. -/
def govhRun (s : State) (g : GKey) (sub addr : Nat) : State × Option Eff :=
  let q := getG s g
  let b := getB s q.btag
  match sub with
  | 0 => (updB s q.btag fun b => { b with gov := some (addr - b.spb) }, none)
  | 3 => (updB s q.btag fun b => { b with gov := none }, none)
  | _ =>
    match b.gov with
    | none => (s, none)
    | some o => (s, if o + 0x90 + q.gnum < b.sps then some (.govh sub (b.spb + o + 0x90 + q.gnum)) else none)

/-- A tile copy binds its slot with the bits of the rows that it does not move (R307). -/
def bindTile (s : State) (g : GKey) (c : CopyReq) : Mask × State :=
  let m := slotStart (getCpb (getG s g) c.slot)
  let m := m ||| ~~~(maskOf fun i => decide (i < dRows c.desc))
  (m, updG s g fun q => setCpb q c.slot (cpbWith m))

/-- A copy goes to its engine: with the other lanes of its instruction, or as an entry of its own (R292, R293). -/
def copyIssue (s : State) (g : GKey) (r : Run) (b : Buffered) (c : CopyReq) : State :=
  let q := getG s g
  let core := c.engine q
  if c.isTile then
    let (m, s) := bindTile s g c
    let j : Job := { core := core, g := g, btag := q.btag, gnum := q.gnum, ctx := q.ctx, lanes := b.lanes, tno := r.tno, items := [c], start := m }
    if m = 0xFFFFFFFF#32 then s else { s with jobs := s.jobs ++ [j] }
  else
    let mine (j : Job) : Bool := sameIssue j g r b c q
    if s.jobs.any mine then
      { s with jobs := s.jobs.map fun j => if mine j then { j with lanes := j.lanes ||| b.lanes, items := j.items ++ [c] } else j }
    else
      { s with jobs := s.jobs ++ [{ core := core, g := g, btag := q.btag, gnum := q.gnum, ctx := q.ctx, lanes := b.lanes, tno := r.tno, items := [c], off := b.off }] }

/-- A committed effect that is performed later. -/
def launchEff (s : State) (g : GKey) (r : Run) (b : Buffered) (e : Eff) : State :=
  let q := getG s g
  { s with flight := s.flight ++ [{
      g := g, btag := q.btag, gnum := q.gnum, lcn := sget 0 q.lcn ((lowLane b.lanes).getD 0), lanes := b.lanes, tno := r.tno, eff := e
      ord := b.ord, scope := b.scope, off := b.off }] }

/-- A WRSR takes effect once its path commits, before the effects leave the core (R155). -/
def wrsrRun (g : GKey) (s : State) (b : Buffered) : State :=
  match b.eff with
  | .wrsr n v => updG s g fun q => if (getCpb q n).st = .bound then q else setCpb q n { val := v, st := .preset }
  | _ => s

/-- One buffered effect of the committing lanes `c` leaves the core (step 2 of R86). -/
def leaveEff (g : GKey) (r : Run) (c : Mask) (s : State) (b : Buffered) : State :=
  match b.eff with
  | .team slot v dst => let x := teamRun s g slot v; deliverAll x.2 g b.lanes dst (w32 x.1)
  | .prio lvl dst => let x := prioRun s (getG s g).btag lvl; deliverAll x.2 g b.lanes dst x.1
  | .govh sub a => let x := govhRun s g sub a; (match x.2 with | some e => launchEff x.1 g r b e | none => x.1)
  | .qbnd n off => updG s g fun q => { q with com := { q.com with
      qb := (lanesOf b.lanes).foldl (fun m l => sset 0 m (4 * l + n) (match off with | some o => o + 1 | none => 0)) q.com.qb } }
  | .wrsr .. => s
  | .bari a slot exp => launchEff s g r b (.bari a (teamSlot (getG s g) slot) exp)
  | .rgn slot place config dst => launchEff s g r b (.rgn (teamSlot (getG s g) slot) place config dst)
  | .post recd x y => postArrive s g c r.tno recd x y
  | .macq h own dst => macqArrive s g b.lanes h own dst
  | .tile t =>
    match t.kind with
    | .mpub => mpubArrive s g b.lanes c r.tno t
    | .mrel => mrelArrive s g b.lanes c r.tno t
    | _ => tileArrive s g b.lanes c r.tno t
  | .tstat tid dst =>
    let q := getG s g
    updF s (floeOfG q) fun f => drainStart f tid q.btag (some (g, b.lanes, dst))
  | .copy x => copyIssue s g r b x
  | .cpbs slot dst =>
    let q := getG s g
    { s with jobs := s.jobs ++ [{ core := coreOf q, g := g, btag := q.btag, gnum := q.gnum, ctx := q.ctx, lanes := b.lanes, tno := r.tno, cpbs := some (slot, dst) }] }
  | .emit _ => s
  | e => launchEff s g r b e

/-- The lanes whose elements of a SCAT commit, of which there may be none (R226). -/
def scatLanes (r : Run) (c : Mask) (n : Nat) : Mask :=
  r.bufs.foldl (fun m b => match b.eff with | .scat _ _ _ _ k => if k = n then m ||| (b.lanes &&& c) else m | _ => m) 0

/-- A SCAT binds its slot as its first element leaves (R226): the mask that it starts from, and the state. -/
def bindScat (s : State) (g : GKey) (r : Run) (c : Mask) (n : Nat) : Word × State :=
  let m := slotStart (getCpb (getG s g) n)
  (m, updG s g fun q => setCpb q n (cpbWith (m ||| ~~~(scatLanes r c n))))

/-- One buffered effect leaves the core; of a SCAT the slot is bound first, and an element whose bit is set is not performed (R226). `bound` holds
the slots that the trace's SCATs have bound. -/
def sendOne (g : GKey) (r : Run) (c : Mask) (bound : List (Nat × Word)) (s : State) (b : Buffered) : State × List (Nat × Word) :=
  match b.eff with
  | .scat _ _ _ _ n =>
    let x := match bound.find? fun e => e.1 = n with
      | some e => (e.2, s, bound)
      | none => let y := bindScat s g r c n; (y.1, y.2, (n, y.1) :: bound)
    (if b.lanes &&& x.1 != 0 then x.2.1 else launchEff x.2.1 g r b b.eff, x.2.2)
  | _ => (leaveEff g r c s b, bound)

/-! ### GATH slots at trace end (R225) -/

/-- Elements of discarded lanes are dropped and their bits set; with every lane discarded the slot is as at trace entry. -/
def endGath (q : Group) (r : Run) (c : Mask) : Group :=
  r.gath.foldl (fun q e =>
    if c = 0 then
      { setCpb q e.1 { val := e.2.2, st := cpbOfCode e.2.1 } with
        sbw := q.sbw.filter (fun x => !(x.1 = 0 && x.2.1 = e.1)), elems := q.elems.filter fun x => x.slot != e.1 }
    else
      let out := r.entry &&& ~~~c
      { setCpb q e.1 (cpbWith ((getCpb q e.1).val ||| out)) with
        sbw := q.sbw.filter fun x => !(x.1 = 0 && x.2.1 = e.1 && out.getLsbD x.2.2.1)
        elems := q.elems.filter fun x => !(x.slot = e.1 && out.getLsbD x.lane) }) q

/-! ### Successors (R76, R77) -/

/-- Where a committing lane goes: an index, or `none` when it retires. -/
def successor (q : Group) (r : Run) (l : Nat) : Option Nat :=
  match r.nx with
  | .quit => none
  | .link => some (linkVal q r l)
  | _ =>
    match r.sk with
    | 0 => some r.succ
    | 1 => some r.tix
    | 2 => some r.succ
    | 3 => some ((sget [] q.link l).headD 0)
    | _ => none

/-- The push of a CALL and the pop of a RET, at commit (R77). -/
def linkStep (q : Group) (r : Run) (c : Mask) : Group :=
  if r.nx != .stop then q
  else
    match r.sk with
    | 2 => { q with link := (lanesOf c).foldl (fun m l => sset [] m l (r.retix :: sget [] m l)) q.link }
    | 3 => { q with link := (lanesOf c).foldl (fun m l => sset [] m l ((sget [] m l).drop 1)) q.link }
    | _ => q

/-- Lanes by their target, lowest lane first. -/
def byTarget (ls : List (Nat × Nat)) : List (Nat × Mask) :=
  (ls.map Prod.snd).eraseDups.map fun t => (t, maskOf fun l => ls.any fun e => e.1 = l && e.2 = t)

/-- Insert lanes that go on at an index: ready, or held after a stepped trace or a HOLD (R458, R459). -/
def insNext (q : Group) (hold : Nat) (ls : List (Nat × Nat)) : Group :=
  (byTarget ls).foldl (fun q e =>
    if hold = 0 then insReady q e.2 e.1
    else insPath q e.2 { tix := e.1 % 2 ^ 24, state := .held, ust := .ready, cause := hold }) q

/-! ### The end of a lane, of a group (R73) -/

/-- Marks in `slotLast` of a slot that a saved group left, and of one whose last group ended without a commit. -/
def slotSaved : Nat := 2 ^ 25
def slotBare : Nat := 2 ^ 25 + 1

/-- The group ends: its tiles are released, its slot is free, its teams lose a live member (R73, R267, R353). -/
def groupEnd (s : State) (g : GKey) (tix : Nat) : State :=
  if (getG s g).prof = .mgmt then mgmtEnd s g
  else
  let s := viewClear (releaseTiles s g) g (BitVec.allOnes 32)
  let q := getG s g
  let gone : Group := { ctx := q.ctx, btag := q.btag, gnum := q.gnum, clu := q.clu, core := q.core, trk := q.trk, slot := q.slot, prof := q.prof }
  let s := setG s g gone
  let s := updB s q.btag fun b => { b with ended := sset false b.ended q.gnum true, groups := b.groups.filter fun e => e.1 != q.gnum }
  let s : State := { s with slotLast := sset 0 s.slotLast g (match q.lastTix with | some t => 1 + t | none => slotBare) }
  let s := if q.step = .off then s else refreeze (stepOver s q) q.btag
  let ks := (s.teams.filter fun e => e.1 / 256 = q.clu && e.2.v && e.2.btag = q.btag && e.2.members.testBit q.gnum).map Prod.fst
  ks.foldl (fun s k => barTeam (setT s k { getT s k with nlive := (getT s k).nlive - 1 }) q.clu (k % 256)) s

/-- Lanes retire (R73): they belong to no path and hold no registers. (DEDUCED, log 39.) -/
def retire (s : State) (g : GKey) (m : Mask) (tix : Nat) : State :=
  if m = 0 || !(getG s g).res then s
  else
    let s := updG s g fun q => freeDead { q with live := q.live &&& ~~~m }
    if (getG s g).live = 0 then groupEnd s g tix else s

/-! ### Faults (R231, R232, R235) -/

/-- The cluster's TLBs hold no translation that has faulted a write (R433). -/
def faultDropped (s : State) (q : Group) (va : Nat) : State :=
  { s with tlb := s.tlb.filter fun t => !(t.clu = q.clu && t.ctx = q.ctx && decide (t.vpage ≤ va) && decide (va < t.vpage + t.size)) }

/-- Lanes that faulted in translation go to replay, or parked in recovery mode, with one fault record. What was sampled of them is sampled again
(R468). -/
def takeFaults (s : State) (g : GKey) (r : Run) (fs : List (Nat × (Nat × AccKind × Bool))) : State :=
  match fs with
  | [] => s
  | (_, va, kind, wr) :: _ =>
    let q := getG s g
    let m := maskL fs
    let recov := (getC s q.ctx).recov
    let i := (emptyPath q).getD 0
    let rc := Nat.min 255 (r.rcnt + 1)
    let sampled := ((r.smp.filter fun e => e.2 &&& m != 0).map Prod.fst).eraseDups
    let q := insPath q m { tix := r.tix, state := if recov then .parked else .replay, rcnt := rc, vrep := r.vrep, again := sampled }
    let s := fs.foldl (fun s e => if e.2.2.2 then faultDropped s q e.2.1 else s) (setG s g (perfAdd q 9 1))
    { s with faults := s.faults ++ [{
        g := g, btag := q.btag, path := i, ctx := q.ctx, va := va, kind := kind, wr := wr, tix := r.tix, rcnt := rc, lanes := m, gnum := q.gnum
        clu := q.clu, core := q.core, trk := q.trk, mgmt := recov }] }

/-! ### The synchronising effect (step 5 of R86) -/

/-- A committed trace starts its synchronising effect for its committed lanes, which stand at `targets`. (DEDUCED, log 39.) -/
def startSync (s : State) (g : GKey) (r : Run) (y : SyncReq) (c : Mask) (targets : List (Nat × Nat)) : State :=
  let q := getG s g
  let ins (s : State) (v : Sync) : State := updG s g fun q => (byTarget targets).foldl (fun q e =>
    let p : Path := { tix := e.1 % 2 ^ 24, state := .syncWait, sync := v, wakeHold := if r.hold = 1 then 0 else r.hold, tno := r.tno, stix := r.tix }
    insPath q e.2 (if r.hold = 1 then { p with state := .held, ust := .syncWait, cause := 1 } else p)) q
  let ready (s : State) : State := updG s g fun q => insNext q r.hold targets
  match y.sync with
  | .none => ready s
  | .step _ tix off word =>
    match teamSlot q y.slot with
    | 0 => ready s
    | t => ins s (.step (t % 256) tix off word)
  | .fwk node a cap =>
    let s := ins s y.sync
    { s with flight := s.flight ++ [{ g := g, btag := q.btag, gnum := q.gnum, lanes := c, tno := r.tno, eff := .fwk node a cap, ord := .rel, scope := .dev }] }
  | .emit node =>
    let items := r.bufs.filterMap fun b => match b.eff with | .emit a => if b.lanes &&& c != 0 then (lowLane b.lanes).map fun l => (l, a) else none | _ => none
    let items := (lanesOf c).filterMap fun l => items.find? fun e => e.1 = l
    let n := (getB s q.btag).node / 4096 * 4096 + node
    { ins s y.sync with emits := s.emits ++ [{ g := g, tno := r.tno, ctx := q.ctx, btag := q.btag, node := n, items := items }] }
  | .sgnl sp a n irq scope =>
    { ins s y.sync with sigs := s.sigs ++ [{ ctx := q.ctx, sp := sp, addr := a, amount := n, irq := irq, g := some (g, r.tno), scope := scope }] }
  | .pub h =>
    let s := ins (hPut s q.ctx (hIdx h) 20 2 3) y.sync
    { s with pubWaits := s.pubWaits ++ [{ g := g, tno := r.tno, ctx := q.ctx, handle := h }] }
  | .msetl t _ =>
    let k := floeOfG q
    let n := (getF s k).serial
    msetlSweep (ins (updF s k fun f => { closeTile f t n with serial := nextSerial n }) (.msetl t n)) k
  | .barArrive a d w => ins (barKnown s q.clu a) (.barArrive a d w)
  | .barWait a t d => ins (barKnown s q.clu a) (.barWait a t d)
  | v => ins s v

/-! ### The boundary that follows (R86, R240, R455, R461) -/

/-- A group with no running trace stops for whatever waits for it: a batch halt, the failure of its context, a stop of the
cluster, a freeze. `disc` is the index of a trace that the stop discarded; `own` says that the group's own path asked for the stop, whose skid is
0 (R455); `at_` is the entry that a stop table names. The skid is a time that the manual leaves open. -/
def boundary (s : State) (g : GKey) (disc : Option Nat) (own : Bool) (at_ : Option Nat) : State :=
  let q := getG s g
  if !q.res || q.run.isSome then s
  else
    let d := getD s q.clu
    let f := fresh s
    let skid := if disc.isSome then 2048 else if own then 0 else f.1.toNat % 2049
    let halting := ((getB s q.btag).halt.isSome || (getC s q.ctx).failed) && !q.stopped
    let debug := (d.stopping || d.stopped) && !q.debugStop
    let s := if halting || debug || q.frozen then f.2 else s
    let s := if halting then updG s g fun q => stopGroup q skid disc else s
    let s := if debug then updG s g fun q => debugStopGroup q skid disc.isSome at_ else s
    if q.frozen then updG s g fun q => freezeGroup q skid disc.isSome at_ else s

/-- The entry that a path stop has left held. -/
def heldAt (q : Group) (r : Run) : Option Nat :=
  match r.pathStop with
  | none => none
  | some p => lowestPath q fun x => x.state = .held && x.tix = r.tix && x.cause = p.cause && x.soff = p.soff

/-- A step command is complete (R458). -/
def stepDone (s : State) (g : GKey) : State :=
  let q := getG s g
  if stepping q then stepOver (setG s g { q with step := .idle, stepRegs := [] }) q else s

/-- Lanes that stopped at a watchpoint or breakpoint stand held, their trace discarded (R454). -/
def holdStopped (q : Group) (r : Run) (m : Mask) : Group :=
  match r.pathStop with
  | none => q
  | some p => insAt q r.path m { tix := r.tix, state := .held, ust := .ready, cause := p.cause, soff := p.soff, wv := p.wpn.isSome
                                 wpn := p.wpn.getD 0, addr := p.addr, disc := true }

/-- Samples of a trace that was discarded whole (R468). -/
def markDisc (s : State) (g : GKey) (tno : Nat) : State :=
  { s with samples := s.samples.map fun x => if x.g = g && x.tno = tno then { x with disc := true } else x }

/-! ### TRACE_COMMIT (R86) -/

/-- Lanes that met version replay, and the objects on which a lane met it twice in a row (R22). -/
def noteLost (s : State) (q : Group) (r : Run) (lost : Mask) : Group :=
  let again := (lanesOf lost).filter fun l => sget 0 q.twice l = r.tix + 1
  { q with
    twice := allLanes.foldl (fun m l => if lost.getLsbD l then sset 0 m l (r.tix + 1) else if r.entry.getLsbD l then sset 0 m l 0 else m) q.twice
    vhold := (q.vhold.filter fun v => !r.entry.getLsbD v.1)
      ++ (again.map fun l => (mixedReads s q.ctx r l).map fun v => (l, r.tix, v.1)).flatten }

/-- Step 2 of R86 begins for lanes `c`: their registers become current, WRSR takes place. -/
def commitStart (s : State) (g : GKey) (r : Run) (p : EndPlan) : State :=
  let c := p.commit
  let old := getG s g
  let q := endGath (commitVals old c) r c
  let q := { q with lcn := (lanesOf c).foldl (fun m l => supd 0 m l (· + 1)) q.lcn }
  let q := linkStep q r c
  let q := if c = 0 then q else { perfAdd (perfAdd q 1 1) 2 (laneCount c) with lastTix := some r.tix }
  let es := commitEffs r c
  updG (es.foldl (wrsrRun g) (setG s g q)) g fun q =>
    { q with run := some { r with sending := some { plan := p, rest := es, com := old.com, link := old.link } } }

/-- The effects leave in buffer order, each when it finds room: what is left, and the slots bound. -/
def sendEffs (g : GKey) (r : Run) (c : Mask) : List (Nat × Word) → State → List Buffered → State × List (Nat × Word) × List Buffered
  | bound, s, [] => (s, bound, [])
  | bound, s, b :: rest =>
    if sendRoom s g r b then let x := sendOne g r c bound s b; sendEffs g r c x.2 x.1 rest else (s, bound, b :: rest)

/-- The SCATs of a committing trace of which no element commits bind their slots, done (R226). -/
def scatsEmpty (g : GKey) (r : Run) (c : Mask) (bound : List (Nat × Word)) (s : State) : State :=
  if c = 0 then s else (r.scats.reverse.filter fun n => !(bound.any fun e => e.1 = n)).foldl (fun s n => (bindScat s g r c n).2) s

/-- The popped records of the committing lanes are retired by a release at cluster scope, and those of the others are full again (R414). -/
def settlePops (s : State) (g : GKey) (r : Run) (c : Mask) : State :=
  let b := getB s (getG s g).btag
  r.pops.foldl (fun s e =>
    if c.getLsbD e.lane then
      launchEff s g r { lanes := laneBit e.lane, eff := .retire (b.spb + e.hdr) e.recd, ord := .rel, scope := .clu, off := r.words.length - 1 } (.retire (b.spb + e.hdr) e.recd)
    else ringSettle s b e false) s

/-- The end of step 2 and steps 3 to 5 of R86. A trace that loses lanes to version replay counts once in counter 8. (DESIGN CHOICE, log 97.) -/
def commitFinish (s : State) (g : GKey) (r : Run) (x : Sending) : State :=
  let p := x.plan
  let c := p.commit
  let q := getG s g
  let old := { q with com := x.com, link := x.link }
  let ret := (lanesOf c).filterMap fun l => (successor { q with link := x.link } r l).map fun t => (l, t)
  let done := maskOf fun l => c.getLsbD l && (successor { q with link := x.link } r l).isNone
  let s := setG s g { setP (commitFrees q r c) r.path noPath with run := none, work := {} }
  let s := settlePops s g r c
  -- steps 4 and 5, the committing lanes
  let s := match r.sync with
    | some y => if y.lanes &&& c != 0 then startSync s g r y c ret else updG s g fun q => insNext q r.hold ret
    | none => updG s g fun q => insNext q r.hold ret
  -- steps 3 and 4, the discarded lanes
  let kept {α : Type} (ls : List (Nat × α)) : List (Nat × α) := ls.filter fun e => !p.lost.getLsbD e.1
  let alts := kept (leftLanes r fun v => match v with | .alt t => some t | _ => none)
  let stopped := leftLanes r fun v => match v with | .stop => some () | _ => none
  let traps := kept (leftLanes r fun v => match v with | .trap t => some t | _ => none)
  let s := updG s g fun q =>
    let q := insNext q r.hold alts
    let q := if p.lost = 0 then q
      else if r.hold != 0 then perfAdd (insNext q r.hold ((lanesOf p.lost).map fun l => (l, r.tix))) 8 1
      else perfAdd (insReadyAs q p.lost r.tix { rcnt := r.rcnt, vrep := Nat.min 255 (r.vrep + 1), again := r.again }) 8 1
    holdStopped (noteLost s q r p.lost) r (maskL stopped)
  let s := takeFaults s g r (leftLanes r fun v => match v with | .fault a k w => some (a, k, w) | _ => none)
  let s := takeTraps s g r.tix r.entry old (sortLanes (traps ++ p.traps))
  let s := if c = 0 then markDisc s g r.tno else s
  stepDone (retire s g done r.tix) g
where
  sortLanes (ts : List (Nat × Trap)) : List (Nat × Trap) := allLanes.filterMap fun l => ts.find? fun e => e.1 = l

/-- What arrivals of a group may now complete. -/
def sweepGroup (s : State) (g : GKey) : State := floeSweep (arriveSweep s g) (floeOfG (getG s g))

/-- Step 2 goes on as far as there is room; after its last effect the commit ends. (DEDUCED, log 88.) -/
def commitGo (s : State) (g : GKey) : State :=
  match (getG s g).run with
  | none => s
  | some r =>
    match r.sending with
    | none => s
    | some x =>
      let c := x.plan.commit
      let y := sendEffs g r c x.bound s x.rest
      if y.2.2.isEmpty && syncRoom y.1 g c (r.sync.filter fun z => z.lanes &&& c != 0) then
        let s := commitFinish (scatsEmpty g r c y.2.1 y.1) g { r with sending := none } x
        sweepGroup (boundary s g none r.pathStop.isSome (heldAt (getG s g) r)) g
      else
        { updG y.1 g (fun q => { q with run := some { r with sending := some { x with rest := y.2.2, bound := y.2.1 } } }) with stalled := true }

/-- TRACE_STALL finds the commit in step 2, where an effect waits for room (R88, R293, R328): the trap takes the lanes that commit, with their
values at trace entry. The effects that have left are performed, the others are dropped. (DESIGN CHOICE, log 101.) -/
def stallSending (s : State) (g : GKey) (r : Run) (x : Sending) : State :=
  let t := endTrap r 7 0 0
  let p : EndPlan := { x.plan with commit := 0, traps := x.plan.traps ++ (lanesOf x.plan.commit).map fun l => (l, t) }
  let s := noteTrap (updG s g fun q => { endGath { q with com := x.com, link := x.link } r 0 with run := some r }) g t
  let s := commitFinish s g { r with sending := none } { x with plan := p, rest := [] }
  sweepGroup (boundary s g none r.pathStop.isSome (heldAt (getG s g) r)) g

/-- TRACE_COMMIT (R86). -/
def execTraceCommit (g : GKey) (s : State) : Out :=
  let q := getG s g
  match q.run with
  | none => .next s
  | some r =>
    if !r.ended || (getP q r.path).state != .running then .next s
    else if r.sending.isSome then .next (commitGo s g)
    else
      let p := endPlan s q r
      if commitWaits s g q r p then .next { s with stalled := true }
      else .next (commitGo (commitStart s g r p) g)

/-! ### A trace discarded whole (R86) -/

/-- The running trace of a group is discarded, unless step 2 of its commit has begun: trapped lanes stand halted, faulted lanes in replay, all others ready at the
trace's index. -/
def discardRun (s : State) (g : GKey) : State :=
  let q := getG s g
  match (if q.inStep2 then none else q.run) with
  | none => s
  | some r =>
    let b := getB s q.btag
    let q := endGath q r 0
    let old := q
    let held := (getP q r.path).state = .held
    let cause := if held then (getP q r.path).cause else r.hold
    let q := { setP q r.path noPath with run := none, work := {} }
    let s := r.pops.foldl (fun s e => ringSettle s b e false) (setG s g q)
    let traps := (leftLanes r fun v => match v with | .trap t => some t | _ => none).filter fun e => !lostLane s q.ctx r e.1
    let faults := leftLanes r fun v => match v with | .fault a k w => some (a, k, w) | _ => none
    let stopped := leftLanes r fun v => match v with | .stop => some () | _ => none
    let back := r.entry &&& ~~~(maskL traps ||| maskL faults ||| maskL stopped)
    let s := updG s g fun q =>
      let q := if held || r.hold != 0 then insAt q r.path back { tix := r.tix, state := .held, ust := .ready, cause := cause, disc := true }
        else insReadyAs q back r.tix { rcnt := r.rcnt, vrep := r.vrep, skipB := r.skipB, skipW := r.skipW, disc := true, again := r.again }
      let q := { q with vhold := q.vhold.filter fun v => !(maskL traps).getLsbD v.1 }
      holdStopped q r (maskL stopped)
    let s := takeFaults s g r faults
    stepDone (markDisc (takeTraps s g r.tix r.entry old traps) g r.tno) g

end Sys2Proof.Machine
end

