-- ==== Sys2Proof/Machine/Halt.lean ====
section
/-! DEFINITION. The batch halt and the return from it: the skid, the records, the handler batches, the responses (R238 to R247,
R284, R285), Trace-Stall (R88), and the arrivals that a group waits for (R100, R140, R208, R225, R432). -/
namespace Sys2Proof.Machine
open Sys2Proof Sys2Proof.Checks

/-! ### Skid (R240) -/

/-- A running trace that has not reached step 2 of its commit is discarded and its group stops (R240). -/
def skidGroup (s : State) (g : GKey) : State :=
  let q := getG s g
  if q.stopped || q.inStep2 then s
  else if atRest q then updG s g stopRest
  else
    let s := discardRun s g
    let tix := match q.run with | some r => r.tix | none => 0
    updG s g fun q => stopGroup q 2048 (some tix)

/-- The skid of a batch is not over: a halt of it, or the failure of its context (R127, R240). -/
def skidOpen (s : State) (b : BTag) : Bool :=
  match (getB s b).halt with
  | some h => !h.expired || (getC s (getB s b).ctx).failed
  | none => (getC s (getB s b).ctx).failed

/-- HALT_SKID_EXPIRY (R127, R240). (DESIGN CHOICE, log 20.) -/
def execHaltSkidExpiry (b : BTag) (s : State) : Out :=
  if !skidOpen s b then .next s
  else
    let s := (residents s b).foldl skidGroup s
    .next (updB s b fun x => { x with halt := x.halt.map fun y => { y with expired := true } })

/-! ### Records and slots (R238, R239) -/

/-- A free slot of a context's trap area. -/
def freeSlot (c : Ctx) : Option Nat := (List.range 64).find? fun k => !c.slots.testBit k

def slotAddr (c : Ctx) (k : Nat) : Nat := c.trapa + 0x8000 * k

/-- Address of the halt table: in the first slot of the halt. -/
def haltTable (c : Ctx) (h : Halt) : Nat := match h.recs with | r :: _ => slotAddr c (r.slot.getD 0) + 0x4000 | [] => 0

/-- The bytes of a slot below the halt table (R238). Above it the table is written, in the first slot of a halt; the other bytes stay as they
were. (DESIGN CHOICE, log 99.) -/
def slotBytes (r : HaltRec) (header : Nat) : List Byte :=
  let mask (k : Nat) : Nat := (maskOf fun l => sget false r.preds (8 * l + k)).toNat
  leBytes 64 header ++ List.replicate 64 0 ++ ((List.range 7).map fun k => leBytes 4 (mask k)).flatten ++ List.replicate 3940 0
    ++ (allLanes.map fun l => BitVec.ofNat 8 (sget 0 r.depths l)) ++ List.replicate 32 0 ++ List.replicate (0x2000 - 0x1040) 0
    ++ ((List.range 64).map fun k => (allLanes.map fun l => leBytes 4 (sget 0 r.regs (64 * l + k)).toNat).flatten).flatten

/-- The bytes of a collision block: its header and its entries (R285). What lies past them in the block stays as it was. (DESIGN CHOICE, log 99.) -/
def blockBytes (c : Nat × List Nat) : List Byte := leBytes 16 c.1 ++ (c.2.map (leBytes 8)).flatten

/-- The header of a record of a halt. (DEDUCED, log 83.) -/
def recHeader (s : State) (b : BTag) (h : Halt) (r : HaltRec) : Nat :=
  trapHeader r (haltTable (getC s (getB s b).ctx) h) h.seq (getB s b).ctx h.recs.length

/-- TRAP_RECORD_WRITE (R238): the first record without a slot takes one; a Plane-Collision's block is written with it. -/
def execTrapRecordWrite (b : BTag) (s : State) : Out :=
  let bt := getB s b
  match bt.halt with
  | none => .next s
  | some h =>
    match h.recs.findIdx? (fun r => r.slot.isNone), freeSlot (getC s bt.ctx) with
    | some i, some k =>
      let c := getC s bt.ctx
      let recs := h.recs.modify i fun r =>
        { r with slot := some k, trap := if r.collision.isSome then { r.trap with addr := c.cola + 1024 * k } else r.trap }
      let h := { h with recs := recs }
      let s := updC s bt.ctx fun c => { c with slots := c.slots + 2 ^ k }
      let s := updB s b fun x => { x with halt := some h }
      match recs[i]? with
      | none => .next s
      | some r =>
        let s := ctxWrite s bt.ctx (slotAddr c k) (slotBytes r (recHeader s b h r))
        .next (match r.collision with
          | some x => ctxWrite s bt.ctx (c.cola + 1024 * k) (blockBytes x)
          | none => s)
    | _, _ => .next s

/-! ### The halt table and the handler batches (R241, R242) -/

def hasHalted (q : Group) : Bool :=
  (List.range 32).any fun i => (getP q i).state = .halted || ((getP q i).state = .held && (getP q i).ust = .halted)

/-- The entry of a group in the halt table (R241), written at the end of the halt: lanes that have become ready since the stop count, but beside
a trace that the stop discarded. (DEDUCED, log 61.) -/
def haltEntry (q : Group) : Nat :=
  let q := if q.hdisc then q else stopGroup q q.hskid none
  fieldAt 104 24 q.stopTix + fieldAt 100 4 q.stopState.code + fieldAt 88 12 q.hskid + (if q.hdisc then 2 ^ 87 else 0)
    + (if hasHalted q then 2 ^ 86 else 0) + (if q.live != 0 then 2 ^ 85 else 0) + q.live.toNat

/-- A group of a batch that has not ended, resident or taken by partial eviction. -/
def groupOf (s : State) (b : BTag) (n : Nat) : Option Group :=
  let mine (q : Group) : Bool := q.btag = b && q.gnum = n
  (((residents s b).map (getG s)).find? mine).orElse fun _ => ((s.saved.map Saved.groups).flatten).find? mine

/-- The halt table: 16 bytes for each group of the batch. (DEDUCED, log 61.) -/
def haltTableBytes (s : State) (b : BTag) : List Byte :=
  ((List.range (getB s b).ngroups).map fun n =>
    match groupOf s b n with
    | some q => leBytes 16 (haltEntry q)
    | none => leBytes 16 0).flatten

/-- Every group of a batch has stopped, every step that is complete has made its swap (R287), and every effect that a group committed is
performed, which the launch of the handlers carries (R242). -/
def haltQuiet (s : State) (b : BTag) : Bool :=
  (residents s b).all (fun g => (getG s g).stopped) && !(s.flight.any fun f => f.btag = b)
    && !(s.sigs.any fun d => match d.g with | some e => (residents s b).contains e.1 | none => false)
    && !(s.saved.any fun x => x.btag = b && !x.scats.isEmpty)
    && !(s.teams.any fun e => e.2.v && e.2.btag = b && e.2.narr != 0 && e.2.narr = e.2.nlive)

/-- HALT_COMPLETE (R242): every group has stopped and every record is written. The launch of the handlers is a release at device scope. -/
def execHaltComplete (b : BTag) (s : State) : Out :=
  let bt := getB s b
  match bt.halt with
  | none => .next s
  | some h =>
    let c := getC s bt.ctx
    if h.running || h.recs.isEmpty || c.failed || h.recs.any (fun r => r.slot.isNone) || !haltQuiet s b then .next s
    else
      let s := (residents s b).foldl (fun s g => viewRelease s g .dev) s
      let s := h.recs.foldl (fun s r => ctxWrite s bt.ctx (slotAddr c (r.slot.getD 0)) (leBytes 64 (recHeader s b h r))) s
      let s := ctxWrite s bt.ctx (haltTable c h) (haltTableBytes s b)
      let box (i : Nat) (r : HaltRec) : List Byte := leBytes 8 (slotAddr c (r.slot.getD 0)) ++ leBytes 4 h.seq ++ leBytes 4 i
      let s := updB s b fun x => { x with halt := some { h with running := true } }
      .next ((h.recs.zip (List.range h.recs.length)).foldl (fun s e =>
        let n := nextCorr s
        let q := nodeSeq n.2 bt.ctx (nbits c.trapn 19 0)
        { q.2 with formed := n.2.formed ++ [{
            ctx := bt.ctx, node := nbits c.trapn 19 0, seq := q.1, recs := [{ bytes := box e.2 e.1, origins := bt.origins, prio := bt.prio }], prio := bt.prio
            corr := n.1, parent := some (b, e.2) }] }) s)

/-! ### The responses (R244, R245, R286) -/

/-- The response of a slot. -/
def response (s : State) (ctx : Nat) (slot : Nat) : Nat := leNat (ctxRead s ctx (slotAddr (getC s ctx) slot + 0x40) 64)

/-- A reserved bit of a response is set. -/
def respBad (n : Nat) : Bool := nbits n 511 128 != 0 || nbits n 32 2 != 0

/-- Registers and predicates that a response writes back, as committed values (R245). -/
def writeBack (s : State) (ctx slot : Nat) (n : Nat) (m : Mask) (q : Group) : Group :=
  let base := slotAddr (getC s ctx) slot
  let wbx := nbits n 127 64
  let ks := (List.range 64).filter fun k => wbx.testBit k
  let com := ks.foldl (fun v k =>
    let ws := ctxRead s ctx (base + 0x2000 + 128 * k) 128
    (lanesOf m).foldl (fun v l => wrX v l k (w32 (leNat ((ws.drop (4 * l)).take 4)))) v) q.com
  let com := ((List.range 7).filter fun k => n.testBit (33 + k)).foldl (fun v k =>
    let w := leNat (ctxRead s ctx (base + 0x80 + 4 * k) 4)
    (lanesOf m).foldl (fun v l => wrP v l k (w.testBit l)) v) com
  let mk := BitVec.ofNat 64 wbx
  let dead := ks.foldl (fun d k => (lanesOf m).foldl (fun d l => sset false d (64 * l + k) false) d) q.dead
  { q with com := { com with uni := com.uni &&& ~~~mk }, alloc := q.alloc ||| mk, dead := dead }

/-- Lanes of halted entries go on, in ready entries, or held beneath a hold of the debugger. -/
def haltedNext (q : Group) (m : Mask) (t : Option Nat) : Group :=
  (List.range 32).foldl (fun q i =>
    let p := getP q i
    let x := p.mask &&& m
    if x = 0 || !(p.state = .halted || (p.state = .held && p.ust = .halted)) then q
    else
      let rest := p.mask &&& ~~~x
      let q := setP q i (if rest = 0 then noPath else { p with mask := rest })
      match t with
      | none => q
      | some t => if p.state = .held then insPath q x { p with tix := t % 2 ^ 24, ust := .ready } else insReady q x t) q

/-- One response applied to its lanes. -/
def applyResponse (s : State) (r : HaltRec) (ctx : Nat) : State :=
  let slot := r.slot.getD 0
  let n := response s ctx slot
  if r.lanes = 0 then s
  else
    match nbits n 1 0 with
    | 2 => sweepGroup (retire (updG s r.g fun q => haltedNext q r.lanes none) r.g r.lanes r.tix) r.g
    | d => updG s r.g fun q => haltedNext (writeBack s ctx slot n r.lanes q) r.lanes (some (if d = 0 then r.tix else nbits n 63 40))

/-- A group of a resumed batch may run again, as far as the halt goes. -/
def resumeGroup (q : Group) : Group :=
  { q with stopped := false, hdisc := false, hskid := 0, stopTix := 0, stopState := .empty }

/-- The entry of a fault record is in replay or parked, held or not. -/
def inReplay (p : Path) : Bool :=
  p.state = .replay || p.state = .parked || (p.state = .held && (p.ust = .replay || p.ust = .parked))

/-- The halted entry of an unresolvable fault. -/
def replayHalted (q : Group) (i : Nat) : Group :=
  let p := getP q i
  setP q i (if p.state = .held then { p with ust := .halted } else { p with state := .halted })

/-- An answer Unresolvable can take effect: the batch is resident, its group in its slot or taken by partial eviction, and no handler of it runs
(R233, R247). -/
def unresReady (s : State) (f : FaultRec) : Bool :=
  let b := getB s f.btag
  b.res && !b.halt.any Halt.running && inReplay (getP (getOwn s f.g f.btag f.gnum) f.path)

/-- Translation for every lane of a replay entry (R233). -/
def unresolve (s : State) (f : FaultRec) : State :=
  let q := getOwn s f.g f.btag f.gnum
  let s : State := { s with faults := s.faults.filter fun x => x != f }
  addRec (updOwn s f.g f.btag f.gnum fun q => replayHalted q f.path) f.btag {
    g := f.g, path := f.path, lanes := f.lanes, exms := f.lanes, tix := f.tix
    trap := { code := 0x0B, addr := s.regs.frbase.toNat + 32 * f.idx.getD 0 }, gnum := q.gnum, clu := q.clu, core := q.core, trk := q.trk
    regs := q.com.x.filter fun e => f.lanes.getLsbD (e.1 / 64)
    preds := q.com.p.filter fun e => f.lanes.getLsbD (e.1 / 8)
    depths := q.link.map fun e => (e.1, e.2.length) }

/-- Answers that have waited take effect where they now can (R233, R247). (DEDUCED, log 61.) -/
def unresSweep (s : State) : State :=
  (s.faults.filter FaultRec.unres).foldl (fun s f => if unresReady s f then unresolve s f else s) s

/-- The groups that a halt's records name are where their records say. -/
def namedHere (s : State) (b : BTag) (h : Halt) : Bool :=
  h.recs.all fun r => r.lanes = 0 || ((residents s b).contains r.g && (getG s r.g).gnum = r.gnum)

/-- The groups of a batch go on after its halt; the handlers' end is a release at device scope that they acquire (R245). -/
def resumeBatch (s : State) (b : BTag) : State :=
  let s : State := { s with saved := s.saved.map fun x => if x.btag = b then { x with groups := x.groups.map resumeGroup } else x }
  (residents s b).foldl (fun s g => updG (viewClear s g (BitVec.allOnes 32)) g resumeGroup) s

/-- HALT_RESUME (R245): every handler batch of the halt has ended. A response waits for a group that partial eviction has taken. -/
def execHaltResume (b : BTag) (s : State) : Out :=
  let bt := getB s b
  match bt.halt with
  | none => .next s
  | some h =>
    if !h.running || h.recs.any (fun r => !r.ended) || (getC s bt.ctx).failed || !namedHere s b h then .next s
    else
      match h.recs.find? fun r => respBad (response s bt.ctx (r.slot.getD 0)) || nbits (response s bt.ctx (r.slot.getD 0)) 1 0 = 3 with
      | some r =>
        let reason := if respBad (response s bt.ctx (r.slot.getD 0)) then 2 else 3
        .next (failCtx s bt.ctx reason 0 (r.slot.getD 0) h.seq (recHeader s b h r) 0)
      | none =>
        let s := h.recs.foldl (fun s r => applyResponse s r bt.ctx) s
        let s := updC s bt.ctx fun c => { c with slots := h.recs.foldl (fun m r => setField m (r.slot.getD 0) 1 0) c.slots }
        let s := updB s b fun x => { x with halt := none }
        .next (unresSweep (resumeBatch s b))

/-! ### Trace-Stall (R88) -/

/-- TRACE_STALL: the trap takes every lane still in EXM at the point that the path has reached. Where no trace of the group runs, the bound of a
hold after version replay has passed (R22). -/
def execTraceStall (g : GKey) (s : State) : Out :=
  let q := getG s g
  match q.run with
  | none => .next (updG s g fun q => { q with vhold := [] })
  | some r =>
    if (getP q r.path).state != .running || r.exm = 0 then .next s
    else if let some x := r.sending then .next (stallSending s g r x)
    else
      let off := Nat.min r.off (r.words.length - 1)
      .next (pathTrap s g { code := 7, off := off, word := r.words.getD off 0 })

/-! ### Arrivals at a group -/

/-- RESULT_ARRIVAL (R100): a load's result arrives in one register of one lane. (DESIGN CHOICE, log 20; DEDUCED, log 22.) -/
def execResultArrival (g : GKey) (lane reg : Nat) (s : State) : Out :=
  .next { stepSettle (settlePend s g lane reg) g with stalled := false }

/-- LDS_WAKE (R208): the stalled group is given its turn, and its load is tried again. -/
def execLdsWake (g : GKey) (s : State) : Out :=
  if (getG s g).run.isSome then .next { s with cur := g, stalled := false } else .next s

/-- RING_POP_GRANT (R414): the stalled read is tried again. -/
def execRingPopGrant (g : GKey) (s : State) : Out := execLdsWake g s

/-- YLD_TIMEOUT (R140). -/
def execYldTimeout (g : GKey) (s : State) : Out := .next (updG s g fun q => { q with yielded := false })

/-- GATH_ELEMENT_ARRIVAL (R225): the element of a lane arrives, in each register that it takes, and its bit is set. -/
def execGathElementArrival (g : GKey) (slot lane : Nat) (s : State) : Out :=
  let q := getG s g
  let mine (x : Nat × Nat × Nat × Nat × Word) : Bool := x.1 = 0 && x.2.1 = slot && x.2.2.1 = lane
  let es := q.sbw.filter mine
  if es.isEmpty then .next s
  else
    let s := updG s g fun q => { q with sbw := q.sbw.filter (fun x => !mine x), elems := q.elems.filter fun x => !(x.slot = slot && x.lane = lane) }
    let s := es.foldl (fun s x => deliver s g lane x.2.2.2.1 x.2.2.2.2) s
    .next { stepSettle (cpbSet s g slot (laneBit lane)) g with stalled := false }

/-- Addresses of the entries that a walk reads (R432). -/
def walkReads (s : State) (va : Nat) : List (Nat × Nat × Nat) → Nat → List Nat
  | [], _ => []
  | (lo, n, lvl) :: r, base =>
    let at_ := base + 8 * nbits va (lo + n - 1) lo
    if devEnd ≤ at_ then []
    else match pteTable lvl (leNat (memRead s.dmem at_ 8)) with
      | some pa => at_ :: walkReads s va r pa
      | none => [at_]

/-- A group meets the fault of its walk. -/
def walkFaults (s : State) (w : Walk) (wr : Bool) : State :=
  match w.g with
  | none => s
  | some g => updG s g fun q => { q with walkFault := (w.va / 16384, wr) :: q.walkFault }

/-- One request answered: the TLBs of its cluster and core hold the translation, unless it is a write that it faults (R432, R433). PRF loads the
line with it (R222). -/
def walkAnswer (s : State) (w : Walk) : State :=
  match walk s w.clu w.ctx w.va with
  | .bad => walkFaults s w false
  | .leaf t _ =>
    if w.wr && !t.w then walkFaults s w true
    else
      let s := tlbPut (tlbPut s t) { t with core := some w.core }
      if w.g.isSome then s else touch s .read (t.place w.va).1 ((t.place w.va).2 / 128 * 128)

/-- PAGE_WALK_COMPLETE (R432, R433): a walk of the die answers all who asked for its page. (DEDUCED, log 24.) -/
def execPageWalkComplete (i : Nat) (s : State) : Out :=
  match s.walks[i]? with
  | none => .next s
  | some w =>
    if !walkRuns s w then .next s
    else
      let at_ := walkReads s w.va ptLevels (getC s w.ctx).ptroot
      let all := s.walks.filter w.same
      let s := touchAll { s with walks := s.walks.filter fun x => !w.same x, stalled := false } .read .dev at_
      let s := at_.foldl (fun s a => readPoison s w.ctx .dev a 8) s
      .next (all.foldl walkAnswer s)

end Sys2Proof.Machine
end

