-- ==== Sys2Proof/Machine/Launch.lean ====
section
/-! DEFINITION. The command processor and the distributor: queues, packets, completion signals, packages, bins, batches, the
records that a batch emits or withdraws, ring tickets and the governor (R386 to R417, R466). -/
namespace Sys2Proof.Machine
open Sys2Proof Sys2Proof.Checks

/-! ### Queues (R387, R388) -/

def getQ (s : State) (q : Nat) : Queue := sget noQueue s.queues q
def setQ (s : State) (q : Nat) (v : Queue) : State := { s with queues := sset noQueue s.queues q v }
def updQ (s : State) (q : Nat) (f : Queue → Queue) : State := setQ s q (f (getQ s q))

/-- Address of the descriptor of a queue (R480). -/
def queueDesc (s : State) (q : Nat) : Nat := s.regs.qtbase.toNat + 64 * q

/-- The device writes RIDX. -/
def putRidx (s : State) (q n : Nat) : State :=
  { updQ s q (fun k => { k with ridx := n }) with dmem := memWrite s.dmem (queueDesc s q + 0x10) (leBytes 8 n) }

/-- A descriptor that may not be made resident (R387). -/
def queueDescBad (d : Nat) : Bool :=
  let size := nbits d 95 64
  nbits d 127 99 != 0 || nbits d 511 272 != 0 || nbits d 63 0 % 64 != 0 || !((List.range 13).any fun k => size = 2 ^ (k + 4))

/-- A queue that another context takes over starts afresh (R9). -/
def queueFor (k : Queue) (ctx : Nat) : Queue :=
  if k.ctx = ctx then k else { k with inProg := [], waiting := false, stopped := false }

/-- Nothing that the queue's earlier context has under way completes a packet of the queue that the next one finds (R9). -/
def queueTaken (s : State) (q : Nat) : State :=
  { s with
    sigs := s.sigs.map fun d => if d.pkt.any (fun p => p.1 = q) then { d with pkt := none } else d
    dispatches := s.dispatches.map fun d => if d.q = q then { d with away := true } else d }

/-- A malformed queue is reported, for its context (R387). -/
def queueReport (s : State) (q ctx : Nat) : State :=
  { updQ s q (fun k => { k with bad := some ctx }) with reports := s.reports ++ [.queueMalformed q] }

/-- A queue whose descriptor is sound. -/
def queueSound (s : State) (q : Nat) : State := if (getQ s q).bad.isSome then updQ s q fun k => { k with bad := none } else s

/-- The queue with the fields of its descriptor. -/
def queueRead (s : State) (q : Nat) : Queue :=
  let d := leNat (memRead s.dmem (queueDesc s q) 64)
  { queueFor (getQ s q) (nbits d 271 256) with
    ctx := nbits d 271 256, rbase := nbits d 63 0, rsize := nbits d 95 64, prio := nbits d 97 96, enabled := d.testBit 98
    ridx := nbits d 191 128, widx := nbits d 255 192 }

/-- The value that a signal holds (R391). -/
def signalValue (s : State) (ctx a : Nat) : Nat := leNat (ctxRead s ctx a 8)

/-- Condition of a WAIT (R389). -/
def waitHolds (cond x v : Nat) : Bool :=
  match cond with
  | 0 => x = v
  | 1 => x != v
  | 2 => decide (x < v)
  | _ => decide (v ≤ x)

/-- Bytes a, a + 1, ... of a packet as a number. -/
def pkt (bs : List Byte) (a n : Nat) : Nat := leNat ((bs.drop a).take n)

/-- The WAIT at which a queue stands meets its condition. -/
def waitMet (s : State) (q : Queue) : Bool :=
  match q.inProg.find? fun p => p.op = 3 with
  | some p => waitHolds (pkt p.bytes 24 1) (signalValue s q.ctx (pkt p.bytes 8 8)) (pkt p.bytes 16 8)
  | none => true

/-- A queue has a packet to parse (R388). -/
def queueReady (s : State) (q : Queue) : Bool := if q.waiting then waitMet s q else decide (q.ridx < q.widx)

/-- The order of preference of R388. -/
def queueLe (a b : Nat × Queue) : Bool :=
  let key (k : Queue) : Nat × Nat := (if k.resident then 1 else 0, k.outSince)
  if a.2.prio != b.2.prio then decide (b.2.prio < a.2.prio)
  else decide ((key a.2).1 < (key b.2).1) || ((key a.2).1 = (key b.2).1 && decide ((key a.2).2 ≤ (key b.2).2))

def queueInsert (a : Nat × Queue) : List (Nat × Queue) → List (Nat × Queue)
  | [] => [a]
  | b :: r => if queueLe b a then b :: queueInsert a r else a :: b :: r

/-- Queues by preference. -/
def queueSort (l : List (Nat × Queue)) : List (Nat × Queue) := l.foldl (fun acc a => queueInsert a acc) []

/-- Fill the 32 slots again (R388): first the queues with a packet to parse, then those that stand at a WAIT. (DEDUCED, log 54.) -/
def quantum (s : State) : State :=
  let all := (List.range s.regs.qtn.toNat).map fun q => (q, queueRead s q)
  let bad := all.filter fun e => e.2.enabled && queueDescBad (leNat (memRead s.dmem (queueDesc s e.1) 64))
  let ok := all.filter fun e => e.2.enabled && !queueDescBad (leNat (memRead s.dmem (queueDesc s e.1) 64)) && !e.2.stopped
    && (getC s e.2.ctx).bound && !(getC s e.2.ctx).stoppedQueues
  let ready := ok.filter fun e => queueReady s e.2
  let waits := ok.filter fun e => e.2.waiting && !queueReady s e.2
  let chosen := (queueSort ready ++ queueSort waits).take 32
  let names := chosen.map Prod.fst
  let kept := (s.queues.filter fun e => e.2.resident && names.contains e.1).map fun e => e.2.slot
  let free := (List.range 32).filter fun i => !kept.contains i
  let now := s.serial + 1
  let s := (all.filter fun e => e.2.enabled && e.2.ctx != (getQ s e.1).ctx).foldl (fun s e => queueTaken s e.1) s
  let s := ok.foldl (fun s e => queueSound s e.1) s
  let s := (bad.filter fun e => (getQ s e.1).bad != some e.2.ctx).foldl (fun s e => queueReport s e.1 e.2.ctx) s
  let s : State := { s with
    serial := now
    queues := s.queues.map fun e => (e.1, if e.2.resident && !names.contains e.1 then { e.2 with resident := false, outSince := now } else e.2) }
  (chosen.foldl (fun (a : State × List Nat) e =>
    if (getQ a.1 e.1).resident then (setQ a.1 e.1 { e.2 with bad := none }, a.2)
    else (setQ a.1 e.1 { e.2 with bad := none, resident := true, slot := a.2.headD 0 }, a.2.drop 1)) (s, free)).1

def execQueueQuantumExpiry (s : State) : Out := .next (quantum s)

/-- QUEUE_DOORBELL (R387, R480). -/
def execQueueDoorbell (q : Nat) (s : State) : Out :=
  if q < s.regs.qtn.toNat then .next (updQ s q fun k => { k with widx := (queueRead s q).widx }) else .next s

/-! ### Completion signals (R391 to R393) -/

/-- A decrement of a signal is on its way. One that no page holds is never made, and its packet is complete. (DEDUCED, log 55.) -/
def sigStart (s : State) (ctx a n : Nat) (pk : Option (Nat × Nat)) : State :=
  match walk s 0 ctx a with
  | .leaf t _ => { s with sigs := s.sigs ++ [{ ctx := ctx, sp := (t.place a).1, addr := (t.place a).2, amount := n, pkt := pk }] }
  | .bad =>
    match pk with
    | some (q, i) => updQ s q fun k => { k with inProg := k.inProg.filter fun p => p.idx != i }
    | none => s

/-- A decrement releases what its sender has seen performed: SGNL at its scope, the command processor to the system (R65, R407). -/
def sigRelease (s : State) (d : SigDec) : State :=
  match d.g with
  | some (g, _) => viewRelease s g d.scope
  | none => viewReleaseCp s

/-- The atomic on VALUE and the interrupt (R392). It goes through the cache of its stack, and poison fails the context (R428, R438).
The code-page set does not stop it. (DESIGN CHOICE, log 104.) -/
def sigRun (s : State) (d : SigDec) : State :=
  let s := viewSeen (sigRelease s d) d.sp d.addr 8
  let s := readPoison (touch s .read d.sp d.addr) d.ctx d.sp d.addr 16
  let old := leNat (spaceRead s d.sp d.addr 16)
  let v := nbits old 63 0
  let new := ofSigned 64 ((v : Int) - (d.amount : Int))
  let fire := old.testBit 127 && ((v != 0 && new = 0) || d.irq)
  let s := spaceWrite s d.sp d.addr (leBytes 8 new)
  { s with msix := if fire then s.msix ++ [nbits old 106 96] else s.msix }

/-- SIGNAL_DECREMENT (R392, R407): the decrement, and what waited for it. -/
def execSignalDecrement (i : Nat) (s : State) : Out :=
  match s.sigs[i]? with
  | none => .next s
  | some d =>
    if (match d.g with | some (g, tno) => !effectsDone s g tno | none => false) then .next s
    else
      let s := sigRun { s with sigs := s.sigs.eraseIdx i } d
      let s := match d.g with | some (g, tno) => wakeTrace s g tno | none => s
      .next (match d.pkt with
        | some (q, k) => updQ s q fun x => { x with inProg := x.inProg.filter fun p => p.idx != k }
        | none => s)

/-! ### Packets (R389, R390) -/

/-- Bytes a, ..., 63 of a packet are reserved. -/
def zeroFrom (bs : List Byte) (a : Nat) : Bool := (bs.drop a).all (· = 0)
def zeroBytes (bs : List Byte) (a n : Nat) : Bool := ((bs.drop a).take n).all (· = 0)

/-- A packet that stops its queue (R389). -/
def pktBad (s : State) (ctx : Nat) (bs : List Byte) : Bool :=
  let h := pkt bs 0 8
  let sig (a : Nat) : Bool := pkt bs a 8 % 16 != 0
  nbits h 63 9 != 0 ||
  match nbits h 7 0 with
  | 0 => !zeroFrom bs 8
  | 1 => pkt bs 8 8 % 16 != 0 || pkt bs 16 4 = 0 || decide (65536 < pkt bs 16 4) || decide (2 ^ 20 ≤ pkt bs 20 4)
      || (findNode (getC s ctx) (pkt bs 20 4)).isNone || sig 24 || !zeroFrom bs 32
  | 2 => sig 8 || !zeroFrom bs 24
  | 3 => sig 8 || decide (3 < pkt bs 24 1) || !zeroFrom bs 25
  | 4 => sig 24 || !zeroBytes bs 16 8 || !zeroFrom bs 32
  | 5 => sig 32 || !zeroFrom bs 40
  | 6 => sig 32 || !zeroBytes bs 12 12 || !zeroFrom bs 40
  | _ => true

/-- The packet at which a queue stands and that may start (R390). -/
def headPkt (s : State) (q : Nat) : Option (List Byte) :=
  let k := getQ s q
  let c := getC s k.ctx
  if !k.resident || k.stopped || k.waiting || !c.bound || c.failed || c.stoppedQueues || c.unbinding || (getK s k.ctx).cutting || k.widx ≤ k.ridx then none
  else
    let bs := ctxRead s k.ctx (k.rbase + 64 * (k.ridx % k.rsize)) 64
    if (pkt bs 0 8).testBit 8 && !k.inProg.isEmpty then none else some bs

/-- Package numbers that a context has free. (DESIGN CHOICE, log 52.) -/
def freeNums (c : Ctx) : List Nat := (List.range 256).filter fun n => c.pkgs.all fun p => p.num != n

/-- OP of a packet. -/
def pktOp (bs : List Byte) : Nat := nbits (pkt bs 0 8) 7 0

/-- The queue has a packet that may start. A LOAD waits while every package number is in use. (DEDUCED, log 53.) -/
def canStart (s : State) (q : Nat) : Bool :=
  match headPkt s q with
  | none => false
  | some bs => pktOp bs != 5 || pktBad s (getQ s q).ctx bs || !(freeNums (getC s (getQ s q).ctx)).isEmpty

/-- Order in which the lanes of a parse step act: OP, then slot (R390). -/
def parseKey (s : State) (q : Nat) : Nat := (match headPkt s q with | some bs => pktOp bs | none => 0) * 32 + (getQ s q).slot

/-- A parse step: the queues that have a packet that may start, in the order in which their lanes act (R390). -/
def parseStep (s : State) : List Nat :=
  ((s.queues.map Prod.fst).filter (canStart s)).foldl (fun acc q =>
    acc.filter (fun x => decide (parseKey s x ≤ parseKey s q)) ++ q :: acc.filter fun x => decide (parseKey s q < parseKey s x)) []

/-- The queues whose lanes have still to act in the parse step that is under way. -/
def parseLeft (s : State) : List Nat := s.parse.filter (canStart s)

/-- The queue whose lane acts next: of the parse step under way, or of the one that follows it. -/
def parseTurn (s : State) : Option Nat := (if (parseLeft s).isEmpty then parseStep s else parseLeft s).head?

/-- The lane of `parseTurn` takes its packet. -/
def parseTake (s : State) : State :=
  if (parseLeft s).isEmpty then { s with parse := (parseStep s).tail, parseNo := s.parseNo + 1 } else { s with parse := (parseLeft s).tail }

/-- Start the packet of an operation at the head of a queue when its lane's turn has come (R390): it is parsed, RIDX moves on, and `run` does its
work. A malformed packet stops the queue. -/
def startPkt (s : State) (q op : Nat) (run : State → Nat → List Byte → State) : Out :=
  match headPkt s q with
  | none => .next s
  | some bs =>
    let k := getQ s q
    if parseTurn s != some q then .next s
    else if pktBad s k.ctx bs && (pktOp bs = op || 6 < pktOp bs) then
      .next { updQ (parseTake s) q (fun k => { k with stopped := true }) with reports := s.reports ++ [.packetMalformed q k.ridx] }
    else if pktOp bs = op then
      let s := parseTake s
      let s := updQ (putRidx s q ((k.ridx + 1) % 2 ^ 64)) q fun x => { x with inProg := x.inProg ++ [{ idx := k.ridx, op := op, bytes := bs, step := s.parseNo }] }
      .next (run s k.ridx bs)
    else .next s

/-- A packet is complete (R390). -/
def pktDone (s : State) (q i : Nat) : State := updQ s q fun k => { k with inProg := k.inProg.filter fun p => p.idx != i }

/-- A packet is complete and its signal, where it names one, is decremented by 1 (R389). -/
def pktDoneSig (s : State) (q i sig : Nat) : State :=
  let s := pktDone s q i
  if sig = 0 then s else sigStart s (getQ s q).ctx sig 1 none

def execPktNop (q : Nat) (s : State) : Out := startPkt s q 0 fun s i _ => pktDone s q i

/-- PKT_DISPATCH (R399). -/
def execPktDispatch (q : Nat) (s : State) : Out :=
  startPkt s q 1 fun s i bs =>
    let id := s.serial + 1
    { s with
      serial := id
      dispatches := s.dispatches ++ [{ id := id, ctx := (getQ s q).ctx, q := q, node := pkt bs 20 4, addr := pkt bs 8 8
                                       count := pkt bs 16 4, signal := pkt bs 24 8, pkt := i, prio := (getQ s q).prio }] }

def execPktSignal (q : Nat) (s : State) : Out :=
  startPkt s q 2 fun s i bs => sigStart s (getQ s q).ctx (pkt bs 8 8) (pkt bs 16 8) (some (q, i))

def execPktWait (q : Nat) (s : State) : Out := startPkt s q 3 fun s _ _ => updQ s q fun k => { k with waiting := true }

/-- A SIGNAL of the parse step of a queue's WAIT is not performed: it comes before the WAIT (R390). -/
def signalFirst (s : State) (k : Queue) : Bool :=
  k.inProg.any fun w => w.op = 3 && s.queues.any fun e => e.2.inProg.any fun p => p.op = 2 && p.step = w.step

/-- WAIT_SATISFIED (R390, R392). -/
def execWaitSatisfied (q : Nat) (s : State) : Out :=
  let k := getQ s q
  if k.resident && k.waiting && waitMet s k && !signalFirst s k && !(getC s k.ctx).failed then
    .next (setQ s q { k with waiting := false, inProg := k.inProg.filter fun p => p.op != 3 })
  else .next s

/-- PKT_HINVAL (R298): the checks at issue read the entries as they stand, so nothing is left to invalidate. -/
def execPktHinval (q : Nat) (s : State) : Out := startPkt s q 4 fun s i bs => pktDoneSig s q i (pkt bs 24 8)

/-! ### Packages (R396, R397) -/

/-- Bytes of a node's mailbox (n62). -/
def mboxBytes (n : Node) : Nat := (n.coalesce * n.record + 127) / 128 * 128

/-- The region-table entries of a node without their teams. -/
def nodeRegions (n : Node) : SMap Nat := (List.range n.regions.length).zip (n.regions.map Prod.fst)

/-- Bytes of a node's allocation (R397). -/
def allocBytes (n : Node) : Nat := n.spad + mboxBytes n + planeNeed (nodeRegions n)

/-- A node breaks R397. -/
def nodeBad (n : Node) : Bool :=
  decide (0x2F000 < allocBytes n) || decide (0x10000 < settleNeed (nodeRegions n)) || decide (256 < n.teams.length) || decide (16 < n.regions.length)

/-- The words of a node's code. -/
def nodeWords (s : State) (ctx : Nat) (n : Node) : List IWord :=
  (List.range (n.codeLen / 16)).map fun i => Decode.wordOfBytes (ctxRead s ctx (n.codeBase + 16 * i) 16)

/-- An EMIT or FWK names a node outside the kernel's edge list. -/
def edgeBad (s : State) (ctx : Nat) (n : Node) : Bool :=
  (nodeWords s ctx n).any fun w =>
    let opc := w.toNat / 2 ^ 118
    (opc = 0x300 || opc = 0x301) && !n.edges.contains (nbits w.toNat 11 0)

/-- Bytes of the bins of some nodes. -/
def binBytes (ns : List Node) : Nat := (ns.map fun n => 2 * n.coalesce * n.record).sum

/-- The 16 KiB pages that hold a node's code (R129). -/
def codePages (s : State) (ctx : Nat) (n : Node) : List Nat :=
  let first := n.codeBase / 0x4000
  ((List.range ((n.codeBase + n.codeLen + 0x3FFF) / 0x4000 - first)).filterMap fun i =>
    match walk s 0 ctx ((first + i) * 0x4000) with
    | .leaf t _ => if t.host then none else some (t.place ((first + i) * 0x4000)).2
    | .bad => none)

/-- REV1 is set in the context and in its descriptor (R69, R394). -/
def setRev1 (s : State) (ctx : Nat) : State :=
  let a := s.regs.ctbase.toNat + 128 * ctx + 2
  { updC s ctx (fun c => { c with rev1 := true }) with dmem := memWrite s.dmem a [memGet s.dmem a ||| 1#8] }

/-- LOAD (R396): the lowest status that applies, and the state with the package loaded. (DESIGN CHOICE, log 110.) -/
def loadRun (s : State) (ctx a len : Nat) : Nat × Nat × State :=
  let c := getC s ctx
  match Config.parsePackage a (ctxRead s ctx a len) with
  | none => (1, 0, s)
  | some img =>
    if img.rev != 1 && img.rev != 2 then (2, 0, s)
    else if img.nodes.any nodeBad then (3, 0, s)
    else if img.nodes.any (edgeBad s ctx) then (4, 0, s)
    else if Config.binAreaSmall c.bina (binBytes ((c.pkgs.map Package.nodes).flatten ++ img.nodes)) then (5, 0, s)
    else
      let f := fresh s
      let num := (freeNums c).getD (f.1.toNat % (freeNums c).length) 0
      let p : Package := { num := num, nodes := img.nodes, pages := ((img.nodes.map (codePages s ctx)).flatten).eraseDups }
      let s := updC f.2 ctx fun c => { c with pkgs := c.pkgs ++ [p] }
      (0, num, if img.rev = 1 then setRev1 s ctx else s)

/-- PKT_LOAD (R396). (DESIGN CHOICE, log 16; DEDUCED, log 53.) -/
def execPktLoad (q : Nat) (s : State) : Out :=
  startPkt s q 5 fun s i bs =>
    let ctx := (getQ s q).ctx
    let r := loadRun s ctx (pkt bs 8 8) (pkt bs 16 8)
    let st := leBytes 4 r.1 ++ (if r.1 = 0 then leBytes 4 r.2.1 else [])
    pktDoneSig (ctxWrite r.2.2 ctx (pkt bs 24 8) st) q i (pkt bs 32 8)

/-- A batch of a package is resident, saved or formed, or a bin of it holds a record (R396). (DEDUCED, log 53.) -/
def pkgBusy (s : State) (ctx num : Nat) : Bool :=
  (s.batches.any fun e => e.2.res && e.2.ctx = ctx && e.2.node / 4096 = num)
  || (s.saved.any fun x => x.ctx = ctx && (match x.batch with | some b => b.node / 4096 = num | none => false))
  || (s.formed.any fun f => f.ctx = ctx && f.node / 4096 = num)
  || (getC s ctx).bins.any fun e => e.1 / 4096 = num && !e.2.recs.isEmpty

/-- PKT_UNLOAD (R396). The manual gives no status for a number that names no package. (DEDUCED, log 53.) -/
def execPktUnload (q : Nat) (s : State) : Out :=
  startPkt s q 6 fun s i bs =>
    let ctx := (getQ s q).ctx
    let num := pkt bs 8 4
    let r : Nat × State :=
      if (getC s ctx).pkgs.all fun p => p.num != num then let f := fresh s; (f.1.toNat % 2 ^ 32, f.2)
      else if pkgBusy s ctx num then (1, s)
      else (0, updC s ctx fun c => { c with pkgs := c.pkgs.filter fun p => p.num != num })
    pktDoneSig (ctxWrite r.2 ctx (pkt bs 24 8) (leBytes 4 r.1)) q i (pkt bs 32 8)

/-! ### Bins (R398 to R401) -/

def noBin : Bin := {}
def getBin (s : State) (ctx node : Nat) : Bin := sget noBin (getC s ctx).bins node
def setBin (s : State) (ctx node : Nat) (b : Bin) : State := updC s ctx fun c => { c with bins := sset noBin c.bins node b }

/-- The oldest k records of a bin form a batch (R398), with its correlation number (R466). -/
def formBatch (s : State) (ctx node k : Nat) : State :=
  let b := getBin s ctx node
  let rs := b.recs.take k
  let s := setBin s ctx node { b with recs := b.recs.drop k }
  let c := nextCorr s
  let q := nodeSeq c.2 ctx node
  { q.2 with formed := s.formed ++ [{ ctx := ctx, node := node, recs := rs, prio := (rs.map Rec.prio).foldl Nat.max 0, corr := c.1, seq := q.1 }] }

/-- A record enters its bin; a bin that holds C records forms a batch. -/
def binEnter (s : State) (ctx node : Nat) (n : Node) (r : Rec) : State :=
  let b := getBin s ctx node
  let s := setBin s ctx node { b with recs := b.recs ++ [r] }
  if n.coalesce ≤ b.recs.length + 1 && !(getK s ctx).cutting then formBatch s ctx node n.coalesce else s

/-- BIN_TIMER_EXPIRY (R398): the timer runs while the bin holds a record. Under replay the formation takes the records that the log gives
it (R476). -/
def execBinTimerExpiry (ctx node : Nat) (s : State) : Out :=
  let b := getBin s ctx node
  if b.recs.isEmpty || (getC s ctx).failed || !(getC s ctx).bound || (getK s ctx).cutting then .next s
  else
    match (replayLog s ctx).find? fun x => x.key = (2, node, 0) with
    | some (.grant _ none n) =>
      if n ≤ b.recs.length then .next (formBatch (logged s ctx (.grant node none n)) ctx node n) else .next s
    | some _ => .next s
    | none =>
      if (replayLog s ctx).isEmpty then .next (formBatch (logged s ctx (.grant node none b.recs.length)) ctx node b.recs.length)
      else .next s

def findDispatch (s : State) (d : Nat) : Option Dispatch := s.dispatches.find? fun x => x.id = d

/-- DISPATCH_RECORD_ENTRY (R399): the next record of a DISPATCH enters its bin where the bin has room. -/
def execDispatchRecordEntry (d : Nat) (s : State) : Out :=
  match findDispatch s d with
  | none => .next s
  | some x =>
    match findNode (getC s x.ctx) x.node with
    | none => .next s
    | some n =>
      if x.count ≤ x.entered || 2 * n.coalesce ≤ (getBin s x.ctx x.node).recs.length || (getC s x.ctx).failed || !(getC s x.ctx).bound then .next s
      else
        let bytes := ctxRead s x.ctx (x.addr + x.entered * n.record) n.record
        let s : State := { s with dispatches := s.dispatches.map fun y => if y.id = d then { y with entered := y.entered + 1 } else y }
        .next (binEnter s x.ctx x.node n { bytes := bytes, origins := [d], prio := x.prio })

/-- Work that descends from a DISPATCH is left (R402). -/
def dispatchLive (s : State) (d : Nat) : Bool :=
  (s.ctxs.any fun c => c.2.bins.any fun b => b.2.recs.any fun r => r.origins.contains d)
  || (s.formed.any fun f => f.recs.any fun r => r.origins.contains d)
  || (s.batches.any fun b => b.2.res && b.2.origins.contains d)
  || s.saved.any fun x => match x.batch with | some b => b.origins.contains d | none => false

/-- DISPATCH_COMPLETE (R402). -/
def execDispatchComplete (d : Nat) (s : State) : Out :=
  match findDispatch s d with
  | none => .next s
  | some x =>
    if x.entered < x.count || dispatchLive s d || !(getC s x.ctx).bound then .next s
    else
      let s : State := { s with dispatches := s.dispatches.filter fun y => y.id != d }
      let pk := if x.away then none else some (x.q, x.pkt)
      .next (if x.signal = 0 then (match pk with | some (q, k) => pktDone s q k | none => s) else sigStart s x.ctx x.signal 1 pk)

/-! ### Placement (R400) -/

/-- The parts of a group key. -/
def gcore (g : GKey) : Nat := g / 128 % 192
def gtrk (g : GKey) : Nat := g / 16 % 8

/-- A track is fenced by itself. -/
def trackFenced (s : State) (c : CKey) (t : Nat) : Bool :=
  (s.mg.fenced ++ s.mg.fencing).any fun f => match f with | .unit e => e.unit == .regs && e.clu * 192 + e.core = c && e.trk = t | _ => false

/-- A fence closes a core to placement. Every page lies in every stack (R426), so a stack that is out of use closes every core.
(DESIGN CHOICE, log 90.) -/
def closesCore (c : CKey) (f : Fence) : Bool :=
  fencesCore c f || match fenceUnit f with | some (.stack _) => true | _ => false

/-- The distributor places nothing on a core: it is fenced or about to be, under test, or its cluster is stopped (R2, R28, R455, R507). -/
def coreClosed (s : State) (c : CKey) : Bool :=
  let d := getD s (c / 192)
  d.stopping || d.stopped || (s.mg.fenced ++ s.mg.fencing ++ s.mg.testing.map Fence.tested).any (closesCore c)

/-- Something of the group that last stood in a slot is still on its way. (DEDUCED, log 43.) -/
def slotOwed (s : State) (g : GKey) : Bool :=
  (s.flight.any fun f => f.g = g) || (s.jobs.any fun j => j.g = g) || (s.tickets.any fun t => t.g = g)
  || s.floes.any fun f => (f.2.ents.any fun e => e.2.st != .free && e.2.g = g) || f.2.queue.any fun o => o.g = g

/-- A group slot of a cluster takes a new group, with REGS free on its track. (DEDUCED, log 43.) -/
def slotOpen (s : State) (clu regs : Nat) (g : GKey) : Bool :=
  gclu g = clu && !(getG s g).res && !slotOwed s g && !coreClosed s (clu * 192 + gcore g) && !trackFenced s (clu * 192 + gcore g) (gtrk g)
    && decide (regs + trackUse s clu (gcore g) (gtrk g) ≤ 192)

/-- Allocations that stand on a core: place in the core and bytes. -/
def coreAllocs (s : State) (clu core : Nat) : List (Nat × Nat) :=
  (s.batches.filter fun e => e.2.res && e.2.clu = clu && e.2.core = core).map fun e => (e.2.spb % 2 ^ 18, e.2.sps + e.2.mbox + e.2.planes)

/-- Places where an allocation of n bytes fits on a core (R252). (DESIGN CHOICE, log 52.) -/
def allocPlaces (s : State) (clu core n : Nat) : List Nat :=
  ((List.range 1504).map (128 * ·)).filter fun a => decide (a + n ≤ 0x2F000) && !((coreAllocs s clu core).any fun e => overlapIv e (a, n))

/-- Bytes of settle store that batches hold on a core. -/
def settleUsed (s : State) (clu core : Nat) : Nat :=
  ((s.batches.filter fun e => e.2.res && e.2.clu = clu && e.2.core = core).map fun e => e.2.settle).sum

/-- Team-table entries of a cluster that are free. (DESIGN CHOICE, log 52.) -/
def freeTeams (s : State) (clu : Nat) : List Nat := (List.range 256).filter fun t => !(getT s (tkey clu t)).v

/-- Turn a list by n. -/
def turn {α : Type} (l : List α) (n : Nat) : List α := l.drop (n % (l.length + 1)) ++ l.take (n % (l.length + 1))

/-- A core takes an allocation and its settle store (R252, R281, R400). -/
def coreFits (s : State) (clu core bytes settle : Nat) : Bool :=
  !coreClosed s (clu * 192 + core) && !(allocPlaces s clu core bytes).isEmpty && decide (settleUsed s clu core + settle ≤ 0x10000)

/-- There is room on a cluster for an allocation, groups and teams (R400, R423). -/
def hasRoom (s : State) (clu core bytes settle teams regs : Nat) (slots : List GKey) : Bool :=
  decide (clu < 8) && decide (core < 192) && slots.eraseDups.length = slots.length && slots.all (slotOpen s clu regs)
    && coreFits s clu core bytes settle && decide (teams ≤ (freeTeams s clu).length)

/-- Bits of a set of groups. -/
def memberBits (gs : List Nat) : Nat := gs.foldl (fun m g => setField m g 1 1) 0

/-- No resident or saved batch bears a tag. -/
def tagFree (s : State) (t : BTag) : Bool := !(getB s t).res && s.saved.all fun x => x.btag != t

/-- The tag of a new batch: any free one, and under replay the one that the log names its parties by (R475, R477). (DESIGN CHOICE, log 52;
DESIGN CHOICE, log 103.) -/
def newTag (s : State) (f : Formed) (v : Nat) : BTag :=
  let others (t : BTag) : Bool := (getK s f.ctx).retags.all fun x => x.btag != t
  match replayTag s f.ctx f.node f.seq with
  | some t => if tagFree s t then t else ((turn (List.range 65536) v).find? (tagFree s)).getD 0
  | none => ((turn (List.range 65536) v).find? fun t => tagFree s t && others t).getD 0

/-- A group of a new batch (R72). -/
def newGroup (b : Batch) (btag : BTag) (gnum : Nat) (g : GKey) (entry : Nat) (team : SMap Nat) : Group :=
  { res := true, ctx := b.ctx, btag := btag, gnum := gnum, clu := b.clu, core := gcore g, trk := gtrk g, slot := g % 16, prof := .trace
    live := 0xFFFFFFFF#32, paths := [(0, { tix := entry, state := .ready, mask := 0xFFFFFFFF#32 })], com := { uni := BitVec.allOnes 64 }, team := team }

/-- A withdrawal's capacity holds a record (R406). -/
def fwkHolds (f : Fwk) (n : Node) : Bool := decide (128 + n.record ≤ f.cap)

/-- The formed batch of a node that a withdrawal takes from. -/
def fwkFormed (s : State) (f : Fwk) : Option Nat := s.formed.findIdx? fun x => x.ctx = f.ctx && x.node = f.node && x.parent.isNone

/-- A withdrawal that waits takes from formed batch i, which is not placed meanwhile (R406): each takes the oldest that no other does. -/
def fwkTakes (s : State) (i : Nat) (f : Formed) : Bool :=
  let same (ctx node : Nat) : Bool := ctx = f.ctx && node = f.node
  f.parent.isNone && decide (((s.formed.take i).filter fun x => same x.ctx x.node && x.parent.isNone).length <
    (s.fwks.filter fun w => same w.ctx w.node && (findNode (getC s w.ctx) w.node).any (fwkHolds w)).length)

/-- The formed batch that is next to be placed: highest priority, then order of formation (R400). (DEDUCED, log 54.) -/
def nextFormed (s : State) : Option Nat :=
  (List.range s.formed.length).foldl (fun a i =>
    match s.formed[i]? with
    | none => a
    | some f =>
      let c := getC s f.ctx
      if c.failed || !c.bound || c.unbinding || fwkTakes s i f then a
      else match a.bind fun j => s.formed[j]? with
        | none => some i
        | some o => if o.prio < f.prio then some i else a) none

/-- Zero an allocation and set its lines full (R252, R254). -/
def allocClear (s : State) (clu spb n : Nat) : State :=
  let k := spadKey clu spb
  { s with
    spad := memZero s.spad k n
    emptyLine := s.emptyLine.filter fun e => !(decide (k / 128 ≤ e.1) && decide (e.1 < (k + n + 127) / 128)) }

/-- A formed batch stands on its cluster. (DEDUCED, log 54.) -/
def placeBatch (s : State) (f : Formed) (n : Node) (clu core : Nat) (slots : List GKey) : State :=
  let v := fresh s
  let s := v.2
  let r := v.1.toNat
  let places := allocPlaces s clu core (allocBytes n)
  let spb := core * 2 ^ 18 + places.getD (r % places.length) 0
  let tag := newTag s f (r / 2 ^ 16 % 65536)
  let tmxs := (turn (freeTeams s clu) (r / 2 ^ 32 % 256)).take n.teams.length
  let teams := n.teams.zip tmxs
  let tmx (slot : Nat) : Nat := match teams.find? fun e => e.1.1 = slot with | some e => e.2 | none => 0
  let rs : SMap Nat := (List.range n.regions.length).zip (n.regions.map fun e => e.1 + match e.2 with | some sl => fieldAt 48 8 (tmx sl) | none => 0)
  let groups := (List.range slots.length).zip slots
  let b : Batch := {
    res := true, ctx := f.ctx, node := f.node, corr := f.corr, prio := f.prio, clu := clu, core := core, spb := spb, sps := n.spad
    mbox := mboxBytes n, planes := planeNeed rs, codeBase := n.codeBase, codeLen := n.codeLen
    ttBase := n.ttBase, ttNum := n.ttNum, groups := groups, ngroups := n.groups, regions := rs
    pstore := planePlaces (n.spad + mboxBytes n) rs, masked := f.parent.isSome, parent := f.parent
    origins := ((f.recs.map Rec.origins).flatten).eraseDups, settle := settleNeed rs, placed := s.serial + 1 }
  let s := setB { tagged s f.ctx f.node f.seq tag with serial := s.serial + 1 } tag b
  let s := allocClear s clu spb (allocBytes n)
  let s := teams.foldl (fun s e => setT s (tkey clu e.2)
    { v := true, btag := tag, members := memberBits e.1.2, nmem := e.1.2.length, nlive := e.1.2.length }) s
  let s := groups.foldl (fun s e =>
    let mine := (teams.filter fun t => t.1.2.contains e.1).foldl (fun m t => sset 0 m t.1.1 (256 + t.2)) ([] : SMap Nat)
    setG s e.2 (newGroup b tag e.1 e.2 n.entry mine)) s
  let s := (f.recs.zip (List.range f.recs.length)).foldl (fun s e => spadStore s b (spb + n.spad + e.2 * n.record) e.1.bytes) s
  streamPut (timeNow s) clu 4 (batchBody b tag)

/-- BATCH_PLACEMENT (R400). -/
def execBatchPlacement (clu core : Nat) (slots : List GKey) (s : State) : Out :=
  match nextFormed s with
  | none => .next s
  | some i =>
    match s.formed[i]? with
    | none => .next s
    | some f =>
      match findNode (getC s f.ctx) f.node with
      | none => .next s
      | some n =>
        let regs := (traceEntOf (leNat (ctxRead s f.ctx (n.ttBase + 32 * n.entry) 32))).regs
        if slots.length = n.groups && hasRoom s clu core (allocBytes n) (settleNeed (nodeRegions n)) n.teams.length regs slots then
          .next (placeBatch { s with formed := s.formed.eraseIdx i } f n clu core slots)
        else .next s

/-! ### The end of a batch (R403) -/

/-- The floes still work for a batch: posts, tile operations, lineages (R353, R378), or drains of counts of its context, whichever batch or event
began them (R179, R180). -/
def floeOwes (s : State) (b : BTag) : Bool :=
  s.floes.any fun f =>
    (f.2.ents.any fun e => e.2.st != .free && rTag e.2.recd = b)
    || (f.2.queue.any fun o => o.btag = b)
    || (f.2.lins.any fun e => e.2.v && !e.2.stl && e.2.btag = b)
    || f.2.drains.any fun d => d.ctx = (getB s b).ctx

/-- What R403 waits for. -/
def batchOwed (s : State) (b : BTag) : Bool :=
  let bt := getB s b
  !bt.groups.isEmpty || bt.halt.isSome || (s.saved.any fun x => x.btag = b) || (s.flight.any fun f => f.btag = b)
    || (s.jobs.any fun j => j.btag = b) || (s.fwks.any fun f => f.btag = b) || (s.emits.any fun e => e.btag = b) || floeOwes s b

/-- Floes with counts of a context (R179): of any cluster, since a batch may have moved (R180). -/
def statFloes (s : State) (ctx : Nat) : List FKey := (s.floes.filter fun f => f.2.statCtx = ctx && !f.2.stats.isEmpty).map Prod.fst

/-- Counts of a context that pre-emption keeps, and those of its drains that wait there (R179, R367). -/
def statSaved (s : State) (ctx : Nat) : List (SMap Nat) :=
  (((s.saved.filter fun x => x.ctx = ctx).map fun x => x.counts.map Prod.snd ++ (x.floes.map fun f => f.2.drains.map Drain.counts).flatten).flatten).filter
    fun c => !c.isEmpty

/-- The images of a context without counts. -/
def statForget (s : State) (ctx : Nat) : State :=
  { s with saved := s.saved.map fun x => if x.ctx = ctx then { x with
      counts := []
      floes := x.floes.map fun f => (f.1, { f.2 with drains := f.2.drains.map fun d => { d with counts := [] } }) } else x }

/-- The drains of a kernel's end: of every count that its context has on a floe or among what pre-emption keeps, so that a signal that follows
finds them all added (R179, R180). (DEDUCED, log 81.) -/
def statEnd (s : State) (b : BTag) (ctx : Nat) (home : FKey) : State :=
  let kept := statSaved s ctx
  let s := (statFloes s ctx).foldl (fun s k => updF s k fun f => drainStart f none b none) s
  if kept.isEmpty then s
  else updF (statForget s ctx) home fun f => { f with drains := f.drains ++ kept.map fun c => { ctx := ctx, btag := b, counts := c } }

/-- The record of a handler batch's trap is answered (R245). -/
def handlerEnded (s : State) (p : BTag × Nat) : State :=
  let mark (b : Batch) : Batch := { b with halt := b.halt.map fun h => { h with recs := h.recs.modify p.2 fun r => { r with ended := true } } }
  let s := if (getB s p.1).res then updB s p.1 mark else s
  { s with saved := s.saved.map fun x => if x.btag = p.1 then { x with batch := x.batch.map mark } else x }

/-- The allocation of a batch is freed: its teams, barriers and tickets go with it. -/
def allocFree (s : State) (b : BTag) : State :=
  let bt := getB s b
  let lo := spadKey bt.clu bt.spb
  { setB s b noBatch with
    teams := s.teams.filter fun e => !(e.1 / 256 = bt.clu && e.2.btag = b)
    bars := s.bars.filter fun k => !(decide (lo ≤ k) && decide (k < lo + bt.sps + bt.mbox))
    tickets := s.tickets.filter fun t => t.btag != b }

/-- BATCH_END (R403): the drains of the kernel's end are made first; the tiles that bear the batch's tag go with it (R353). -/
def execBatchEnd (b : BTag) (s : State) : Out :=
  let bt := getB s b
  if !bt.res || batchOwed s b then .next s
  else
    if (statFloes s bt.ctx).isEmpty && (statSaved s bt.ctx).isEmpty then
      let s := streamPut (timeNow (allocFree (batchTiles s b) b)) bt.clu 5 (batchBody bt b)
      .next (match bt.parent with | some p => handlerEnded s p | none => s)
    else .next (statEnd s b bt.ctx (quadOf (bt.clu * 192 + bt.core)))

/-! ### Records of a running batch (R405, R406) -/

/-- EMIT_RECORD_ENTRY (R405): the next record of an EMIT enters its bin; after the last the lanes are ready. -/
def execEmitRecordEntry (i : Nat) (s : State) : Out :=
  match s.emits[i]? with
  | none => .next s
  | some e =>
    let drop (s : State) : State := { s with emits := s.emits.eraseIdx i }
    match e.items, findNode (getC s e.ctx) e.node with
    | [], _ => .next (wakeTrace (drop s) e.g e.tno)
    | _, none => .next s
    | (_, a) :: r, some n =>
      if !effectsDone s e.g e.tno || 2 * n.coalesce ≤ (getBin s e.ctx e.node).recs.length then .next s
      else
        let b := getB s e.btag
        let s' := binEnter s e.ctx e.node n { bytes := spadLoad s b a n.record, origins := b.origins, prio := b.prio }
        .next (if r.isEmpty then wakeTrace (drop s') e.g e.tno else { s' with emits := s'.emits.set i { e with items := r } })

/-- The response of R406. (DEDUCED, log 55.) -/
def fwkWord (seq nrec node stat : Nat) : Nat := fieldAt 96 32 seq + fieldAt 64 32 nrec + fieldAt 32 32 node + fieldAt 0 32 stat

/-- The response is written and its line set full. -/
def fwkWrite (s : State) (f : Fwk) (recs : List Rec) (size w : Nat) : State :=
  let b := getB s f.btag
  let s := (recs.zip (List.range recs.length)).foldl (fun s e => spadStore s b (f.addr + 128 + e.2 * size) e.1.bytes) s
  lineFull (spadStore s b f.addr (leBytes 16 w)) (spadKey f.clu f.addr)

/-- FWK_RESPONSE (R406): the oldest records of a batch formed and not yet placed, as many as may be. (DESIGN CHOICE, log 110.) -/
def execFwkResponse (i : Nat) (s : State) : Out :=
  match s.fwks[i]? with
  | none => .next s
  | some f =>
    match findNode (getC s f.ctx) f.node with
    | none => .next s
    | some n =>
      let gone (s : State) : State := { s with fwks := s.fwks.eraseIdx i }
      if !fwkHolds f n then
        let v := fresh s
        .next (fwkWrite (gone v.2) f [] 0 (fwkWord v.1.toNat 0 f.node 1))
      else
        match (fwkFormed s f).bind fun j => (s.formed[j]?).map fun x => (j, x) with
        | none => .next s
        | some (j, x) =>
          let fit := if n.record = 0 then n.coalesce else (f.cap - 128) / n.record
          let k := Nat.min (Nat.min n.coalesce fit) x.recs.length
          let seq := (getC s f.ctx).fwkSeq
          let e : LogEntry := .grant f.node (some seq) k
          if !replayReady s f.ctx e then .next s
          else
            let rs := x.recs.take k
            let s := logged (gone s) f.ctx e
            let s := updC s f.ctx fun c => { c with fwkSeq := (seq + 1) % 2 ^ 32 }
            let s : State := { s with
              formed := if x.recs.length ≤ k then s.formed.eraseIdx j else s.formed.set j { x with recs := x.recs.drop k } }
            let s := updB s f.btag fun b => { b with origins := (b.origins ++ (rs.map Rec.origins).flatten).eraseDups }
            .next (fwkWrite s f rs n.record (fwkWord seq k f.node 0))

/-! ### Ring tickets (R412) and the governor (R416, R417) -/

/-- A ticket's place is free of retired records (R412). -/
def ticketReady (h : RingHdr) (t : Ticket) : Bool :=
  if t.byteRing then decide (t.t + t.f ≤ h.ret + h.cap) else decide (t.t < h.ret + h.cap / 2 ^ h.slg)

/-- RTKT_GRANT (R412): the record header is written and the payload address returned, which acquires the retire that made room (R414). -/
def execRtktGrant (i : Nat) (s : State) : Out :=
  match s.tickets[i]? with
  | none => .next s
  | some t =>
    let b := getB s t.btag
    let h := ringHdr s b (b.spb + t.hdr)
    if !ticketReady h t then .next s
    else
      let s := spadStore s b (recAddr b h t.t) (leBytes 8 (mkRec (t.t % 2 ^ 32) (if t.pad then 3 else 1) t.len))
      let s := viewAcquire s t.g (laneBit t.lane) .clu
      let s := deliver { s with tickets := s.tickets.eraseIdx i } t.g t.lane t.dst (w32 (b.spb + t.value))
      .next { stepSettle s t.g with stalled := false }

/-- A stage of the governor's table (R416). -/
structure Stage where
  ring : Option Nat
  high : Nat
  low : Nat
  min : Nat
  max : Nat
  deriving DecidableEq, Repr

/-- DEDUCED, log 57. -/
def stageOf (n : Nat) : Stage :=
  { ring := if n.testBit 31 then none else some (nbits n 30 0), high := nbits n 63 32, low := nbits n 95 64, min := nbits n 111 96, max := nbits n 127 112 }

/-- The move that an evaluation makes: the group, its new stage, the VIS of that stage's ring (R417). The governor rejects a header with a
reserved field set, and its stage neither gains nor gives a group (R8). (DEDUCED, log 57.) -/
def govMove (s : State) (b : Batch) (a : Nat) : Option (Nat × Nat × Nat) :=
  let rd (o n : Nat) : Nat := leNat (spadLoad s b (a + o) n)
  let ngrp := rd 4 4
  let stages := (List.range (nbits (rd 0 4) 3 0)).map fun i => (i, stageOf (rd (0x10 + 16 * i) 16))
  let bytes := (List.range ngrp).map fun g => (g, rd (0x90 + g) 1)
  let holds (k : Nat) : Nat := (bytes.filter fun e => e.2 % 8 = k).length
  let loose (k : Nat) : List Nat := (bytes.filter fun e => e.2 % 8 = k && !e.2.testBit 7).map Prod.fst
  let hdr (o : Nat) : RingHdr := ringHdr s b (b.spb + o)
  match stages.find? fun e => (match e.2.ring with | some o => !(hdr o).bad && decide (e.2.high ≤ (hdr o).occ) | none => false) && decide (holds e.1 < e.2.max) with
  | none => none
  | some up =>
    match stages.find? fun e => (match e.2.ring with | some o => !(hdr o).bad && decide ((hdr o).occ ≤ e.2.low) | none => true) && decide (e.2.min < holds e.1)
        && !(loose e.1).isEmpty with
    | none => none
    | some down => ((loose down.1).getLast?).map fun g => (g, up.1, match up.2.ring with | some o => (hdr o).vis | none => 0)

/-- The stage byte of a group takes a new stage. -/
def govWrite (s : State) (b : Batch) (a g stage : Nat) : State :=
  let k := spadKey b.clu (a + 0x90 + g)
  { s with spad := memSet s.spad k (BitVec.ofNat 8 (setField (memGet s.spad k).toNat 0 3 stage)) }

/-- VIS of the ring of a stage; 0 where its header is rejected (R8). (DEDUCED, log 57.) -/
def stageVis (s : State) (b : Batch) (a stage : Nat) : Nat :=
  match (stageOf (leNat (spadLoad s b (a + 0x10 + 16 * stage) 16))).ring with
  | some o => let h := ringHdr s b (b.spb + o); if h.bad then 0 else h.vis
  | none => 0

/-- GOVERNOR_TICK (R417). A replay makes the logged moves only (R476). -/
def execGovernorTick (b : BTag) (s : State) : Out :=
  let bt := getB s b
  match bt.gov with
  | none => .next s
  | some o =>
    let a := bt.spb + o
    let w := leNat (spadLoad s bt a 4)
    let ngrp := leNat (spadLoad s bt (a + 4) 4)
    if !bt.res || (getD s bt.clu).stopping || (getD s bt.clu).stopped then .next s
    else if nbits w 30 4 != 0 then .next (updB s b fun x => { x with gov := none })
    else if !w.testBit 31 || nbits w 3 0 = 0 || 8 < nbits w 3 0 || ngrp = 0 || 1024 < ngrp then .next s
    else
      match (replayLog s bt.ctx).find? fun x => x.key = (3, b, 0) with
      | some (.move _ g st vis) =>
        if vis ≤ stageVis s bt a st then .next (govWrite (logged s bt.ctx (.move b g st vis)) bt a g st) else .next s
      | _ =>
        if !(replayLog s bt.ctx).isEmpty then .next s
        else
          match govMove s bt a with
          | none => .next s
          | some (g, st, vis) => .next (govWrite (logged s bt.ctx (.move b g st vis)) bt a g st)

end Sys2Proof.Machine
end

