-- ==== Sys2Proof/Machine/Preempt.lean ====
section
/-! DEFINITION. Pre-emption: the choice of victims, the save of groups and batches, their resume, the bind and unbind of a context
(R83, R104, R105, R227, R288 to R291, R319, R320, R342 to R344, R367, R383, R394, R419 to R424, R481). -/
namespace Sys2Proof.Machine
open Sys2Proof Sys2Proof.Checks

/-! ### What a group keeps (R104, R105, R421, R422) -/

/-- The liveness bits of the trace at which each lane stands. -/
def laneLive (s : State) (q : Group) : List Nat :=
  allLanes.map fun l =>
    match pathOfLane q l with
    | some i => (traceEnt s (getB s q.btag) (getP q i).tix).livx
    | none => 0

/-- The saved registers: those that the liveness entries mark; the others read 0 after restore. The CLOCK latch, which is no register, stays
with its lane: a resumed lane is as one never saved (R154, R423). (DEDUCED, log 3.) -/
def saveRegs (s : State) (q : Group) : Group :=
  let liv := laneLive s q
  let keep (k : Nat) : Bool := (liv.getD (k / 64) 0).testBit (k % 64)
  let some_ : DWord := BitVec.ofNat 64 (liv.foldl Nat.lor 0)
  let all_ : DWord := BitVec.ofNat 64 ((lanesOf q.live).foldl (fun m l => m &&& liv.getD l 0) (2 ^ 64 - 1))
  let v := q.com
  let com : Vers := { v with
    x := v.x.filter fun e => keep e.1
    pend := (v.pend.filter fun e => keep e.1 && !isLoadPend e.2)
    uni := v.uni &&& (all_ ||| ~~~some_) }
  { q with com := com, work := {}, alloc := q.alloc &&& some_, dead := q.dead.filter fun e => keep e.1 }

/-- Entries in budget-wait and fetch-wait are saved as ready (R422). -/
def savePaths (q : Group) : Group :=
  (List.range 32).foldl (fun q i =>
    let p := getP q i
    if p.state = .budgetWait || p.state = .fetchWait then makeReady q i p.tix else q) q

/-- A group as it is saved. Elements of GATHs that have not arrived keep their addresses, and their values are dropped (R227). (DESIGN CHOICE, log 58.) -/
def saveGroup (s : State) (g : GKey) : Group × State :=
  let s := discardRun s g
  let waits := (List.range 32).any fun i => (getP (getG s g) i).state = .budgetWait
  let s := if waits then perfTime s g 7 else s
  let q := saveRegs s (getG s g)
  let s := stepOver s q
  let q := { q with step := .off, stepRegs := [], sbw := [] }
  let q := { (if q.frozen then unholdAll s { q with frozen := false } fun p => p.cause = 6 else q) with debugStop := false }
  ({ savePaths q with evict := false, parked := false, yielded := false, walkFault := [] }, viewClear s g (BitVec.allOnes 32))

/-- The slot that a group leaves. -/
def leaveSlot (s : State) (g : GKey) : State :=
  let q := getG s g
  setG { s with slotLast := sset 0 s.slotLast g slotSaved } g { ctx := q.ctx, btag := q.btag, gnum := q.gnum, clu := q.clu, core := q.core, trk := q.trk, slot := q.slot, prof := q.prof }

/-- Save some groups: the groups in order and the state without them. -/
def saveGroups (s : State) (gs : List GKey) : List Group × State :=
  gs.foldl (fun (a : List Group × State) g =>
    let r := saveGroup a.2 g
    (a.1 ++ [r.1], refreeze (leaveSlot r.2 g) r.1.btag)) ([], s)

/-! ### What a floe keeps for a batch (R343, R367, R383) -/

/-- An entry belongs to a batch. -/
def entOf (b : BTag) (e : Ent) : Bool := e.st != .free && rTag e.recd = b

/-- The floe's state for a batch, with ages brought up to date and the TSTATs that wait (R367). -/
def floePart (f : Floe) (b : BTag) (now : Nat) : Floe :=
  let ents := f.ents.filter fun e => entOf b e.2
  let snaps := (ents.map fun e => [e.2.snapA, e.2.snapB].filterMap id).flatten
  { tiles := f.tiles.filter fun e => e.2.v && e.2.btag = b
    ents := ents.map fun e => (e.1, { e.2 with age := e.2.age + (now - e.2.born) })
    snaps := f.snaps.filter fun e => snaps.contains e.1
    queue := f.queue.filter fun o => o.btag = b
    lins := f.lins.filter fun e => e.2.v && e.2.btag = b
    drains := f.drains.filter fun d => d.btag = b && d.g.isSome }

/-- The floe without it; it grants passes again. A drain that no group waits for goes on. -/
def floeRest (f : Floe) (b : BTag) : Floe :=
  let snaps := ((f.ents.filter fun e => entOf b e.2).map fun e => [e.2.snapA, e.2.snapB].filterMap id).flatten
  { f with
    tiles := f.tiles.filter fun e => !(e.2.v && e.2.btag = b)
    ents := f.ents.filter fun e => !entOf b e.2
    snaps := f.snaps.filter fun e => !snaps.contains e.1
    queue := f.queue.filter fun o => o.btag != b
    lins := f.lins.filter fun e => !(e.2.v && e.2.btag = b)
    drains := f.drains.filter fun d => !(d.btag = b && d.g.isSome)
    churn := f.churn.bind fun r => if (linAt f r).btag = b then none else some r
    quiesce := false
    quiet := false }

/-- The floe holds something of a batch. -/
def floeHas (f : Floe) (b : BTag) : Bool :=
  (f.tiles.any fun e => e.2.v && e.2.btag = b) || (f.ents.any fun e => entOf b e.2) || (f.queue.any fun o => o.btag = b)
    || (f.lins.any fun e => e.2.v && e.2.btag = b) || f.drains.any fun d => d.btag = b && d.g.isSome

/-! ### The save (R420) -/

/-- Batches that lose their last resident group with a set of victims. -/
def wholeOf (s : State) (vs : List GKey) : List BTag :=
  ((vs.map fun g => (getG s g).btag).eraseDups).filter fun b => (residents s b).all fun g => vs.contains g

/-- What a group has started is complete, and its deferred results have arrived (R86, R181, R422). Elements of GATHs and SCATs are left to the
save (R227), and a PUB that has begun finishes by itself (R319). -/
def groupSettled (s : State) (g : GKey) : Bool :=
  !((s.flight.any fun f => f.g = g && !isScat f.eff) || (s.sigs.any fun d => match d.g with | some e => e.1 = g | none => false)
    || (getG s g).inStep2 || ((getG s g).com.pend ++ (getG s g).com.ghost).any fun e => isLoadPend e.2)

/-- A group of a batch that stays may go: no tile operation that answers it is left, and no post waits for its effects. Its copies go on, and its
withdrawals are answered in the scratchpad of the batch (R420). (DEDUCED, log 59.) -/
def partReady (s : State) (g : GKey) : Bool :=
  groupSettled s g
    && s.floes.all fun f => (f.2.queue.all fun o => o.g != g)
      && (f.2.ents.all fun e => e.2.st = .free || e.2.g != g || !arrivalOwed s g e.2.lanes e.2.tno)
      && f.2.drains.all fun d => match d.g with | some e => e.1 != g | none => true

/-- A whole batch may go: its lane copies have drained, its effects have landed, its floes are quiescent (R289, R319, R342). (DEDUCED, log 59.) -/
def wholeReady (s : State) (b : BTag) : Bool :=
  (residents s b).all (groupSettled s) && !(s.flight.any fun f => f.btag = b && !(isScat f.eff && (getG s f.g).res && (getG s f.g).gnum = f.gnum))
    && (s.jobs.all fun j => j.btag != b || j.cpbs.isSome || (match j.items with | c :: _ => c.isTile | [] => false))
    && s.floes.all fun f => !floeHas f.2 b || quiescent f.2

def evictReady (s : State) (vs : List GKey) (bs : List BTag) : Bool :=
  bs.all (wholeReady s) && vs.all fun g => bs.contains (getG s g).btag || partReady s g

/-- A handler launch of a batch that is pending (R247). -/
def handlerOf (b : BTag) (f : Formed) : Bool := f.parent.any fun p => p.1 = b

/-- The image of a whole batch (R288, R420). The counts of its context go with it from the floes of a cluster on which the context has no other
batch (R179). (DESIGN CHOICE, log 58; DEDUCED, log 81.) -/
def saveBatch (s : State) (b : BTag) : State :=
  let s := (s.teams.filter fun e => e.2.v && e.2.btag = b).foldl (fun s e => stepComplete s e.1) s
  let s := (s.jobs.filter fun j => j.btag = b).foldl jobCut s
  let bt := getB s b
  let clu := bt.clu
  let lo := spadKey clu bt.spb
  let n := bt.sps + bt.mbox + bt.planes
  let inAlloc (k : Nat) : Bool := decide (lo ≤ k) && decide (k < lo + n)
  let inLines (k : Nat) : Bool := decide (lo / 128 ≤ k) && decide (k < (lo + n + 127) / 128)
  let r := saveGroups s (residents s b)
  let s := r.2
  let parts := s.saved.filter fun x => x.btag = b
  let old := (parts.map Saved.groups).flatten
  let now (k : FKey) : Nat := (sget 0 s.clock (fclu k)).toNat
  let fs := s.floes.filter fun f => f.1 / 48 = clu && floeHas f.2 b
  let alone (k : FKey) : Bool := !s.batches.any fun e => e.2.res && e.1 != b && e.2.ctx = bt.ctx && e.2.clu = fclu k
  let cs := s.floes.filter fun f => f.2.statCtx = bt.ctx && !f.2.stats.isEmpty && alone f.1
  let img : Saved := {
    btag := b, ctx := bt.ctx, batch := some bt, groups := old ++ r.1
    bytes := (s.spad.filter fun e => inAlloc e.1).map fun e => (e.1 - lo, e.2)
    empties := (s.emptyLine.filter fun e => inLines e.1).map fun e => e.1 - lo / 128
    teams := (s.teams.filter fun e => e.1 / 256 = clu && e.2.v && e.2.btag = b).map fun e => (e.1 % 256, e.2)
    jobs := (s.jobs.filter fun j => j.btag = b).map fun j => if j.cpbs.isSome then j else j.missing
    emits := (parts.map Saved.emits).flatten ++ s.emits.filter fun e => e.btag = b
    fwks := (parts.map Saved.fwks).flatten ++ s.fwks.filter fun f => f.btag = b
    tickets := (parts.map Saved.tickets).flatten ++ s.tickets.filter fun t => t.btag = b
    scats := (parts.map Saved.scats).flatten ++ s.flight.filter fun f => f.btag = b
    formed := s.formed.filter (handlerOf b)
    floes := fs.map fun f => (f.1, floePart f.2 b (now f.1))
    counts := cs.map fun f => (f.1, f.2.stats)
    bars := (s.bars.filter inAlloc).map fun k => k - lo }
  let s := allocFree s b
  { s with
    flight := s.flight.filter fun f => f.btag != b
    jobs := s.jobs.filter fun j => j.btag != b
    formed := s.formed.filter fun f => !handlerOf b f
    emits := s.emits.filter fun e => e.btag != b
    fwks := s.fwks.filter fun f => f.btag != b
    floes := (s.floes.map fun f => if fs.any fun x => x.1 = f.1 then (f.1, floeRest f.2 b) else f).map fun f =>
      if cs.any fun x => x.1 = f.1 then (f.1, { f.2 with stats := [] }) else f
    saved := (s.saved.filter fun x => x.btag != b) ++ [img] }

/-- No slot: where a copy's group stands that pre-emption has saved alone. (DESIGN CHOICE, log 58.) -/
def awayKey : GKey := 2 ^ 20

/-- Groups of a batch that stays resident: their register state alone (R290). -/
def savePart (s : State) (b : BTag) (gs : List GKey) : State :=
  let r := saveGroups s gs
  let s := r.2
  let mine (g : GKey) : Bool := gs.contains g
  let img : Saved := {
    btag := b, ctx := (getB s b).ctx, groups := r.1
    emits := s.emits.filter fun e => mine e.g
    tickets := s.tickets.filter fun t => mine t.g
    scats := s.flight.filter fun f => mine f.g }
  { s with
    flight := s.flight.filter fun f => !mine f.g
    emits := s.emits.filter fun e => !mine e.g
    tickets := s.tickets.filter fun t => !mine t.g
    jobs := s.jobs.map fun j => if mine j.g then { j with g := awayKey } else j
    saved := s.saved ++ [img] }

/-- Floes grant passes again once no save is under way (R343). -/
def passesOn (s : State) : State :=
  let going := (s.groups.any fun e => e.2.res && e.2.evict) || (s.ctxs.any fun c => c.2.unbinding) || s.ckpts.any fun k => k.2.cutting
  if going then s else { s with floes := s.floes.map fun f => (f.1, { f.2 with quiesce := false, quiet := false }) }

/-- Evict groups, and whole batches `bs` (R420). -/
def evictRun (s : State) (vs : List GKey) (bs : List BTag) : State :=
  let s := bs.foldl saveBatch s
  let parts := ((vs.map fun g => (getG s g).btag).eraseDups).filter fun b => !bs.contains b
  passesOn (parts.foldl (fun s b => savePart s b (vs.filter fun g => (getG s g).res && (getG s g).btag = b)) s)

/-- A group is asked to stop at a trace boundary: a running trace that has not reached step 2 of its commit is discarded (R420). A halt of its
batch finds it there. -/
def evictStop (s : State) (g : GKey) : State :=
  let q := getG s g
  let cut := if q.inStep2 then none else q.run.map Run.tix
  let s := updG (discardRun s g) g fun q => { q with evict := true }
  boundary s g cut false (cut.bind (discPath (getG s g)))

/-- Groups are asked to stop, and the floes of whole batches to quiesce (R342, R420). -/
def evictBegin (s : State) (vs : List GKey) (bs : List BTag) : State :=
  let s := vs.foldl evictStop s
  { s with floes := s.floes.map fun f => if bs.any fun b => floeHas f.2 b then (f.1, { f.2 with quiesce := true }) else f }

/-! ### The choice of victims (R419) -/

/-- Slots of a cluster that would take a group with REGS free. (DESIGN CHOICE, log 56.) -/
def openSlots (s : State) (clu regs : Nat) : Nat :=
  ((List.range 192).map fun core =>
    if coreClosed s (clu * 192 + core) then 0
    else ((List.range 8).map fun t =>
      if trackFenced s (clu * 192 + core) t || 192 < regs + trackUse s clu core t then 0
      else ((List.range 16).filter fun i => !(getG s (gkey clu core t i)).res).length).sum).sum

/-- Some cluster has room for a batch of a node (R400). (DEDUCED, log 60.) -/
def roomFor (s : State) (n : Node) (regs : Nat) : Bool :=
  (List.range 8).any fun clu =>
    decide (n.groups ≤ openSlots s clu regs) && decide (n.teams.length ≤ (freeTeams s clu).length)
      && (List.range 192).any fun core => coreFits s clu core (allocBytes n) (settleNeed (nodeRegions n))

/-- The state as far as room goes, without some groups and the batches that have no other. -/
def without (s : State) (vs : List GKey) : State :=
  let bs := wholeOf s vs
  let s := vs.foldl leaveSlot s
  bs.foldl allocFree s

/-- Order of eviction: lowest queue priority, lowest rank, most recent placement. (DEDUCED, log 60.) -/
def evictsBefore (a b : Batch) : Bool :=
  decide (a.prio < b.prio) || (a.prio = b.prio && (decide (a.rank < b.rank) || (a.rank = b.rank && decide (b.placed < a.placed))))

/-- The batch of a group. -/
def batOf (s : State) (g : GKey) : Batch := getB s (getG s g).btag

/-- Groups that may go for a batch of some priority. -/
def lowGroups (s : State) (prio : Nat) : List GKey :=
  (s.groups.filter fun e => e.2.res && e.2.prof == .trace && decide ((batOf s e.1).prio < prio)).map Prod.fst

/-- Groups of the batches that are taken before a group's batch. -/
def lowBefore (s : State) (prio : Nat) (g : GKey) : List GKey := (lowGroups s prio).filter fun x => evictsBefore (batOf s x) (batOf s g)

/-- Victims as R419 chooses them: of batches of lower priority, each needed beside the other victims and all that is taken before its batch.
(DEDUCED, log 60.) -/
def victimsOk (s : State) (f : Formed) (n : Node) (regs : Nat) (vs : List GKey) : Bool :=
  !vs.isEmpty && vs.eraseDups.length = vs.length && vs.all (lowGroups s f.prio).contains && !roomFor s n regs && roomFor (without s vs) n regs
    && vs.all fun g => !roomFor (without s ((lowBefore s f.prio g ++ vs.erase g).eraseDups)) n regs

/-- A group in the order of eviction. -/
def lowInsert (s : State) (g : GKey) : List GKey → List GKey
  | [] => [g]
  | x :: r => if evictsBefore (batOf s g) (batOf s x) then g :: x :: r else x :: lowInsert s g r

/-- The victims of a batch that finds no room: of all that may go, from the last in the order of eviction, each is let off that is not needed. -/
def victimsOf (s : State) (f : Formed) (n : Node) (regs : Nat) : List GKey :=
  let all := (lowGroups s f.prio).foldl (fun l g => lowInsert s g l) []
  if all.isEmpty || roomFor s n regs || !roomFor (without s all) n regs then []
  else all.reverse.foldl (fun vs g => if roomFor (without s (vs.erase g)) n regs then vs.erase g else vs) all

/-- A batch that is next to be placed finds no room and other work in its way (R419). -/
def preemptionEvents (s : State) : List Instr :=
  match (nextFormed s).bind fun i => s.formed[i]? with
  | none => []
  | some f =>
    match findNode (getC s f.ctx) f.node with
    | none => []
    | some n =>
      let vs := victimsOf s f n (traceEntOf (leNat (ctxRead s f.ctx (n.ttBase + 32 * n.entry) 32))).regs
      if vs.isEmpty || vs.all (fun g => (getG s g).evict) then [] else [.preemptionStart vs]

/-- PREEMPTION_START (R419). -/
def execPreemptionStart (victims : List GKey) (s : State) : Out :=
  match (nextFormed s).bind fun i => s.formed[i]? with
  | none => .next s
  | some f =>
    match findNode (getC s f.ctx) f.node with
    | none => .next s
    | some n =>
      let regs := (traceEntOf (leNat (ctxRead s f.ctx (n.ttBase + 32 * n.entry) 32))).regs
      if victimsOk s f n regs victims then .next (evictBegin s victims (wholeOf s victims)) else .next s

/-- EVICTION (R420). -/
def execEviction (victims : List GKey) (s : State) : Out :=
  let bs := wholeOf s victims
  if !victims.isEmpty && (victims.all fun g => (getG s g).res && (getG s g).evict) && evictReady s victims bs then
    .next (evictRun s victims bs)
  else .next s

/-- The groups of a track, by the track's key. -/
def trackKeys (trk : Nat) : List GKey := (List.range 16).map fun i => trk * 16 + i

/-- BUDGET_DEADLOCK_EVICTION (R83): every resident group of a track with an entry that is not empty is in budget-wait. A group counts
as waiting where it runs nothing and some entry of it waits, whatever its other entries do, and its latest entry dates its wait. (DESIGN CHOICE, log 93.) -/
def execBudgetDeadlockEviction (trk : Nat) (s : State) : Out :=
  let busy (q : Group) : Bool := (List.range 32).any fun i => (getP q i).state != .empty
  let waits (q : Group) : List Path := ((List.range 32).map (getP q)).filter fun p => p.state = .budgetWait
  let gs := (trackKeys trk).filter fun g => (getG s g).res && busy (getG s g)
  if gs.isEmpty || !(gs.all fun g => !(waits (getG s g)).isEmpty && (getG s g).run.isNone) then .next s
  else
    let first (g : GKey) : Nat := ((waits (getG s g)).map Path.since).foldl Nat.max 0
    let last := gs.foldl (fun a g => if first a ≤ first g then g else a) (gs.headD 0)
    let bs := wholeOf s [last]
    if evictReady s [last] bs then .next (evictRun s [last] bs) else .next s

/-! ### Resume (R423) -/

/-- What a key maps to, or itself. -/
def mapTo (m : List (Nat × Nat)) (k : Nat) : Nat := match m.find? fun e => e.1 = k with | some e => e.2 | none => k

/-- A cluster address moves with its allocation. -/
def shift (old new a : Nat) : Nat := a + new - old

/-- The waiting effect of a path at its batch's new place. -/
def syncMoved (old new : Nat) (tiles serials : List (Nat × Nat)) : Sync → Sync
  | .barArrive a d w => .barArrive (shift old new a) d w
  | .barWait a t d => .barWait (shift old new a) t d
  | .fwk n a c => .fwk n (shift old new a) c
  | .msetl t n => .msetl (mapTo tiles t) (mapTo serials n)
  | y => y

/-- A record with its addresses, tiles and snapshots at their new places. -/
def recMoved (old new : Nat) (tiles snaps : List (Nat × Nat)) (r : Nat) : Nat :=
  let opnd (r at_ o : Nat) : Nat :=
    match oSrc o with
    | 0 => setField r at_ 22 (shift (old / 16) (new / 16) (oName o))
    | 1 => setField r at_ 22 (mapTo snaps (oName o))
    | _ => setField r at_ 22 (mapTo tiles (oName o % 8))
  let addr (r at_ : Nat) : Nat := setField r at_ 26 (shift old new (nbits r (at_ + 25) at_))
  let r := setField r 501 3 (mapTo tiles (rAcc r))
  let r := opnd (opnd r 320 (rA r)) 192 (rB r)
  let r := if (rDep0 r).testBit 31 then addr r 96 else r
  let r := if (rDep1 r).testBit 31 then addr r 64 else r
  addr r 32

/-- Insertion of a serial in its order, once. -/
def insSerial (n : Nat) : List Nat → List Nat
  | [] => [n]
  | a :: r => if n = a then a :: r else if serLt n a then n :: a :: r else a :: insSerial n r

/-- Serials of a saved floe in their order. (DEDUCED, log 81.) -/
def floeSerials (f : Floe) (waits : List Nat) : List Nat :=
  (f.ents.map (fun e => e.2.serial) ++ f.queue.map TileOp.serial
    ++ (f.lins.map fun e => if e.2.cls then [e.2.made, e.2.clsSerial] else [e.2.made]).flatten ++ waits).foldl (fun l n => insSerial n l) []

/-- Free places of a floe for what was saved (R344). -/
def floeFits (f p : Floe) : Bool :=
  decide (p.tiles.length ≤ ((List.range 8).filter fun t => (tileAt f t).tst = 0 && !(tileAt f t).v).length)
    && decide (p.ents.length ≤ ((List.range 32).filter fun i => (entAt f i).st = .free).length)
    && decide (p.snaps.length ≤ ((List.range 4).filter fun i => (sget [] f.snaps i).isEmpty).length)
    && decide (p.lins.length ≤ ((List.range 16).filter fun i => !(linAt f i).v).length)
    && decide (p.queue.length + f.queue.length ≤ 32)

/-- How the numbers of a saved floe map onto those of another. -/
structure FloeMap where
  tiles : List (Nat × Nat)
  ents : List (Nat × Nat)
  snaps : List (Nat × Nat)
  lins : List (Nat × Nat)
  serials : List (Nat × Nat)
  deriving DecidableEq, Repr

def floeMap (f p : Floe) (waits : List Nat) : FloeMap :=
  { tiles := (p.tiles.map Prod.fst).zip ((List.range 8).filter fun t => (tileAt f t).tst = 0 && !(tileAt f t).v)
    ents := (p.ents.map Prod.fst).zip ((List.range 32).filter fun i => (entAt f i).st = .free)
    snaps := (p.snaps.map Prod.fst).zip ((List.range 4).filter fun i => (sget [] f.snaps i).isEmpty)
    lins := (p.lins.map Prod.fst).zip ((List.range 16).filter fun i => !(linAt f i).v)
    serials := (floeSerials p waits).zip ((List.range (floeSerials p waits).length).map fun i => (f.serial + i) % 2 ^ 32) }

/-- Restore what was saved of a floe into another (R344, R367, R383). `gs` maps the groups, `spb` the old and new SPB. -/
def floeResume (f p : Floe) (m : FloeMap) (gs : List (Nat × Nat)) (dflt now : Nat) (spb : Nat × Nat) : Floe :=
  let grp (g : GKey) : GKey := match gs.find? fun e => e.1 = g with | some e => e.2 | none => dflt
  let f := p.tiles.foldl (fun f e => setTile f (mapTo m.tiles e.1) e.2) f
  let f := p.ents.foldl (fun f e =>
    let x := e.2
    setEnt f (mapTo m.ents e.1) { x with
      st := if x.st = .running then .eligible else x.st
      recd := recMoved spb.1 spb.2 m.tiles m.snaps x.recd
      born := now
      serial := mapTo m.serials x.serial
      g := grp x.g
      snapA := x.snapA.map (mapTo m.snaps)
      snapB := x.snapB.map (mapTo m.snaps)
      lin := x.lin.map (mapTo m.lins) }) f
  let f := p.snaps.foldl (fun f e => { f with snaps := sset [] f.snaps (mapTo m.snaps e.1) e.2 }) f
  let f := p.lins.foldl (fun f e =>
    let x := e.2
    setLin f (mapTo m.lins e.1) { x with
      par := mapTo m.lins x.par
      root := mapTo m.lins x.root
      tile := mapTo m.tiles x.tile
      arg := if x.kind = 0 || x.kind = 4 then mapTo m.ents x.arg else x.arg
      made := mapTo m.serials x.made
      clsSerial := mapTo m.serials x.clsSerial }) f
  let ops := p.queue.map fun o => { o with
    serial := mapTo m.serials o.serial
    g := grp o.g
    lin := o.lin.map (mapTo m.lins)
    prov := o.prov.map (mapTo m.tiles)
    req := { o.req with
      d := if o.req.d < 8 then mapTo m.tiles o.req.d else 8
      a := if o.req.a < 8 then mapTo m.tiles o.req.a else 8
      b := if o.req.b < 8 then mapTo m.tiles o.req.b else 8
      addr := shift spb.1 spb.2 o.req.addr
      saddr := shift spb.1 spb.2 o.req.saddr } }
  { f with
    queue := f.queue ++ ops
    drains := f.drains ++ p.drains.map fun d => { d with g := d.g.map fun e => (grp e.1, e.2) }
    serial := (f.serial + m.serials.length) % 2 ^ 32 }

/-- The records of restored entries stand in the table of the floe's home core (R321). -/
def floeTable (s : State) (k : FKey) (ents : List (Nat × Nat)) : State :=
  ents.foldl (fun s e => tableWrite s k e.2 (entAt (getF s k) e.2).recd) s

/-- Registers that a saved group needs on its track: its footprint, and the REGS of the trace it stands ready at (R83). -/
def groupNeeds (s : State) (b : Batch) (q : Group) : Nat :=
  footprint q.alloc q.com.uni + match lowestPath q fun p => p.state = .ready with
    | some i => (traceEnt s b (getP q i).tix).regs
    | none => 0

/-- The tracks hold what the groups need in their new slots. -/
def tracksHold (s : State) (b : Batch) (gs : List (Group × GKey)) : Bool :=
  gs.all fun e =>
    let same := gs.filter fun x => x.2 / 16 = e.2 / 16
    decide ((same.map fun x => groupNeeds s b x.1).sum + trackUse s (gclu e.2) (gcore e.2) (gtrk e.2) ≤ 192)

/-- The key of the slot that a saved group left. -/
def oldKey (q : Group) : GKey := gkey q.clu q.core q.trk q.slot

/-- A group's tiles, or the tile that it waits for, are on the floe of its quad, which it must stay with (R326, R344, R363). -/
def tiedTo (f : Floe) (q : Group) : Bool :=
  (q.hnd.any fun h => h.2 != 0) || (f.tiles.any fun t => t.2.v && t.2.btag = q.btag && t.2.group = q.gnum)
    || q.paths.any fun p => match p.2.sync with | .msetl .. => true | _ => false

/-- The saved state of a floe. -/
def savedFloe (x : Saved) (k : FKey) : Floe := match x.floes.find? fun f => f.1 = k with | some f => f.2 | none => noFloe

/-- The floe of a group's new slot. -/
def slotFloe (g : GKey) : FKey := quadOf (gclu g * 192 + gcore g)

/-- The floes of the groups that are tied to theirs, before and after. -/
def floePairs (x : Saved) (gs : List (Group × GKey)) : List (Nat × Nat) :=
  ((gs.filter fun e => tiedTo (savedFloe x (floeOfG e.1)) e.1).map fun e => (floeOfG e.1, slotFloe e.2)).eraseDups

/-- Each old floe goes to one new floe, and none to that of another. -/
def pairsOk (ps : List (Nat × Nat)) : Bool := ps.all fun a => ps.all fun b => (a.1 = b.1) == (a.2 = b.2)

/-- Where the state of each saved floe goes: with the groups tied to it; else to the first floe of the cluster, from that of the allocation's
quad on, that has room and takes no other. -/
def floePlan (s : State) (x : Saved) (clu core : Nat) (ps : List (Nat × Nat)) : List (Nat × Nat) :=
  x.floes.foldl (fun plan f =>
    if plan.any fun e => e.1 = f.1 then plan
    else
      let quads := (List.range 48).map fun i => clu * 48 + (core / 4 + i) % 48
      match quads.find? fun k => !(plan.any fun e => e.2 = k) && floeFits (getF s k) f.2 with
      | some k => plan ++ [(f.1, k)]
      | none => plan) ps

def floeTo (plan : List (Nat × Nat)) (dflt k : FKey) : FKey := match plan.find? fun e => e.1 = k with | some e => e.2 | none => dflt

/-- A group in its new slot. -/
def placeGroup (q : Group) (g : GKey) (old new : Nat) (m : FloeMap) : Group :=
  { q with
    clu := gclu g
    core := gcore g
    trk := gtrk g
    slot := g % 16
    hnd := q.hnd.map fun e => (e.1, if 8 ≤ e.2 then 8 + mapTo m.tiles (e.2 - 8) else e.2)
    paths := q.paths.map fun e => (e.1, { e.2 with sync := syncMoved old new m.tiles m.serials e.2.sync }) }

/-- What names a group of a batch follows it to its slot: faults (R422), trap records (R247) and copies (R420). -/
def followGroup (s : State) (b : BTag) (gnum : Nat) (g : GKey) : State :=
  let s := updB s b fun x => { x with halt := x.halt.map fun h => { h with recs := h.recs.map fun r => if r.gnum = gnum then { r with g := g } else r } }
  { s with
    jobs := s.jobs.map fun j => if j.btag = b && j.gnum = gnum then { j with g := g } else j
    faults := s.faults.map fun f =>
      if f.btag = b && f.gnum = gnum then { f with g := g, clu := gclu g, core := gcore g, trk := gtrk g } else f }

/-- A saved tile copy is issued again (R320). A PUB of its shadow that has begun waits for it, so that the shadow's state does not fail it (R313).
(DEDUCED, log 49.) -/
def jobResume (s : State) (j : Job) : State :=
  match j.items with
  | [c] =>
    let ivs := ((List.range (dRows c.desc)).map fun r => (c.segs r).map fun e => (e.1, e.2.2)).flatten
    let h := c.handle.getD 0
    let cause := hCheck s j.ctx h { rd := !c.toGlobal, wr := c.toGlobal, ivs := ivs }
    if cause.isNone || (cause = some 5 && (hEntry s j.ctx (hIdx h)).closing) then
      { s with jobs := s.jobs ++ [{ j with items := [c.bind s j.ctx h ivs] }] }
    else
      let s := j.upd s fun q => setCpb q c.slot { (getCpb q c.slot) with st := .preset }
      { s with reports := s.reports ++ [.copyDropped j.ctx h] }
  | _ => { s with jobs := s.jobs ++ [j] }

/-- What a save cancelled is issued again in a group's new slot: SCAT elements, which are translated anew and before which the group enters no trace, and GATH elements, which
read memory anew (R227). A PUB that has not finished finds its lanes there (R319). -/
def elemsResume (s : State) (x : Saved) (old : GKey) (g : GKey) : State :=
  let q := getG s g
  let mine := x.scats.filter fun f => f.gnum = q.gnum
  let rd (e : Elem) : List (Nat × Nat × Nat × Nat × Word) :=
    (elemWrites e.dst e.n 1 (ctxRead s q.ctx e.va e.n)).map fun w => (0, e.slot, e.lane, w.1, w.2)
  let pubs := s.pubWaits.map fun w => if w.g = old && (List.range 32).any (fun i => waitsSync (getP q i) && (getP q i).tno = w.tno)
    then { w with g := g } else w
  setG { s with
    flight := s.flight ++ mine.map fun f => { f with g := g }
    pubWaits := pubs } g { q with rescat := !mine.isEmpty, sbw := (q.elems.map rd).flatten }

/-- What a group left to do goes on in its new slot: emissions, withdrawals, tickets. -/
def owedResume (s : State) (x : Saved) (gs : List (Nat × Nat)) (clu old new : Nat) : State :=
  { s with
    emits := s.emits ++ x.emits.map fun e => { e with g := mapTo gs e.g, items := e.items.map fun i => (i.1, shift old new i.2) }
    fwks := s.fwks ++ x.fwks.map fun f => { f with g := mapTo gs f.g, clu := clu, addr := shift old new f.addr }
    tickets := s.tickets ++ x.tickets.map fun t => { t with g := mapTo gs t.g, clu := clu } }

/-- What came true while groups were away is found at their resume: steps, openings, MSETL, answers to faults (R233, R247, R267, R274, R290, R363). -/
def resumeSweep (s : State) (gs : List GKey) : State := unresSweep (gs.foldl sweepGroup s)

/-- Resume of groups whose batch stayed resident (R423): on the same cluster; a group with tiles in the same quad. (DEDUCED, log 59.) -/
def resumePart (s : State) (i : Nat) (x : Saved) (slots : List GKey) : State :=
  let b := getB s x.btag
  let gs := x.groups.zip slots
  let keys := gs.map fun e => (oldKey e.1, e.2)
  let idm : FloeMap := ⟨[], [], [], [], []⟩
  let s : State := { s with saved := s.saved.eraseIdx i }
  let s := gs.foldl (fun s e =>
    let s := setG s e.2 (placeGroup e.1 e.2 b.spb b.spb idm)
    let s := updB s x.btag fun y => { y with groups := y.groups.map fun p => if p.1 = e.1.gnum then (p.1, e.2) else p }
    elemsResume (followGroup s x.btag e.1.gnum e.2) x (oldKey e.1) e.2) s
  let s : State := { s with
    floes := s.floes.map fun f => (f.1, { f.2 with ents := f.2.ents.map fun e =>
      (e.1, if entOf x.btag e.2 then { e.2 with g := mapTo keys e.2.g } else e.2) })
    teams := s.teams.map fun t => (t.1, if t.2.v && t.2.btag = x.btag && x.groups.any (fun q => q.gnum = t.2.lastNum)
      then { t.2 with lastG := mapTo keys t.2.lastG } else t.2) }
  refreeze (resumeSweep (owedResume s x keys b.clu b.spb b.spb) slots) x.btag

def partFits (s : State) (x : Saved) (slots : List GKey) : Bool :=
  let b := getB s x.btag
  let gs := x.groups.zip slots
  b.res && slots.length = x.groups.length && slots.eraseDups.length = slots.length && (slots.all (slotOpen s b.clu 0)) && tracksHold s b gs
    && gs.all fun e => !tiedTo (getF s (floeOfG e.1)) e.1 || slotFloe e.2 = floeOfG e.1

/-- A whole batch fits (R291, R344, R423). -/
def wholeFits (s : State) (x : Saved) (b : Batch) (clu core : Nat) (slots : List GKey) : Bool :=
  let gs := x.groups.zip slots
  let ps := floePairs x gs
  let plan := floePlan s x clu core ps
  !(getB s x.btag).res && slots.length = x.groups.length && hasRoom s clu core (b.sps + b.mbox + b.planes) b.settle 0 0 slots && tracksHold s b gs && pairsOk ps
    && (x.teams.all fun t => !(getT s (tkey clu t.1)).v)
    && x.floes.all fun f => plan.any fun e => e.1 = f.1 && floeFits (getF s e.2) f.2

/-- Slots for groups, each the first of those it may take that keeps its track within 192 registers (R83). -/
def fitSlots (s : State) (b : Batch) (from_ : List GKey) (used : List (Group × GKey)) (gs : List Group) : Option (List (Group × GKey)) :=
  gs.foldl (fun a q => a.bind fun u =>
    (from_.find? fun g => !(u.any fun e => e.2 = g) && slotOpen s b.clu 0 g && tracksHold s b (u ++ [(q, g)])).map fun g => u ++ [(q, g)]) (some used)

/-- Slots of a floe's quad, and of a cluster. -/
def quadSlots (k : FKey) : List GKey := (List.range (4 * 128)).map fun i => k * (4 * 128) + i
def cluSlots (clu : Nat) : List GKey := (List.range (192 * 128)).map fun i => clu * (192 * 128) + i

/-- The slots that a saved image's groups stand in, in its order. -/
def inOrder (x : Saved) (u : List (Group × GKey)) : List GKey := x.groups.filterMap fun q => (u.find? fun e => e.1.gnum = q.gnum).map Prod.snd

/-- Slots for the groups of a batch that stayed (R423). -/
def partSlots (s : State) (x : Saved) : Option (List GKey) :=
  let b := getB s x.btag
  let tied (q : Group) : Bool := tiedTo (getF s (floeOfG q)) q
  let home := (x.groups.filter tied).foldl (fun a q => a.bind fun u => fitSlots s b (quadSlots (floeOfG q)) u [q]) (some [])
  (home.bind fun u => fitSlots s b (cluSlots b.clu) u (x.groups.filter fun q => !tied q)).map (inOrder x)

/-- Slots on a cluster for the groups of a whole batch: those tied to one floe in a quad whose floe takes its state, then the others (R291, R344). -/
def wholeSlots (s : State) (x : Saved) (b : Batch) (clu : Nat) : Option (List GKey) :=
  let b : Batch := { b with clu := clu }
  let tied (q : Group) : Bool := tiedTo (savedFloe x (floeOfG q)) q
  let quads := ((x.groups.filter tied).map floeOfG).eraseDups
  let put := quads.foldl (fun a k => a.bind fun u =>
    let mine := x.groups.filter fun q => tied q && floeOfG q = k
    ((List.range 48).map fun i => clu * 48 + i).findSome? fun n =>
      if (u.any fun e => slotFloe e.2 = n) || !floeFits (getF s n) (savedFloe x k) then none else fitSlots s b (quadSlots n) u mine) (some [])
  (put.bind fun u => fitSlots s b (cluSlots clu) u (x.groups.filter fun q => !tied q)).map (inOrder x)

/-- Resume of a whole batch (R288, R291, R320, R344, R423). -/
def resumeWhole (s : State) (i : Nat) (x : Saved) (b : Batch) (clu core : Nat) (slots : List GKey) : State :=
  let v := fresh s
  let places := allocPlaces s clu core (b.sps + b.mbox + b.planes)
  let spb := core * 2 ^ 18 + places.getD (v.1.toNat % places.length) 0
  let lo := spadKey clu spb
  let gs := x.groups.zip slots
  let keys := gs.map fun e => (oldKey e.1, e.2)
  let ps := floePlan s x clu core (floePairs x gs)
  let dflt := quadOf (clu * 192 + core)
  let s : State := { v.2 with saved := s.saved.eraseIdx i, serial := s.serial + 1, formed := s.formed ++ x.formed }
  let nb : Batch := { b with clu := clu, core := core, spb := spb, placed := s.serial, groups := gs.map fun e => (e.1.gnum, e.2) }
  let s := setB s x.btag nb
  let s := allocClear s clu spb (b.sps + b.mbox + b.planes)
  let s : State := { s with
    spad := x.bytes.foldl (fun m e => memSet m (lo + e.1) e.2) s.spad
    emptyLine := x.empties.foldl (fun m k => sset false m (lo / 128 + k) true) s.emptyLine
    bars := s.bars ++ x.bars.map fun k => lo + k }
  let s := x.teams.foldl (fun s t => setT s (tkey clu t.1) { t.2 with lastG := mapTo keys t.2.lastG }) s
  let waits (k : FKey) : List Nat := ((x.groups.filter fun q => floeOfG q = k).map fun q => q.paths.filterMap fun e =>
    match e.2.sync with | .msetl _ n => some n | _ => none).flatten
  let maps := x.floes.map fun f => (f.1, floeMap (getF s (floeTo ps dflt f.1)) f.2 (waits f.1))
  let mapOf (k : FKey) : FloeMap := match maps.find? fun e => e.1 = k with | some e => e.2 | none => ⟨[], [], [], [], []⟩
  let s := x.floes.foldl (fun s f =>
    let k := floeTo ps dflt f.1
    setF s k (floeResume (getF s k) f.2 (mapOf f.1) keys (slots.headD 0) (sget 0 s.clock clu).toNat (b.spb, spb))) s
  let s := x.floes.foldl (fun s f => floeTable s (floeTo ps dflt f.1) (mapOf f.1).ents) s
  let s := x.counts.foldl (fun s f => updF s (floeTo ps dflt f.1) fun k => f.2.foldl (fun k e => statAdd k x.ctx (e.1 / 3) (e.1 % 3) e.2) k) s
  let s := gs.foldl (fun s e =>
    let s := followGroup (setG s e.2 (placeGroup e.1 e.2 b.spb spb (mapOf (floeOfG e.1)))) x.btag e.1.gnum e.2
    elemsResume s x (oldKey e.1) e.2) s
  let s := owedResume s x keys clu b.spb spb
  let s := x.jobs.foldl (fun s j => jobResume s { j with
    core := clu * 192 + core
    g := ((gs.find? fun e => e.1.gnum = j.gnum).map Prod.snd).getD awayKey
    items := j.items.map fun c => { c with saddr := shift b.spb spb c.saddr, bar := c.bar.map (shift b.spb spb) } }) s
  resumeSweep s slots

/-- BATCH_RESUME (R423): the saved entry i, where its context is bound and there is room. -/
def execBatchResume (ctx i : Nat) (clu core : Nat) (slots : List GKey) (s : State) : Out :=
  match s.saved[i]? with
  | none => .next s
  | some x =>
    let c := getC s ctx
    if x.ctx != ctx || !c.bound || c.failed || c.unbinding || (getK s ctx).cutting then .next s
    else
      match x.batch with
      | none => if partFits s x slots then .next (resumePart s i x slots) else .next s
      | some b => if wholeFits s x b clu core slots then .next (resumeWhole s i x b clu core slots) else .next s

/-! ### Contexts (R394, R424, R481) -/

/-- CTXCMD with STAT, BUSY and CTXID. -/
def ctxCmd (stat ctx : Nat) (busy : Bool) : DWord := BitVec.ofNat 64 (fieldAt 28 3 stat + (if busy then 2 ^ 31 else 0) + fieldAt 0 16 ctx)
def setCtxCmd (s : State) (v : DWord) : State := { s with regs := { s.regs with ctxcmd := v } }
def ctxBusy (s : State) : Bool := s.regs.ctxcmd.getLsbD 31

/-- A descriptor that is refused at bind (R394). (DEDUCED, log 62.) -/
def ctxDescBad (d ctx : Nat) : Bool :=
  nbits d 15 0 != ctx || nbits d 31 18 != 0 || nbits d 254 244 != 0 || nbits d 1023 768 != 0

/-- The context that a descriptor describes. -/
def ctxOfDesc (old : Ctx) (d : Nat) : Ctx :=
  let f (o n : Nat) : Nat := nbits d (8 * (o + n) - 1) (8 * o)
  { old with
    bound := true, failed := false, stoppedQueues := false, unbinding := false, rev1 := d.testBit 16, recov := d.testBit 17, nh := f 4 4
    ptroot := f 8 8, htab := f 0x10 8, shdw := f 0x18 4, trapn := f 0x1C 4, rime := f 0x20 8, trapa := f 0x28 8, cola := f 0x30 8
    stata := f 0x38 8, savea := f 0x40 8, savel := f 0x48 8, bina := f 0x50 8, faila := f 0x58 8 }

/-- A descriptor hands the CTXID to another context than the one that last bore it: its tables, save area or bins lie elsewhere.
(DEDUCED, log 89.) -/
def ctxIsOther (old : Ctx) (d : Nat) : Bool :=
  let new := ctxOfDesc old d
  old != noCtx && (old.ptroot != new.ptroot || old.savea != new.savea || old.bina != new.bina)

/-- Nothing that an earlier context left under a CTXID reaches the one that bears it next (R9). (DEDUCED, log 89.) -/
def ctxForget (s : State) (ctx : Nat) : State :=
  let s : State := { s with ckpts := s.ckpts.filter fun e => e.1 != ctx }
  { setC s ctx noCtx with
    saved := s.saved.filter fun x => x.ctx != ctx
    formed := s.formed.filter fun x => x.ctx != ctx
    dispatches := s.dispatches.filter fun x => x.ctx != ctx
    faults := s.faults.filter fun x => x.ctx != ctx
    sigs := s.sigs.filter fun x => x.ctx != ctx
    pubWaits := s.pubWaits.filter fun x => x.ctx != ctx
    jobs := s.jobs.filter fun x => x.ctx != ctx
    safe := s.safe.filter fun x => x.ctx != ctx
    floes := s.floes.map fun f => (f.1, { f.2 with
      stats := if f.2.statCtx = ctx then [] else f.2.stats
      drains := f.2.drains.filter fun d => d.ctx != ctx })
    queues := s.queues.map fun e => (e.1, if e.2.ctx = ctx then { e.2 with inProg := [], waiting := false, stopped := false, bad := none } else e.2) }

/-- CTX_BIND (R394, R481): every core drops its copies of the context's code lines (R129). (DEDUCED, log 62; DEDUCED, log 73.) -/
def execCtxBind (ctx : Nat) (s : State) : Out :=
  if ctxBusy s || 2 ^ 16 ≤ ctx || s.mg.noFw then .next s
  else if s.mg.wiping then .next (setCtxCmd s (ctxCmd 2 ctx false))
  else if (getC s ctx).bound then .next (setCtxCmd s (ctxCmd 3 ctx false))
  else
    let d := leNat (memRead s.dmem (s.regs.ctbase.toNat + 128 * ctx) 128)
    if ctxDescBad d ctx then
      .next { setCtxCmd s (ctxCmd 1 ctx false) with reports := s.reports ++ [.bindRefused ctx] }
    else
      let s := if ctxIsOther (getC s ctx) d then ctxForget s ctx else s
      let s : State := { s with code := s.code.filter fun l => l.ctx != ctx }
      .next (setCtxCmd (updC s ctx fun c => ctxOfDesc c d) (ctxCmd 0 ctx false))

/-- Resident batches of a context. -/
def batchesOf (s : State) (ctx : Nat) : List BTag := (s.batches.filter fun e => e.2.res && e.2.ctx = ctx).map Prod.fst

/-- Resident groups of a context. -/
def ctxGroups (s : State) (ctx : Nat) : List GKey := (s.groups.filter fun e => e.2.res && e.2.ctx = ctx && e.2.prof == .trace).map Prod.fst

/-- What a context leaves when it is unbound: its queues leave residency, its code pages the code-page set (R129, R424). -/
def unbindRun (s : State) (ctx : Nat) : State :=
  let now := s.serial + 1
  let s := updC { s with serial := now } ctx fun c => { c with bound := false, unbinding := false }
  { s with
    queues := s.queues.map fun e => (e.1, if e.2.resident && e.2.ctx = ctx then { e.2 with resident := false, outSince := now } else e.2)
    tlb := s.tlb.filter fun t => t.ctx != ctx
    code := s.code.filter fun l => l.ctx != ctx }

/-- Drains of a context that no group waits for, which a save does not take (R179, R367). -/
def drainsOwed (s : State) (ctx : Nat) : Bool := s.floes.any fun f => f.2.drains.any fun d => d.ctx = ctx && d.g.isNone

/-- CTX_UNBIND (R424, R481): the command starts the evictions and stays BUSY until every batch is saved. -/
def execCtxUnbind (ctx : Nat) (s : State) : Out :=
  if ctxBusy s then
    if (getC s ctx).unbinding && evictReady s (ctxGroups s ctx) (batchesOf s ctx) && !drainsOwed s ctx then
      .next (setCtxCmd (unbindRun (evictRun s (ctxGroups s ctx) (batchesOf s ctx)) ctx) (ctxCmd 0 ctx false))
    else .next s
  else if 2 ^ 16 ≤ ctx then .next s
  else if !(getC s ctx).bound then .next (setCtxCmd s (ctxCmd 3 ctx false))
  else
    .next (setCtxCmd (evictBegin (updC s ctx fun c => { c with unbinding := true }) (ctxGroups s ctx) (batchesOf s ctx)) (ctxCmd 0 ctx true))

end Sys2Proof.Machine
end

