-- ==== Sys2Proof/Machine/Dram.lean ====
section
/-! DEFINITION. Device memory: fault records and their answers (R232, R233, R436), invalidation (R434, R435), banks, row activation
counters and refresh management (R429, R441 to R446), errors and predictive counters (R438, R447). -/
namespace Sys2Proof.Machine
open Sys2Proof Sys2Proof.Checks

/-! ### Fault records (R232, R436) -/

def accCode : AccKind → Nat
  | .load => 0 | .store => 1 | .atomic => 2 | .gath => 3 | .scat => 4

/-- The 256 bits of a fault record (R232). -/
def faultWord (f : FaultRec) : Nat :=
  fieldAt 199 57 f.va + fieldAt 196 3 (accCode f.kind) + (if f.wr then 2 ^ 195 else 0) + fieldAt 168 24 f.tix + fieldAt 160 8 f.rcnt
    + fieldAt 128 32 f.lanes.toNat + fieldAt 112 16 f.ctx + fieldAt 102 10 f.gnum + fieldAt 99 3 f.clu + fieldAt 91 8 f.core
    + fieldAt 88 3 f.trk + fieldAt 83 5 f.path

def faultRing : Nat := 4096

/-- FAULT_RECORD_WRITE (R436): the oldest record that waits, once the ring has fewer than 4,096 unanswered records. -/
def execFaultRecordWrite (s : State) : Out :=
  let unanswered := (s.faults.filter fun f => f.idx.isSome && !f.unres).length
  match s.faults.findIdx? fun f => f.idx.isNone && !f.mgmt with
  | none => .next s
  | some i =>
    let n := s.regs.frwr.toNat
    let k := n % faultRing
    if faultRing ≤ unanswered || s.faults.any (fun f => f.idx = some k && !f.unres) then .next s
    else
      .next { s with
        hmem := memWrite s.hmem (s.regs.frbase.toNat + 32 * k) (leBytes 32 ((s.faults[i]?.map faultWord).getD 0))
        regs := { s.regs with frwr := s.regs.frwr + 1 }
        faults := s.faults.modify i fun f => { f with idx := some k } }

/-- The unanswered record at a ring index. -/
def faultAt (s : State) (i : Nat) : Option FaultRec := s.faults.find? fun f => f.idx = some i && !f.unres

/-- FANS takes a value. -/
def setFans (s : State) (i code : Nat) : State := { s with regs := { s.regs with fans := BitVec.ofNat 64 (fieldAt 12 2 code + fieldAt 0 12 i) } }

def faultGone (s : State) (f : FaultRec) : State := { s with faults := s.faults.filter fun x => x != f }

/-- Change the group that a record names, where it is resident or saved (R422). -/
def updFaulted (s : State) (f : FaultRec) (h : Group → Group) : State :=
  let mine (q : Group) : Bool := q.btag = f.btag && q.gnum = f.gnum
  { s with
    groups := s.groups.map fun e => if e.2.res && mine e.2 then (e.1, h e.2) else e
    saved := s.saved.map fun x => { x with groups := x.groups.map fun q => if mine q then h q else q } }

/-- The replay entry changes to ready at its index, and merges (R233). -/
def replayReadyAt (q : Group) (i : Nat) : Group := if inReplay (getP q i) then makeReady q i (getP q i).tix else q

/-- Drop a page's translation from every TLB. -/
def dropPage (s : State) (ctx va : Nat) : State :=
  { s with tlb := s.tlb.filter fun t => !(t.ctx = ctx && overlapIv (t.vpage, t.size) (va / 0x4000 * 0x4000, 0x4000)) }

/-- FAULT_ANSWER_SERVICED (R233, R436). -/
def execFaultAnswerServiced (i : Nat) (s : State) : Out :=
  match faultAt s i with
  | none => .next s
  | some f => .next (updFaulted (faultGone (dropPage (setFans s i 0) f.ctx f.va) f) f fun q => replayReadyAt q f.path)

/-- FAULT_ANSWER_UNRESOLVABLE (R233): Translation for every lane of the entry. It waits for a saved group to resume, and for a halt whose
handlers run to end (R247). (DEDUCED, log 61.) -/
def execFaultAnswerUnresolvable (i : Nat) (s : State) : Out :=
  match faultAt s i with
  | none => .next s
  | some f =>
    let s := setFans s i 1
    if unresReady s f then .next (unresolve s f)
    else .next { s with faults := s.faults.map fun x => if x = f then { x with unres := true } else x }

/-- FAULT_ANSWER_RETAINED (R233): the entry stays in replay, and the record unanswered. -/
def execFaultAnswerRetained (i : Nat) (s : State) : Out :=
  match faultAt s i with
  | none => .next s
  | some _ => .next (setFans s i 2)

/-! ### Invalidation (R434, R435) -/

/-- BUSY of TLBICTL: an invalidation is in progress. -/
def tlbBusy (s : State) : Bool := s.inval.isSome

/-- A translation that an invalidation drops (R435). -/
def invalHits (ctx : Nat) (r : Option (Nat × Nat)) (t : Tlb) : Bool :=
  t.ctx = ctx && (match r with | some e => overlapIv (t.vpage, t.size) e | none => true)

/-- Start an invalidation of a context's translations, of a range or of all: entries are dropped. -/
def invalStart (s : State) (ctx : Nat) (r : Option (Nat × Nat)) : State :=
  if tlbBusy s then s
  else
    let r := r.map fun e => (e.1 / 2 ^ 14 * 2 ^ 14 % 2 ^ 57, e.2 / 2 ^ 14 * 2 ^ 14)
    let regs := { s.regs with tlbictl := BitVec.ofNat 64 (fieldAt 16 16 ctx + if r.isNone then 4 else 0) }
    let regs := match r with | some (va, len) => { regs with tlbiva := BitVec.ofNat 64 va, tlbilen := BitVec.ofNat 64 len } | none => regs
    { s with
      regs := regs
      inval := some (ctx, r)
      dropped := s.tlb.filter (invalHits ctx r)
      tlb := s.tlb.filter fun t => !invalHits ctx r t }

def execTlbInvalidateRange (ctx va len : Nat) (s : State) : Out := .next (invalStart s ctx (some (va, len)))
def execTlbInvalidateAll (ctx : Nat) (s : State) : Out := .next (invalStart s ctx none)

/-- The virtual place of an effect that was translated at issue. -/
def effVa : Eff → Option (Nat × Nat)
  | .store sp va _ v => if sp = .dev || sp = .host then some (va, v.length) else none
  | .atom sp va _ _ ty _ _ _ => if sp = .dev || sp = .host then some (va, (tyBytes ty).getD 4) else none
  | .scat sp va _ v _ => if sp = .dev || sp = .host then some (va, v.length) else none
  | _ => none

/-- A signal lies in a page that a dropped translation named. -/
def sigDropped (s : State) (sp : Space) (pa : Nat) : Bool := s.dropped.any fun t =>
  sp == (if t.host then .host else .dev) && decide (t.ppage ≤ pa) && decide (pa < t.ppage + t.size)

/-- A SGNL of the context, issued or on its way, goes through a dropped translation. -/
def sgnlOwed (s : State) (ctx : Nat) : Bool :=
  (s.sigs.any fun d => d.g.isSome && d.ctx = ctx && sigDropped s d.sp d.addr)
    || s.groups.any fun e => e.2.res && e.2.ctx = ctx && (match e.2.run.bind Run.sync with
      | some y => (match y.sync with | .sgnl sp a .. => sigDropped s sp a | _ => false)
      | none => false)

/-- An access through a dropped translation is not yet performed: in flight, or in the buffer of a running trace. -/
def invalOwed (s : State) : Bool :=
  match s.inval with
  | none => false
  | some (ctx, r) =>
    sgnlOwed s ctx ||
    let hit (e : Eff) : Bool := match effVa e with
      | some iv => (match r with | some x => overlapIv iv x | none => true)
      | none => false
    (s.flight.any fun f => (getB s f.btag).ctx = ctx && hit f.eff)
      || s.groups.any fun e => e.2.res && e.2.ctx = ctx && (match e.2.run with | some q => q.bufs.any fun b => hit b.eff | none => false)

/-- A write that a lane may not yet have come upon lies in a page that a dropped translation named. -/
def inDropped (s : State) (e : Stale) : Bool := s.dropped.any fun t =>
  e.sp == (if t.host then .host else .dev) && decide (t.ppage ≤ e.pa) && decide (e.pa < t.ppage + t.size)

/-- TLB_INVALIDATE_DONE (R435): what was translated through a dropped entry has been performed for every observer. -/
def execTlbInvalidateDone (s : State) : Out :=
  if tlbBusy s && !invalOwed s then .next { s with inval := none, dropped := [], stale := viewCut (fun e => if inDropped s e then e.lanes else 0) s.stale } else .next s

/-! ### Banks and row counters (R429, R441 to R446) -/

/-- Reset value of the activation configuration (R442): RTH 0x1000, BLAST 1, BOW 3, BOI 0x28. -/
def actReset : DWord := BitVec.ofNat 64 (fieldAt 48 16 0x1000 + fieldAt 46 2 1 + fieldAt 40 6 3 + fieldAt 30 7 0x28)
def actOf (s : State) (stack : Nat) : Nat := (sget actReset s.actCfg stack).toNat
def rth (s : State) (stack : Nat) : Nat := nbits (actOf s stack) 63 48

/-- Rows of a bank (R427). -/
def bankRows : Nat := 98304

/-- The neighbours of a row within a distance, in ascending order (R427). -/
def neighbours (row blast : Nat) : List Nat :=
  ((List.range (2 * blast + 1)).filterMap fun i => if i = blast || row + i < blast then none else some (row + i - blast)).filter fun r => decide (r < bankRows)

/-- An alert (R443): logged, its refresh-management commands due, the counter 0, the bank in back-off without an open row. -/
def alert (s : State) (b : BankId) (row : Nat) : State :=
  let s := logErr s 5 none { noErr .rowact with stack := b.stack, chan := b.chan, bg := b.bg, hbk := b.bank, row := row, paddr := rowAddr b row }
  let k := getBank s b
  let cmds := (neighbours row (nbits (actOf s b.stack) 47 46)).map fun r => (r, false)
  { setBank s b { k with opened := none, rfm := k.rfm ++ cmds, backoff := true } with actCount := sset 0 s.actCount (rowKey b row) 0 }

/-- BANK_REQUEST_SERVICE (R429, R441, R443): the oldest request, once no refresh-management command holds the bank. (DESIGN CHOICE, log 23.) -/
def execBankRequestService (b : BankId) (s : State) : Out :=
  let k := getBank s b
  match k.queue with
  | [] => .next s
  | row :: _ =>
    if !k.rfm.isEmpty then .next s
    else if k.opened = some row then .next (setBank s b k.served)
    else
      let n := sget 0 s.actCount (rowKey b row) + 1
      let s := setBank { s with actCount := sset 0 s.actCount (rowKey b row) n } b { k.served with opened := some row }
      .next (if rth s b.stack ≤ n then alert s b row else s)

/-- RFM_COMMAND_DONE (R443, R446). -/
def execRfmCommandDone (b : BankId) (s : State) : Out :=
  let k := getBank s b
  match k.rfm with
  | [] => .next s
  | (row, refresh) :: r =>
    let s := setBank s b { k with rfm := r }
    .next (if refresh then { s with actCount := sset 0 s.actCount (rowKey b row) 0 } else s)

/-- BACKOFF_EXPIRY (R443): the window counts from the end of the last command. -/
def execBackoffExpiry (b : BankId) (s : State) : Out :=
  let k := getBank s b
  if k.rfm.isEmpty then .next (setBank s b { k with backoff := false }) else .next s

/-- BANK_IDLE_CLOSE (R429). -/
def execBankIdleClose (b : BankId) (s : State) : Out :=
  let k := getBank s b
  if k.queue.isEmpty then .next (setBank s b { k with opened := none }) else .next s

/-- PERIODIC_REFRESH (R441, R446): a refresh-management command due for the row stands in for it. -/
def execPeriodicRefresh (b : BankId) (row : Nat) (s : State) : Out :=
  let k := getBank s b
  if k.rfm.any fun e => e.1 = row then
    .next (setBank s b { k with rfm := k.rfm.map fun e => if e.1 = row then (row, true) else e })
  else .next { s with actCount := sset 0 s.actCount (rowKey b row) 0 }

/-- The fields of the activation configuration that a write sets; none where one is out of range (R442). -/
def actWrite (v : Nat) : Option DWord :=
  let blast := nbits v 47 46
  let boi := nbits v 36 30
  if nbits v 63 48 < 8 || (blast != 1 && blast != 2) || boi < 10 || 100 < boi then none
  else some (BitVec.ofNat 64 (fieldAt 48 16 (nbits v 63 48) + fieldAt 46 2 blast + fieldAt 40 6 (nbits v 45 40) + fieldAt 30 7 boi))

/-- A threshold of R447 that the management core sets; one out of its range changes nothing. (DESIGN CHOICE, log 76.) -/
def thresholdWrite (s : State) (k v : Nat) : State :=
  updM s fun m =>
    match k with
    | 0 => if 1 ≤ v && v ≤ 255 then { m with thRow := v } else m
    | 1 => if v < 2 ^ 32 then { m with thReplay := v } else m
    | 2 => if v < 2 ^ 32 then { m with thRetry := v } else m
    | 3 => if v < 256 then { m with thMargin := v } else m
    | _ => m

/-- ROW_COUNTER_CONFIG (R442): the register of a stack; as stacks 12 to 15, the thresholds of R447 in their order. (DESIGN CHOICE, log 76.) -/
def execRowCounterConfig (stack : Nat) (v : DWord) (s : State) : Out :=
  if 12 ≤ stack then .next (thresholdWrite s (stack - 12) v.toNat)
  else
    match actWrite v.toNat with
    | some w => .next { s with actCfg := sset actReset s.actCfg stack w }
    | none => .next s

/-! ### Errors (R437, R438) and predictive counters (R447) -/

/-- A predictive record. (DESIGN CHOICE, log 76.) -/
def predict (s : State) (e : MemErr) : State := logOwn s 4 e

/-- The corrected errors of a row: 8 bits, for the 1,024 rows of a stack that erred most recently. -/
def rowErr (s : State) (e : MemErr) : State :=
  let row := rowKey { stack := e.stack, chan := e.chan, bg := e.bg, bank := e.hbk } e.row
  let old := match s.mg.rowErrs.find? fun x => x.1 = e.stack && x.2.1 = row with | some x => x.2.2 | none => 0
  let n := Nat.min 255 (old + 1)
  let others := s.mg.rowErrs.filter fun x => !(x.1 = e.stack && x.2.1 = row)
  let mine := (others.filter fun x => x.1 = e.stack).take 1023
  let s : State := { s with mg := { s.mg with rowErrs := (e.stack, row, n) :: mine ++ others.filter fun x => x.1 != e.stack } }
  if old < s.mg.thRow && s.mg.thRow ≤ n then predict s e else s

/-- The core's copy of a code line is poisoned (R248). -/
def poisonLine (s : State) (e : MemErr) : State :=
  { s with code := s.code.map fun c =>
      if c.core = e.clu * 192 + e.core && c.line = e.paddr / 128 && (match e.ctx with | some x => c.ctx = x | none => true) then { c with poison := true } else c }

/-- A unit holds a resident batch. Every batch's memory lies in every stack (R426). (DEDUCED, log 78.) -/
def unitBusy (s : State) (u : TestUnit) : Bool :=
  match u with
  | .core c => (s.groups.any fun e => e.2.res && e.2.prof == .trace && e.1 / 128 = c) || s.batches.any fun e => e.2.res && e.2.clu * 192 + e.2.core = c
  | .quad f =>
    (s.groups.any fun e => e.2.res && e.2.prof == .trace && quadOf (e.1 / 128) = f)
      || s.batches.any fun e => e.2.res && (quadOf (e.2.clu * 192 + e.2.core) = f || floeHas (getF s f) e.1)
  | .stack _ => s.batches.any fun e => e.2.res

/-- Every cluster whose batches a unit holds is stopped. -/
def unitStopped (s : State) (u : TestUnit) : Bool :=
  match u with
  | .core c => (getD s (c / 192)).stopped
  | .quad f => (getD s (f / 48)).stopped
  | .stack _ => s.batches.all fun e => !e.2.res || (getD s e.2.clu).stopped

/-- The management bus reaches a unit's test and fence controls: it holds no resident batch, or it is stopped (R28). (DEDUCED, log 78.) -/
def unitOpen (s : State) (u : TestUnit) : Bool := !unitBusy s u || unitStopped s u

/-- The fences that wait are taken as soon as their units may be reached (R28). -/
def fenceSweep (s : State) : State :=
  let ok (f : Fence) : Bool := (fenceUnit f).all (unitOpen s)
  if s.mg.fencing.any ok then
    { s with mg := { s.mg with fenced := s.mg.fenced ++ s.mg.fencing.filter ok, fencing := s.mg.fencing.filter fun f => !ok f } }
  else s

/-- A unit is fenced (R2): nothing more is placed on it, and the fence is taken once the unit may be reached (R28). -/
def fence (s : State) (f : Fence) : State := fenceSweep { s with mg := { s.mg with fencing := s.mg.fencing ++ [f] } }

/-- MEMORY_ERROR (R438). (DESIGN CHOICE, log 111.) -/
def execMemoryError (e : MemErr) (s : State) : Out :=
  match e.kind with
  | .corrected =>
    let s := logErr s 0 e.ctx e
    .next (if e.unit = .stack then rowErr s e else s)
  | .tlbParity => .next { logErr s 0 e.ctx e with tlb := s.tlb.filter fun t => t.clu != e.clu }
  | .cleanCacheLine => .next (touch { logErr s 0 e.ctx e with cached := s.cached.filter fun l => l != e.paddr / 128 } .read .dev e.paddr)
  | .scrubPoison => .next { logErr s 1 e.ctx e with poison := sset false s.poison (e.paddr / 64) true }
  | .delivered => match e.ctx with | some c => .next (ctxError s c e) | none => .next (logErr s 2 none e)
  | .ownedStore => match e.ctx with | some c => .next (ctxError s c e) | none => .next (fence (logErr s 3 none e) (.unit e))
  | .codeLine => .next (poisonLine (logErr s 1 e.ctx e) e)
  | .unowned => .next (fence (logErr s 3 none e) (.unit e))

/-- A management scrub rewrites a burst (R438): its poison ends, and what it then holds is left open. (DESIGN CHOICE, log 56.) -/
def burstRewrite (s : State) (pa : Nat) : State :=
  let x := (List.range 8).foldl (fun (a : List Byte × State) _ => let v := fresh a.2; (a.1 ++ leBytes 8 v.1.toNat, v.2)) ([], s)
  { x.2 with dmem := memWrite x.2.dmem (pa / 64 * 64) x.1, poison := sset false x.2.poison (pa / 64) false }

/-- PATROL_SCRUB (R438): a burst is read from its array and written back corrected, so its bytes stay as they are. Of a poisoned one a
management scrub may come of it, which is left open. (DESIGN CHOICE, log 56.) -/
def execPatrolScrub (paddr : Nat) (s : State) : Out :=
  let s : State := { s with banks := askBank s paddr }
  let v := fresh s
  .next (if sget false s.poison (paddr / 64) && v.1.getLsbD 0 then burstRewrite v.2 paddr else s)

end Sys2Proof.Machine
end

