-- ==== Sys2Proof/Machine/DebugOps.lean ====
section
/-! DEFINITION. The debug block: control, stop-the-cluster and resume, commands, register writes, and what its registers read (R448 to
R462). -/
namespace Sys2Proof.Machine
open Sys2Proof Sys2Proof.Checks

/-! ### Path records (R450, R451) -/

/-- The record of an entry of a group as the block of a context sees it. -/
def pathRec (s : State) (ctx : Nat) (g : GKey) (i : Nat) : Nat :=
  let q := getG s g
  let place := fieldAt 202 3 q.clu + fieldAt 194 8 q.core + fieldAt 191 3 q.trk + fieldAt 187 4 q.slot
  if !q.res then 0
  else if q.ctx != ctx then place + 2 ^ 184
  else
    let p := getP q i
    let off := if p.mid then p.off else match q.run with | some r => if r.path = i && p.state = .running then r.off else 0 | none => 0
    fieldAt 240 16 q.ctx + fieldAt 224 16 q.btag + fieldAt 214 10 q.gnum + fieldAt 209 5 i + fieldAt 205 4 p.state.code + place
      + (if p.mid then 2 ^ 186 else 0) + (if p.disc || (q.disc && q.stopPath = i) then 2 ^ 185 else 0) + fieldAt 160 24 p.tix + fieldAt 152 8 off
      + fieldAt 144 8 p.soff + fieldAt 132 12 q.skid + fieldAt 129 3 p.cause + (if p.wv then 2 ^ 128 + fieldAt 125 3 p.wpn + fieldAt 64 57 p.addr else 0)
      + fieldAt 121 4 (if p.state = .held then p.ust else p.state).code + fieldAt 32 32 q.live.toNat + p.mask.toNat

/-- The entry that a stop table names for a group: the one that ran or was held by the stop, else the one of smallest index. (DEDUCED, log 65.) -/
def recPath (q : Group) : Nat :=
  match q.run with
  | some r => r.path
  | none => if q.stopPath < 32 && (getP q q.stopPath).state != .empty then q.stopPath else (lowestPath q fun p => p.state != .empty).getD 0

/-- Bytes 31:0 of the record of each group slot of a cluster. (DEDUCED, log 65.) -/
def stopTable (s : State) (clu : Nat) : List Byte :=
  ((List.range (192 * 128)).map fun k => let g := clu * (192 * 128) + k; leBytes 32 (pathRec s (getD s clu).ctx g (recPath (getG s g)))).flatten

/-! ### Stop and resume (R455, R456) -/

/-- The debug blocks take no write in Return (R480). -/
def debugOpen (s : State) : Bool := s.mg.lcs != 3

/-- DEBUG_STOP_REQUEST (R449, R455). -/
def execDebugStopRequest (clu : Nat) (s : State) : Out :=
  if debugOpen s && (getD s clu).en then .next (stopCluster s clu) else .next s

/-- A stopped group may run again, as far as the debugger goes. -/
def debugGo (s : State) (q : Group) : Group :=
  unholdAll s { q with debugStop := false, stopPath := 32, skid := 0, disc := false } fun p => p.cause = 4

/-- RESUME of a stopped cluster (R456): floes grant again. -/
def resumeCluster (s : State) (clu : Nat) : State :=
  if !(getD s clu).stopped then s
  else
    let s := updD s clu fun d => { d with stopped := false }
    { s with
      groups := s.groups.map fun e => (e.1, if e.2.res && e.2.clu = clu then debugGo s e.2 else e.2)
      floes := s.floes.map fun f => if f.1 / 48 = clu then (f.1, { f.2 with quiet := false }) else f }

/-- DEDUCED, log 63. -/
def execDebugResume (clu : Nat) (s : State) : Out :=
  if debugOpen s && (getD s clu).en then .next (resumeCluster s clu) else .next s

/-- A running trace that has not reached its commit is discarded: its group stops (R455), or is held by a freeze (R461). -/
def stopSkid (s : State) (clu : Nat) (g : GKey) : State :=
  let q := getG s g
  let d := getD s clu
  let stop := d.stopping && !q.debugStop
  if !q.res || q.clu != clu || atRest q || q.inStep2 || !(stop || q.frozen) then s
  else
    let tix := match q.run with | some r => r.tix | none => 0
    let s := discardRun s g
    boundary s g (some tix) false (discPath (getG s g) tix)

/-- STOP_SKID_EXPIRY (R455, R461). (DESIGN CHOICE, log 20.) -/
def execStopSkidExpiry (clu : Nat) (s : State) : Out :=
  .next ((s.groups.map Prod.fst).foldl (fun s g => stopSkid s clu g) s)

/-- CLUSTER_STOPPED (R455): every group has stopped and every floe is quiescent. -/
def execClusterStopped (clu : Nat) (s : State) : Out :=
  let d := getD s clu
  if !d.stopping || (s.groups.any fun e => e.2.res && e.2.clu = clu && !e.2.debugStop)
      || s.floes.any fun f => f.1 / 48 = clu && !quiescent f.2 then .next s
  else
    let s := updD s clu fun d => { d with stopping := false, stopped := true }
    .next (if d.area.getLsbD 0 then { s with dmem := memWrite s.dmem (d.area.toNat / 2 ^ 20 * 2 ^ 20) (stopTable s clu) } else s)

/-! ### DCTL (R449) -/

/-- Step mode ends: lanes that wait for an effect are ready when it completes (R458, R459). -/
def stepEnds (q : Group) : Group :=
  { q with step := .off, stepRegs := [], run := q.run.map (fun r => { r with hold := 0 }), paths := q.paths.map fun e => (e.1, { e.2 with wakeHold := 0 }) }

/-- Every held entry of a context in the cluster is released, every step mode and freeze ends, the cluster resumes. -/
def debugRelease (s : State) (clu ctx : Nat) : State :=
  let mine (q : Group) : Bool := q.res && q.clu = clu && q.ctx = ctx
  let s : State := { s with groups := s.groups.map fun e => (e.1, if mine e.2 then { stepEnds e.2 with frozen := false } else e.2) }
  let s := updD s clu fun d => { d with busy := false, stopping := false, stopped := d.stopping || d.stopped }
  let s := resumeCluster s clu
  { s with groups := s.groups.map fun e => (e.1, if mine e.2 then unholdAll s e.2 fun _ => true else e.2) }

/-- A write of DCTL. -/
def dctlWrite (s : State) (clu v : Nat) : State :=
  let d := getD s clu
  let bk := nbits v 4 3
  if bk = 3 || (v.testBit 7 && v.testBit 6) then s
  else
    let s := if nbits v 63 48 != d.ctx || (d.en && !v.testBit 0) then debugRelease s clu d.ctx else s
    let s := updD s clu fun d => { d with ctx := nbits v 63 48, en := v.testBit 0, istep := v.testBit 2, bkact := bk }
    if !v.testBit 0 then s
    else if v.testBit 7 then stopCluster s clu
    else if v.testBit 6 then resumeCluster s clu
    else s

/-- DEBUG_CONTEXT_CHANGE (R449). -/
def execDebugContextChange (clu : Nat) (v : DWord) (s : State) : Out := if debugOpen s then .next (dctlWrite s clu v.toNat) else .next s

/-! ### Commands (R458, R459) -/

/-- The group and entry that DSEL names. -/
def selGroup (d : Debug) (clu : Nat) : GKey := gkey clu (nbits d.sel.toNat 31 24) (nbits d.sel.toNat 23 21) (nbits d.sel.toNat 20 17)
def selPath (d : Debug) : Nat := nbits d.sel.toNat 16 12

/-- The group that DSEL names, where the block acts on it (R448, R459). -/
def selected (s : State) (clu : Nat) : Option Group :=
  let d := getD s clu
  let q := getG s (selGroup d clu)
  if d.en && nbits d.sel.toNat 31 24 < 192 && q.res then some q else none

def selectedOwn (s : State) (clu : Nat) : Option Group := (selected s clu).filter fun q => q.ctx = (getD s clu).ctx

/-- What a command of the block finds: it is not taken, refused with ERR, or may act. -/
inductive Cmd where
  | ignored
  | refused (err : Nat)
  | ok (g : GKey) (i : Nat)
  deriving DecidableEq, Repr

/-- DEDUCED, log 63. -/
def cmdCheck (s : State) (clu : Nat) : Cmd :=
  let d := getD s clu
  let g := selGroup d clu
  let q := getG s g
  if !debugOpen s || !d.en || d.busy then .ignored
  else if 192 ≤ nbits d.sel.toNat 31 24 || !q.res || q.ctx != d.ctx || (getP q (selPath d)).state = .empty then .refused 1
  else .ok g (selPath d)

/-- A command: it is refused with its code, or acts. (DEDUCED, log 63.) -/
def command (s : State) (clu : Nat) (f : GKey → Nat → Group → Path → Nat × State) : Out :=
  match cmdCheck s clu with
  | .ignored => .next s
  | .refused e => .next (updD s clu fun d => { d with err := e, done := false })
  | .ok g i =>
    let r := f g i (getG s g) (getP (getG s g) i)
    if r.1 = 0 then .next (updD r.2 clu fun d => { d with err := 0 }) else .next (updD s clu fun d => { d with err := r.1, done := false })

/-- The command under way clears DONE. -/
def doneClear (s : State) (clu : Nat) : State := updD s clu fun d => { d with done := false }

/-- HOLD: at once, or at the end of the running trace. -/
def execDcmdHold (clu : Nat) (s : State) : Out :=
  command s clu fun g i q p =>
    let s := doneClear s clu
    if p.state = .held then (2, s)
    else if p.state = .running then
      if q.step = .off then (0, setG s g { q with run := q.run.map fun r => { r with hold := 1 } }) else (2, s)
    else (0, setG s g (holdPath q i 1))

/-- RELEASE: the flags apply to the entry's next trace. (DEDUCED, log 63.) -/
def execDcmdRelease (clu : Nat) (skipb skipw : Bool) (s : State) : Out :=
  command s clu fun g i q p =>
    let s := doneClear s clu
    if p.state != .held || p.mid then (2, s)
    else (0, setG s g (unhold s (setP q i { p with skipB := skipb, skipW := skipw }) i))

/-- A step command on a held entry (R458). -/
def stepCmd (s : State) (clu : Nat) (mode : StepMode) (skipb skipw : Bool) : Out :=
  command s clu fun g i q p =>
    let s := doneClear s clu
    if mode = .inst && !(getD s clu).istep then (3, s)
    else if p.state != .held || q.stopped || q.evict || !(p.mid || (p.ust = .ready && q.run.isNone)) then (2, s)
    else
      let q := { q with step := mode, stepPath := i }
      let q : Group :=
        if p.mid then
          { setP q i { p with state := .running, ust := .empty, cause := 0, mid := false, off := 0, soff := 0, wv := false, wpn := 0, addr := 0, disc := false } with
            run := q.run.map fun r => { r with hold := 5, skipB := skipb, skipW := skipw } }
        else
          setP q i { p with state := .ready, ust := .empty, cause := 0, off := 0, soff := 0, wv := false, wpn := 0, addr := 0, disc := false
                            skipB := skipb, skipW := skipw }
      (0, refreeze (updD (setG s g q) clu fun d => { d with busy := true }) q.btag)

def execDcmdTstep (clu : Nat) (skipb skipw : Bool) (s : State) : Out := stepCmd s clu .trace skipb skipw
def execDcmdIstep (clu : Nat) (skipb skipw : Bool) (s : State) : Out := stepCmd s clu .inst skipb skipw

/-- RUN: step mode ends, the holds of CAUSE 5 lift, a mid-trace entry goes on. (DEDUCED, log 63.) -/
def execDcmdRun (clu : Nat) (s : State) : Out :=
  command s clu fun g _ q _ =>
    let s := doneClear s clu
    if q.step = .off then (2, s)
    else
      let s := refreeze (setG s g (stepEnds q)) q.btag
      (0, updG s g fun q => unholdAll s q fun p => p.cause = 5 || p.mid)

/-- ABORT: the trace of a mid-trace entry is discarded, and the entry stays held at its start. -/
def execDcmdAbort (clu : Nat) (s : State) : Out :=
  command s clu fun g _ _ p =>
    if p.state = .held && p.mid then (0, doneClear (discardRun s g) clu) else (2, doneClear s clu)

/-- A DCMD of a reserved OP: ERR 4. -/
def cmdReserved (s : State) (clu : Nat) : State :=
  let d := getD s clu
  if !debugOpen s || !d.en || d.busy then s else updD s clu fun d => { d with err := 4, done := false }

/-! ### Registers of a lane (R460) -/

def rselCode (d : Debug) : Nat := nbits d.drsel.toNat 15 9
def rselLane (d : Debug) : Nat := nbits d.drsel.toNat 8 4

/-- DRDATA_WRITE: the committed value of a lane of a held entry, while no path of the group stands mid-trace.
(DESIGN CHOICE, log 111.) -/
def execDrdataWrite (clu : Nat) (v : DWord) (s : State) : Out :=
  let d := getD s clu
  let g := selGroup d clu
  let q := getG s g
  let l := rselLane d
  let p := getP q (selPath d)
  let k := rselCode d
  if !debugOpen s || !d.en then .next s
  else if (selectedOwn s clu).isSome && p.state = .held && p.mask.getLsbD l && k ≤ 70 && !((List.range 32).any fun i => (getP q i).mid) then
    if k < 64 then
      let m : DWord := BitVec.ofNat 64 (2 ^ k)
      .next (setG s g { q with
        com := { wrX q.com l k (v.setWidth 32) with uni := q.com.uni &&& ~~~m }
        alloc := q.alloc ||| m
        dead := sset false q.dead (64 * l + k) false })
    else .next (setG s g { q with com := wrP q.com l (k - 64) (v.getLsbD 0) })
  else .next (updD s clu fun d => { d with err := 2 })

/-- What DRDATA reads. -/
def drdataRead (s : State) (clu : Nat) : Nat :=
  let d := getD s clu
  let k := rselCode d
  match selectedOwn s clu with
  | none => 0
  | some q =>
    let v := if d.drsel.getLsbD 0 && (match q.run with | some r => r.path = selPath d | none => false) then q.work else q.com
    if k < 64 then (rdX v (rselLane d) k).toNat
    else if k ≤ 70 then (if rdP v (rselLane d) (k - 64) then 1 else 0)
    else 0

/-- The kind, address and store data of a buffered effect, as DEBUF shows them. -/
def effShow (e : Eff) : Nat × Nat × List Byte × Nat :=
  match e with
  | .store sp va pa v => (0, if sp = .spad then pa % 2 ^ 26 else va, v, v.length)
  | .stn a ty d =>
    let n := (tyBytes ty).getD 4
    let bs := if is64 ty then (d.map fun w => leBytes 4 w.toNat).flatten else (d.map fun w => leBytes n w.toNat).flatten
    (1, a, bs, bs.length)
  | .atom sp va pa _ _ _ _ _ => (2, if sp = .spad then pa % 2 ^ 26 else va, [], 0)
  | .copy c => (3, c.saddr, [], 0)
  | .post .. => (4, 0, [], 0)
  | .scat _ va _ v _ => (5, va, v, v.length)
  | .line a _ => (5, a, [], 0)
  | .bari a _ _ => (5, a, [], 0)
  | .barx a _ => (5, a, [], 0)
  | .rput _ a _ => (5, a, [], 0)
  | .retire _ a => (5, a, [], 0)
  | .govh _ a => (5, a, [], 0)
  | .emit a => (5, a, [], 0)
  | .fwk _ a _ => (5, a, [], 0)
  | .seal _ va _ _ => (5, va, [], 0)
  | _ => (5, 0, [], 0)

/-- What DEBUF reads, as a 256-bit value. (DESIGN CHOICE, log 111.) -/
def debufRead (s : State) (clu : Nat) : Nat :=
  let d := getD s clu
  match (selectedOwn s clu).filter fun q => (getP q (selPath d)).mid with
  | none => 0
  | some q =>
    match q.run with
    | none => 0
    | some r =>
      let bs := r.bufs.filter fun b => b.lanes.getLsbD (rselLane d) && takesEntry b.eff
      match bs[nbits d.drsel.toNat 19 16]? with
      | none => fieldAt 59 5 bs.length
      | some b =>
        let x := effShow b.eff
        fieldAt 192 64 x.2.1 + fieldAt 64 128 (leNat (x.2.2.1.take 16)) + fieldAt 59 5 bs.length + fieldAt 56 3 x.1 + fieldAt 51 5 x.2.2.2

/-! ### Reads and plain writes of the block (R448, R451, R453) -/

/-- What an 8-byte register of the block reads. -/
def debugRead (s : State) (clu o : Nat) : Nat :=
  let d := getD s clu
  let b (x : Bool) (k : Nat) : Nat := if x then 2 ^ k else 0
  if o = 0 then fieldAt 48 16 d.ctx + b d.stopped 5 + fieldAt 3 2 d.bkact + b d.istep 2 + b d.en 0
  else if o = 8 then d.area.toNat
  else if o = 0x10 then d.sel.toNat
  else if o = 0x20 then fieldAt 8 8 d.err + b ((selectedOwn s clu).any fun q => q.step != .off) 2 + b d.done 1 + b d.busy 0
  else if o = 0x28 then d.drsel.toNat
  else if o = 0x30 then drdataRead s clu
  else if 0x40 ≤ o && o < 0x60 then
    (if (selected s clu).isSome then pathRec s d.ctx (selGroup d clu) (selPath d) / 2 ^ (8 * (o - 0x40)) % 2 ^ 64 else 0)
  else if 0x60 ≤ o && o < 0x80 then debufRead s clu / 2 ^ (8 * (o - 0x60)) % 2 ^ 64
  else if 0x100 ≤ o && o < 0x180 then (if o % 16 = 0 then (sget 0 d.wpa ((o - 0x100) / 16)).toNat else (sget wpcReset d.wpc ((o - 0x100) / 16)).toNat)
  else 0
where
  wpcReset : DWord := 0x20000#64

/-- The value that a write of WPCn keeps; none where it is ignored whole (R453). -/
def wpcWrite (wpa v : Nat) : Option DWord :=
  let space := nbits v 30 29
  let len := nbits v 19 16
  let width := match space with | 0 => 57 | 1 => 26 | _ => 18
  if space = 3 || 2 ≤ nbits v 28 27 || len < 2 || 7 < len || nbits v 63 32 != 0 || nbits v 23 20 != 0 || nbits v 15 0 != 0 then none
  else if v.testBit 31 && (2 ^ width ≤ wpa || wpa % 2 ^ len != 0) then none
  else some (BitVec.ofNat 64 v)

/-- A write of a register of the block that has no event of its own. -/
def debugWrite (s : State) (clu o v : Nat) : State :=
  let d := getD s clu
  if !debugOpen s then s
  else if o = 8 then
    let base := nbits v 56 20 * 2 ^ 20
    if devEnd < base + 786432 then s else updD s clu fun d => { d with area := BitVec.ofNat 64 (base + v % 2) }
  else if o = 0x10 then updD s clu fun d => { d with sel := BitVec.ofNat 64 (fieldAt 12 20 (nbits v 31 12)) }
  else if o = 0x28 then updD s clu fun d => { d with drsel := BitVec.ofNat 64 (fieldAt 4 16 (nbits v 19 4) + v % 2) }
  else if 0x100 ≤ o && o < 0x180 then
    let n := (o - 0x100) / 16
    if o % 16 = 0 then updD s clu fun d => { d with wpa := sset 0 d.wpa n (BitVec.ofNat 64 v) }
    else match wpcWrite (sget 0 d.wpa n).toNat v with
      | some w => updD s clu fun d => { d with wpc := sset 0x20000#64 d.wpc n w }
      | none => s
  else s

end Sys2Proof.Machine
end

