-- ==== Sys2Proof/Machine/Profile.lean ====
section
/-! DEFINITION. Sampling, the power trace, checkpoints, restore and replay (R463 to R477). -/
namespace Sys2Proof.Machine
open Sys2Proof Sys2Proof.Checks

/-! ### Sampling (R467 to R470) -/

/-- The fields of SCTL that a write sets; none where one is out of range (R467). (DESIGN CHOICE, log 66.) -/
def sctlWrite (v : Nat) : Option DWord :=
  let gsi := nbits v 39 35
  let smi := nbits v 34 30
  if gsi < 10 || 24 < gsi || smi < 6 || 20 < smi then none
  else some (BitVec.ofNat 64 (fieldAt 48 16 (nbits v 63 48) + fieldAt 35 5 gsi + fieldAt 30 5 smi + v % 4))

def sat16 (n : Nat) : Nat := Nat.min 0xFFFF n

/-- Every access of a sampled instruction has been performed or has returned (R468), on whichever core (R470): those that a save cancelled are
still to come, and a group that has ended has none left. -/
def sampleDone (s : State) (x : Sample) : Bool :=
  let q := groupOf s x.btag x.gnum
  let wait (v : Vers) : Bool := x.dst.any fun k => (lanesOf x.act).any fun l => isLoadPend (rdPend v l (k % 64)) || isScored (rdPend v l (k % 64))
  if x.disc then true
  else if x.store then
    !((s.flight ++ (s.saved.map Saved.scats).flatten).any fun f => f.btag = x.btag && f.gnum = x.gnum && f.tno = x.tno && f.off = x.off)
      && !q.any fun q => match q.run with | some r => r.tno = x.tno | none => false
  else !q.any fun q => wait q.com || wait q.work

/-- The body of a memory sample (R468). (DEDUCED, log 83.) -/
def sampleBody (x : Sample) (times : List Nat) (src last : Nat) : List Byte :=
  let empty := x.disc && x.store
  let t (i : Nat) : Nat := if empty then 0 else sat16 (times.getD i 0)
  leBytes 48 (fieldAt 352 32 x.corr + fieldAt 336 16 x.ctx + fieldAt 326 10 x.gnum + fieldAt 321 5 x.path + fieldAt 318 3 (gclu x.g)
    + fieldAt 310 8 (gcore x.g) + fieldAt 307 3 (gtrk x.g) + fieldAt 283 24 x.tix + fieldAt 275 8 x.off + fieldAt 265 10 x.opc
    + fieldAt 233 32 x.act.toNat + fieldAt 225 8 x.sect + fieldAt 217 8 x.lines + fieldAt 209 8 x.trep + fieldAt 201 8 x.vrep
    + (if empty then 0 else fieldAt 196 5 last + fieldAt 193 3 src) + (if x.disc then 2 ^ 192 else 0)
    + fieldAt 176 16 (t 0) + fieldAt 160 16 (t 1) + fieldAt 144 16 (t 2) + fieldAt 128 16 (t 3) + fieldAt 112 16 (t 4) + fieldAt 96 16 (t 5))

/-- MEMORY_SAMPLE (R468): sample i is written once its accesses have finished. The event brings the times, the level and the lane of the
last access. -/
def execMemorySample (i : Nat) (lat qsp qtlb qfab qmsc qbank src last : Nat) (s : State) : Out :=
  match s.samples[i]? with
  | none => .next s
  | some x =>
    if !sampleDone s x || 6 ≤ src || !x.act.getLsbD last then .next s
    else
      .next (streamPut (timeNow { s with samples := s.samples.eraseIdx i }) (gclu x.g) 1 (sampleBody x [lat, qsp, qtlb, qfab, qmsc, qbank] src last))

/-- STCODE and INDEX of a resident group (R469). (DESIGN CHOICE, log 67.) -/
def slotStatus (s : State) (g : GKey) : Nat × Nat :=
  let q := getG s g
  let at_ (f : Path → Bool) : Option Path := (lowestPath q f).map (getP q)
  match q.run with
  | some r =>
    if (getP q r.path).state = .held then (6, (getP q r.path).tix)
    else if q.parked || q.still || (s.stalled && s.cur = g) then (5, r.tix) else (0, 0)
  | none =>
    match at_ fun p => p.state = .fetchWait with
    | some p => (1, p.tix)
    | none =>
      match at_ fun p => p.state = .budgetWait with
      | some p => (3, p.tix)
      | none =>
        match at_ fun p => p.state = .ready with
        | some _ => (0, 0)
        | none =>
          match at_ fun p => p.state = .syncWait with
          | some p => (4, p.stix)
          | none => (6, match at_ fun p => p.state != .empty with | some p => p.tix | none => 0)

/-- STCODE and INDEX of a slot with no group. The manual lists no code for a slot that a saved group left, and no index for a group that ended
without a commit. (DESIGN CHOICE, log 67.) -/
def emptyStatus (s : State) (g : GKey) : (Nat × Nat) × State :=
  let n := sget 0 s.slotLast g
  if n = slotSaved then let v := fresh s; ((v.1.toNat % 16, v.1.toNat / 16 % 2 ^ 24), v.2)
  else if n = slotBare then let v := fresh s; ((2, v.1.toNat % 2 ^ 24), v.2)
  else if n = 0 then ((7, 0), s)
  else ((2, n - 1), s)

/-- The body of a group sample (R469); of an empty slot its record is 0. (DESIGN CHOICE, log 112.) -/
def groupBody (rec corr : Nat) (st : Nat × Nat) : List Byte :=
  leBytes 48 (fieldAt 128 256 rec + fieldAt 96 32 corr + fieldAt 92 4 st.1 + fieldAt 68 24 st.2)

/-- GROUP_SAMPLE (R469, R470): the next slot of a core. -/
def execGroupSample (c : CKey) (s : State) : Out :=
  let clu := c / 192
  let ctl := (sget 0 s.sctl clu).toNat
  if 1536 ≤ c || !ctl.testBit 1 || (getD s clu).stopped then .next s
  else
    let k := sget 0 s.cursor c
    let g := c * 128 + k
    let q := getG s g
    let s : State := { s with cursor := sset 0 s.cursor c ((k + 1) % 128) }
    if q.res && q.ctx != nbits ctl 63 48 then .next s
    else if q.res then
      let i := match q.run with | some r => r.path | none => (lowestPath q fun p => p.state != .empty).getD 0
      .next (streamPut (timeNow s) clu 2 (groupBody (pathRec s q.ctx g i) (getB s q.btag).corr (slotStatus s g)))
    else
      let r := emptyStatus s g
      .next (streamPut (timeNow r.2) clu 2 (groupBody 0 0 r.1))

/-! ### The power trace (R471) -/

/-- Resident groups of a batch on a cluster. -/
def residentCount (s : State) (b : BTag) : Nat := (s.groups.filter fun e => e.2.res && e.2.btag = b && e.2.prof == .trace).length

/-- CORR of the batch with the most resident groups on a cluster, the lowest on a tie; 0 when there is none. -/
def topCorr (s : State) (clu : Nat) : Nat :=
  ((s.batches.filter fun e => e.2.res && e.2.clu = clu).foldl (fun (a : Nat × Nat) e =>
    let n := residentCount s e.1
    if n = 0 then a
    else if a.1 < n || (a.1 = n && e.2.corr < a.2) then (n, e.2.corr) else a) (0, 0)).2

/-- POWER_SAMPLE (R471): the event brings the current of each rail. (DESIGN CHOICE, log 9.) -/
def execPowerSample (rails : List Nat) (s : State) : Out :=
  let body := ((List.range 26).map fun r => leBytes 2 (sat16 (rails.getD r 0))).flatten
    ++ ((List.range 8).map fun c => leBytes 1 (Nat.min 255 (s.batches.filter fun e => e.2.res && e.2.clu = c).length)).flatten
    ++ ((List.range 8).map fun c => leBytes 4 (topCorr s c)).flatten ++ List.replicate 20 0
  .next (streamPut (timeNow s) 0 3 body)

/-! ### Checkpoints (R472 to R474) -/

/-- Entries of one level of a context's page tables, and of the levels below: the leaves in device memory, with the virtual address. -/
def leafPages (s : State) : List (Nat × Nat × Nat) → Nat → Nat → List (Nat × Nat × Nat)
  | [], _, _ => []
  | (lo, n, lvl) :: r, base, va =>
    ((List.range (2 ^ n)).map fun i =>
      let e := leNat (memRead s.dmem (base + 8 * i) 8)
      let v := va + i * 2 ^ lo
      let pa := nbits e 56 10 * 1024
      if e % 2 = 0 then []
      else if e.testBit 2 then (if e.testBit 3 || 4 ≤ lvl then [] else [(v, 2 ^ lo, pa)])
      else leafPages s r pa v).flatten

/-- The 16 KiB pages of a context's device memory: virtual and physical address. -/
def ctxPages (s : State) (ctx : Nat) : List (Nat × Nat) :=
  ((leafPages s ptLevels (getC s ctx).ptroot 0).map fun e => (List.range (e.2.1 / 0x4000)).map fun i => (e.1 + i * 0x4000, e.2.2 + i * 0x4000)).flatten

/-- Physical 16 KiB pages of the open rime of a context. -/
def rimePages (s : State) (ctx : Nat) : List Nat :=
  ((getC s ctx).shadows.map fun x =>
    (x.rime.map fun p => (List.range (pszBytes (hEntry s ctx x.idx).psz / 0x4000)).map fun k => p + 0x4000 * k).flatten).flatten

/-- Bytes of a context's handle table, and the 16 KiB pages that hold it, by their physical addresses. (DEDUCED, log 84.) -/
def htabBytes (c : Ctx) : Nat := 32 * Nat.max c.nh (c.shdw + 64)
def htabPages (c : Ctx) : List Nat :=
  (List.range ((c.htab + htabBytes c + 0x3FFF) / 0x4000 - c.htab / 0x4000)).map fun i => (c.htab / 0x4000 + i) * 0x4000

/-- The bytes of a page of a memory, by offset. -/
def pageBytes (m : Memory) (a : Nat) : Memory := (m.filter fun e => decide (a ≤ e.1) && decide (e.1 < a + 0x4000)).map fun e => (e.1 - a, e.2)

/-- The pages that checkpoint `next` holds: those written since the last, those that a failed copy left, every page for checkpoint 0. (DEDUCED, log 69.) -/
def ckptHeld (s : State) (ctx : Nat) : List Nat :=
  let k := getK s ctx
  (((ctxPages s ctx).map Prod.snd ++ rimePages s ctx ++ htabPages (getC s ctx)).eraseDups).filter fun a =>
    k.next = 0 || k.redo.contains a || pageBytes s.dmem a != pageBytes k.base a

/-- The image at the cut (R474). -/
def ckptImage (s : State) (ctx : Nat) : Image :=
  { ctx := ctx
    k := (getK s ctx).next
    cx := getC s ctx
    rime := ((rimePages s ctx).map fun a => (a, pageBytes s.dmem a)).filter fun e => !e.2.isEmpty
    formed := s.formed.filter fun x => x.ctx = ctx
    dispatches := s.dispatches.filter fun x => x.ctx = ctx
    mem := ((ctxPages s ctx).map fun e => (e.1, pageBytes s.dmem e.2)).filter fun e => !e.2.isEmpty
    saved := s.saved.filter fun x => x.ctx = ctx
    queues := s.queues.filter fun e => e.2.ctx = ctx && decide (e.1 < s.regs.qtn.toNat)
    logs := (getK s ctx).buffer
    run := (getK s ctx).run
    htab := (s.dmem.filter fun e => decide ((getC s ctx).htab ≤ e.1) && decide (e.1 < (getC s ctx).htab + htabBytes (getC s ctx))).map
      fun e => (e.1 - (getC s ctx).htab, e.2)
    pubWaits := s.pubWaits.filter fun w => w.ctx = ctx
    faults := s.faults.filter fun f => f.ctx = ctx
    tags := (getK s ctx).tags }

/-- The checkpoint's record (R473). -/
def ckptBody (ctx k time : Nat) : List Byte := leBytes 16 (fieldAt 96 32 k + fieldAt 80 16 ctx + fieldAt 0 64 time)

/-- The safe tier takes an image: in the place of one of its number, and of all that the context had before EN was set last (R472). -/
def safePut (l : List Image) (i : Image) : List Image := (l.filter fun x => x.ctx != i.ctx || (x.run = i.run && x.k != i.k)) ++ [i]

/-- Every held page has been copied: the image stands in the safe tier and the record is written. -/
def ckptDone (s : State) (ctx : Nat) : State :=
  let k := getK s ctx
  match k.image with
  | none => s
  | some i =>
    let s := setK { s with safe := safePut s.safe i } ctx { k with running := false, image := none, cut := [], redo := [] }
    streamPut (timeNow s) 0 6 (ckptBody ctx i.k k.cutTime.toNat)

/-- A bin that reached C records while formation stood forms its batch. -/
def binRefill (s : State) (ctx node : Nat) : State :=
  match findNode (getC s ctx) node with
  | some n => if n.coalesce ≤ (getBin s ctx node).recs.length then formBatch s ctx node n.coalesce else s
  | none => s

/-- Bin formation restarts (R473): a bin holds at most 2C records. -/
def binsRestart (s : State) (ctx : Nat) : State :=
  let ns := (getC s ctx).bins.map Prod.fst
  (ns ++ ns).foldl (fun s n => binRefill s ctx n) s

/-- Steps 2 to 4 of R473, once every batch has stopped at a trace boundary. -/
def ckptCut (s : State) (ctx : Nat) : State :=
  let s := updK s ctx fun k => { k with cutting := false }
  let s := timeNow (evictRun s (ctxGroups s ctx) (batchesOf s ctx))
  let held := ckptHeld s ctx
  let img := ckptImage s ctx
  let s := updK s ctx fun k => { k with running := true, cutTime := s.time, held := held, cut := held, base := s.dmem, image := some img
                                        next := k.next + 1, buffer := [], tags := [] }
  let s := binsRestart s ctx
  if held.isEmpty then ckptDone s ctx else s

/-- Step 1 of R473, and the later steps as soon as every batch has stopped and no drain or decrement is on its way. -/
def ckptStep (s : State) (ctx : Nat) : State :=
  let k := getK s ctx
  if !k.en || k.running || (getC s ctx).unbinding then s
  else
    let s := if k.cutting then s else evictBegin (updK s ctx fun k => { k with cutting := true }) (ctxGroups s ctx) (batchesOf s ctx)
    if evictReady s (ctxGroups s ctx) (batchesOf s ctx) && !drainsOwed s ctx && s.sigs.all fun d => d.ctx != ctx then ckptCut s ctx else s

/-- CHECKPOINT_TIMER_EXPIRY (R472, R473). -/
def execCheckpointTimerExpiry (ctx : Nat) (s : State) : Out := .next (ckptStep s ctx)

/-- CHECKPOINT_LOG_THRESHOLD (R472): the length of the log buffer is not given, so it may be three-quarters full as soon as it holds an entry. (DESIGN CHOICE, log 68.) -/
def execCheckpointLogThreshold (ctx : Nat) (s : State) : Out :=
  if (getK s ctx).log && !(getK s ctx).buffer.isEmpty then .next (ckptStep s ctx) else .next s

/-- A reserved port is up. (DEDUCED, log 69.) -/
def reservedUp (s : State) : Bool := (List.range 16).any fun p => s.mg.reserved.testBit p && !sget false s.mg.portDown p

/-- CHECKPOINT_PAGE_COPIED (R473): the page is released; the last completes the checkpoint. -/
def execCheckpointPageCopied (ctx page : Nat) (s : State) : Out :=
  let k := getK s ctx
  if !k.running || !k.held.contains page || !reservedUp s then .next s
  else
    let s := setK { s with stalled := false } ctx { k with held := k.held.erase page }
    .next (if (k.held.erase page).isEmpty then ckptDone s ctx else s)

/-- SAFE_TIER_COPY_FAILURE (R474): the next checkpoint treats every page that this one held as written, and keeps its log. -/
def execSafeTierCopyFailure (ctx : Nat) (s : State) : Out :=
  let k := getK s ctx
  match k.image with
  | none => .next s
  | some i =>
    .next (setK { s with stalled := false } ctx { k with running := false, image := none, held := [], cut := [], redo := (k.redo ++ k.cut).eraseDups, buffer := i.logs ++ k.buffer, tags := i.tags ++ k.tags })

/-! ### Restore and replay (R476, R477) -/

/-- A memory whose n bytes from `pa` on read as the pages of an image from `from_` on; an image lists no page of zeros. -/
def imagePut (m : Memory) (pa n from_ : Nat) (pages : List (Nat × Memory)) : Memory :=
  (pages.filter fun e => decide (from_ ≤ e.1) && decide (e.1 < from_ + n)).foldl (fun m e =>
    let a := pa + (e.1 - from_)
    smerge 0 (fun k => decide (a ≤ k) && decide (k < a + 0x4000)) (e.2.map fun x => (a + x.1, x.2)) m) (memZero m pa n)

/-- Size code of a leaf's page. -/
def leafCode (n : Nat) : Nat := if n = 0x4000 then 0 else if n = 0x200000 then 1 else 2

/-- The page lists of a context's handles name a new page in the place of an old one. -/
def plistsMoved (s : State) (ctx old new : Nat) : State :=
  (List.range (getC s ctx).nh).foldl (fun s i =>
    let e := hEntry s ctx i
    if !e.v then s
    else (List.range e.pages).foldl (fun s p =>
      if plistAt s e.plist p = old then { s with dmem := memWrite s.dmem (e.plist + 8 * p) (leBytes 8 new) } else s) s) s

/-- A restore publishes one page (R25, R314): the image's bytes go to a page of the rime pool, which takes the old page's place in the page
tables and the page lists; the old page returns to the pool. (DEDUCED, log 69.) -/
def restorePage (img : Image) (s : State) (p : Nat × Nat × Nat) : State :=
  let code := leafCode p.2.1
  match poolTake (poolRead s img.ctx) code 1 with
  | (e :: _, rest) =>
    let s : State := { s with dmem := imagePut s.dmem (poolPage e) p.2.1 p.1 img.mem }
    let s := remap (poolWrite s img.ctx rest) img.ctx p.1 p.2.1 (poolPage e)
    poolReturn (plistsMoved s img.ctx p.2.2 (poolPage e)) img.ctx [p.2.2] code
  | _ => s

/-- A shadow that was open at the cut takes fresh rime pages with the image's bytes. (DEDUCED, log 69.) -/
def restoreShadow (img : Image) (s : State) (x : Shadow) : State :=
  let code := (hEntry s img.ctx x.idx).psz
  let r := poolTake (poolRead s img.ctx) code x.rime.length
  let pages := r.1.map poolPage
  let m := (pages.zip x.rime).foldl (fun m e => imagePut m e.1 (pszBytes code) e.2 img.rime) s.dmem
  setShadow (poolWrite { s with dmem := m } img.ctx r.2) img.ctx { x with rime := pages }

/-- The pool holds a page of every size that the context's tables map, and the pages that its open shadows take. (DEDUCED, log 69.) -/
def restoreRoom (s : State) (img : Image) (ps : List (Nat × Nat × Nat)) : Bool :=
  let pool := poolRead s img.ctx
  (ps.all fun p => pool.any fun e => poolSize e = leafCode p.2.1)
    && decide ((img.cx.shadows.map fun x => x.rime.length).sum ≤ pool.length)

/-- A batch, dispatch or saved image of another context bears a name that one of the image's bears: the restore waits. (DEDUCED, log 69.) -/
def restoreClash (s : State) (img : Image) : Bool :=
  (img.saved.any fun x => (getB s x.btag).res || s.saved.any fun y => y.btag = x.btag)
    || img.dispatches.any fun d => s.dispatches.any fun e => e.id = d.id

/-- The handle table of the image stands where the descriptor has it (R473). -/
def restoreTable (s : State) (img : Image) : State :=
  let c := getC s img.ctx
  { s with dmem := img.htab.foldl (fun m e => memSet m (c.htab + e.1) e.2) (memZero s.dmem c.htab (htabBytes c)) }

/-- CHECKPOINT_RESTORE (R476): before the context binds; its tables are those of the descriptor that CTBASE names. (DEDUCED, log 69.) -/
def execCheckpointRestore (ctx k : Nat) (s : State) : Out :=
  match s.safe.reverse.find? fun i => i.ctx = ctx && i.k = k with
  | none => .next s
  | some img =>
    let d := leNat (memRead s.dmem (s.regs.ctbase.toNat + 128 * ctx) 128)
    let t := setC (ctxForget s ctx) ctx { ctxOfDesc img.cx d with bound := false }
    let ps := leafPages t ptLevels (getC t ctx).ptroot 0
    if (getC s ctx).bound || !reservedUp s || !restoreRoom t img ps || restoreClash t img then .next s
    else
      let t := restoreTable t img
      let t := img.cx.shadows.foldl (restoreShadow img) (ps.foldl (restorePage img) t)
      let t := img.queues.foldl (fun t e => putRidx (setQ t e.1 { e.2 with resident := false }) e.1 e.2.ridx) t
      let later := s.safe.filter fun i => i.ctx = ctx && i.run = img.run && decide (k < i.k)
      let t := setK t ctx { replay := (later.map Image.logs).flatten, retags := (later.map Image.tags).flatten, run := img.run }
      let t := updC t ctx fun c => { c with pkgs := c.pkgs.map fun p => { p with pages := ((p.nodes.map (codePages t ctx)).flatten).eraseDups } }
      .next (binsRestart { t with
        safe := s.safe
        saved := t.saved ++ img.saved, formed := t.formed ++ img.formed, dispatches := t.dispatches ++ img.dispatches
        pubWaits := t.pubWaits ++ img.pubWaits, faults := t.faults ++ img.faults.map fun f => { f with idx := none }
        serial := (img.dispatches.map Dispatch.id).foldl Nat.max t.serial } ctx)

/-- REPLAY_DIVERGENCE_TIMEOUT (R477): the context stops, and the driver is told of the first entry that was not met. (DEDUCED, log 70.) -/
def execReplayDivergenceTimeout (ctx : Nat) (s : State) : Out :=
  match (getK s ctx).replay with
  | [] => .next s
  | e :: _ =>
    if !(getC s ctx).bound then .next s
    else
      let s := updC s ctx fun c => { c with failed := true, stoppedQueues := true }
      .next (stopCtx { s with reports := s.reports ++ [.replayDiverged ctx (some e)] } ctx)

end Sys2Proof.Machine
end

