-- ==== Sys2Proof/Machine/Links.lean ====
section
/-! DEFINITION. Sweso Link: flits and retraining, rows to and from peers, receive windows (R447, R486 to R490). -/
namespace Sys2Proof.Machine
open Sys2Proof Sys2Proof.Checks

/-! ### Ports (R486, R447) -/

def noWin : Win := {}
def isDown (s : State) (port : Nat) : Bool := sget false s.mg.portDown port

/-- The port's 1 s window at an instant: a window that is over begins again. -/
def winAt (s : State) (port : Nat) : Win :=
  let w := sget noWin s.mg.portWin port
  if w.start + 1000000000 ≤ s.time.toNat then { start := s.time.toNat } else w

def setWin (s : State) (port : Nat) (w : Win) : State := updM s fun m => { m with portWin := sset noWin m.portWin port w }
def linkErr (port : Nat) : MemErr := { noErr .link with port := port }

/-- A flit of the port has come through: no flit of it is failing in a row (R486). -/
def flitGood (s : State) (port : Nat) : State := updM s fun m => { m with failRun := sset 0 m.failRun port 0 }

/-- FLIT_CRC_FAIL (R486): the flit is replayed; a count that crosses its threshold is predictive. Whether it is the flit that failed before is left
open. (DESIGN CHOICE, log 76.) -/
def execFlitCrcFail (port : Nat) (s : State) : Out :=
  if 16 ≤ port || isDown s port then .next s
  else
    let v := fresh (timeNow s)
    let s := if v.1.getLsbD 0 then v.2 else flitGood v.2 port
    let w := winAt s port
    let s := setWin s port { w with replays := w.replays + 1 }
    let s := updM s fun m => { m with replays := supd 0 m.replays port (· + 1), failRun := supd 0 m.failRun port (· + 1) }
    .next (if w.replays + 1 = s.mg.thReplay then predict s (linkErr port) else s)

/-- Training measures the margin of each lane; one that falls below the floor is predictive. (DESIGN CHOICE, log 18; DESIGN CHOICE, log 76.) -/
def marginNote (s : State) (port : Nat) (e : Nat × Nat) : State :=
  let k := 256 * port + e.1
  let v := Nat.min 255 e.2
  let before := match sget none s.mg.margins k with | some m => decide (m < s.mg.thMargin) | none => false
  let s := updM s fun m => { m with margins := sset none m.margins k (some v) }
  if v < s.mg.thMargin && !before then predict s (linkErr port) else s

/-! ### Rows to a peer (R487) -/

/-- The ports of the peer pages that a job's missing rows write. -/
def jobPorts (j : Job) : List Nat := (j.rows.filter fun r => !j.landed.getLsbD r).filterMap fun r => (j.item r).bind fun c => rowPort c r

def jobHandle (j : Job) : Nat := match j.items with | c :: _ => c.handle.getD 0 | [] => 0

/-- The copy is cancelled and reported, with the port of its refused row. -/
def rowReport (s : State) (i : Nat) (down : Bool) (port : Nat) : State :=
  match s.jobs[i]? with
  | none => s
  | some j =>
    let s := jobCancel s i
    { s with reports := s.reports ++ [if down then .linkDown j.ctx (jobHandle j) port else .linkRefused j.ctx (jobHandle j) port] }

/-- The failed retrains of a port, with one that fails now: their times, and whether three lie within 1 s (R486). -/
def failedNow (s : State) (port : Nat) : List Nat := (s.time.toNat :: sget [] s.mg.failed port).filter fun t => decide (s.time.toNat ≤ t + 1000000000)

/-- A port goes down: the copies with a row to it that has not landed are cancelled and reported (R487). -/
def portFalls (s : State) (port : Nat) : State :=
  let s := logErr (updM s fun m => { m with portDown := sset false m.portDown port true }) 2 none (linkErr port)
  (List.range s.jobs.length).reverse.foldl (fun s i => if (s.jobs[i]?).any fun j => (jobPorts j).contains port then rowReport s i true port else s) s

/-- LINK_RETRAIN (R486): after 8 failures in a row; the third retrain that fails within 1 s takes the port down. (DESIGN CHOICE, log 18.) -/
def execLinkRetrain (port : Nat) (ok : Bool) (margins : List Nat) (s : State) : Out :=
  if 16 ≤ port || isDown s port || sget 0 s.mg.failRun port < 8 then .next s
  else
    let s := timeNow s
    let w := winAt s port
    let s := setWin s port { w with retries := w.retries + 1 }
    let s := updM s fun m => { m with retries := supd 0 m.retries port (· + 1) }
    let s := if w.retries + 1 = s.mg.thRetry then predict s (linkErr port) else s
    let s := (margins.zip (List.range margins.length)).foldl (fun s e => marginNote s port (e.2, e.1)) s
    if ok then .next (flitGood s port)
    else
      let ts := failedNow s port
      let s := updM s fun m => { m with failed := sset [] m.failed port ts }
      .next (if ts.length < 3 then s else portFalls s port)

/-- PEER_ROW_ACK (R487), over a port that is up. -/
def execPeerRowAck (job row : Nat) (s : State) : Out :=
  match (s.jobs[job]?).bind fun j => (j.item row).bind fun c => if rowReady s job j row then rowPort c row else none with
  | none => .next s
  | some p => if isDown s p || s.mg.reserved.testBit p then .next s else .next (peerAck (flitGood s p) job row)

/-- PEER_ROW_REFUSED (R487): the lowest missing row to a peer is refused, or one whose port is down. -/
def execPeerRowRefused (job : Nat) (portDown : Bool) (s : State) : Out :=
  match (s.jobs[job]?).bind fun j => (jobPorts j).find? fun p => !portDown || isDown s p with
  | none => .next s
  | some p => .next (rowReport s job portDown p)

/-! ### Receive windows (R488 to R490) -/

/-- Address of window w's entry. (DEDUCED, log 74.) -/
def winAddr (s : State) (w : Nat) : Nat := s.regs.lwbase.toNat + 32 * w
/-- DEDUCED, log 74. -/
def winRead (s : State) (w : Nat) : Nat := leNat (memRead s.dmem (winAddr s w) 32)
def winWrite (s : State) (w e : Nat) : State := { s with dmem := memWrite s.dmem (winAddr s w) (leBytes 32 e) }

def wSiga (e : Nat) : Nat := nbits e 255 199
def wCtx (e : Nat) : Nat := nbits e 198 183
def wIdx (e : Nat) : Nat := nbits e 182 163
def wExpb (e : Nat) : Nat := nbits e 143 96
def wRcvb (e : Nat) : Nat := nbits e 95 48

/-- An arm that fails (R488). -/
def winBad (s : State) (e : Nat) : Bool :=
  nbits e 162 144 != 0 || nbits e 47 1 != 0 || wExpb e = 0 || !(getC s (wCtx e)).bound
    || decide ((getC s (wCtx e)).nh ≤ wIdx e) || !(hEntry s (wCtx e) (wIdx e)).v || !(hEntry s (wCtx e) (wIdx e)).isOpen

/-- LINK_WINDOW_ARM (R488). -/
def execLinkWindowArm (w : Nat) (s : State) : Out :=
  if 256 ≤ w then .next s
  else
    let e := winRead s w
    if winBad s e then .next { winWrite s w (setField e 0 1 0) with reports := s.reports ++ [.windowRefused w] }
    else .next (winWrite s w (setField (setField e 48 48 0) 0 1 1))

/-- LINK_WINDOW_CLOSE (R488, R489): V clears, and the shadow closes as `shop.close` closes one. (DEDUCED, log 75.) -/
def execLinkWindowClose (w : Nat) (s : State) : Out :=
  if 256 ≤ w then .next s
  else
    let e := winRead s w
    let s := winWrite s w (setField e 0 1 0)
    .next (if (hEntry s (wCtx e) (wIdx e)).isOpen then shopClose s (wCtx e) (wIdx e) else s)

/-- An incoming row is refused (R489, R490). -/
def rowRefused (s : State) (port e offset n : Nat) : Bool :=
  s.mg.reserved.testBit port || !e.testBit 0 || decide ((hEntry s (wCtx e) (wIdx e)).len < offset + n) || decide (wExpb e < wRcvb e + n)

/-- The write of an incoming row, as a copy through the window's shadow. -/
def winCopy (s : State) (e : Nat) : CopyReq :=
  let h := hEntry s (wCtx e) (wIdx e)
  { kind := .cplg, handle := some (wIdx e), shadow := true, psize := pszBytes h.psz, ofs := h.vbase % pszBytes h.psz, vbase := h.vbase }

/-- The row may not be written yet: a checkpoint holds its page; or it completes the window, whose PUB still waits (R58, R313, R473). (DEDUCED, log 75.) -/
def rowWaits (s : State) (e offset n : Nat) : Bool :=
  let ctx := wCtx e
  let idx := wIdx e
  let h := hEntry s ctx idx
  let c := winCopy s e
  let held := match shadowOf (getC s ctx) idx with
    | some x => heldPage s .dev (x.rime.getD ((c.ofs + offset) / c.psize) 0 + (c.ofs + offset) % c.psize)
    | none => false
  held || (wRcvb e + n = wExpb e && (copiesOwed s ctx idx || oldOwed s ctx idx || pubHeld s ctx h.vbase h.len || pubPageHeld s ctx idx))

/-- The window is full: PUB, the signal, V (R489). -/
def winFull (s : State) (w e : Nat) : State :=
  let s := publish s (wCtx e) (wIdx e)
  let s := match walk s 0 (wCtx e) (wSiga e) with
    | .leaf t _ => sigRun s { ctx := wCtx e, sp := (t.place (wSiga e)).1, addr := (t.place (wSiga e)).2, amount := 1 }
    | .bad => s
  winWrite s w (setField (winRead s w) 0 1 0)

/-- The bytes of a row in the rime go to their bank past the cache (R428), and a full write of a burst ends its poison (R438). -/
def rowLanded (s : State) (ctx : Nat) (c : CopyReq) (offset n : Nat) : State :=
  match copySource s ctx c offset with
  | some (.dev, pa) => writeSpan s .dev pa n
  | _ => s

/-- LINK_ROW_RECEIVE (R489). (DEDUCED, log 75; DESIGN CHOICE, log 113.) -/
def execLinkRowReceive (port w offset : Nat) (bytes : List Byte) (s : State) : Out :=
  let e := winRead s w
  let n := bytes.length
  if 16 ≤ port || 256 ≤ w || isDown s port || rowRefused s port e offset n || rowWaits s e offset n then .next s
  else
    let s := flitGood s port
    let c := winCopy s e
    let s := rowLanded (copyPut s (wCtx e) c offset bytes) (wCtx e) c offset n
    let s := winWrite s w (setField e 48 48 (wRcvb e + n))
    .next (if wRcvb e + n = wExpb e then winFull s w e else s)

end Sys2Proof.Machine
end

