-- ==== Sys2Proof/Machine/MgmtCmds.lean ====
section
/-! DEFINITION. The mailbox and its commands, device reset, in-field test, thermal and power limits (R12, R18, R235, R485, R491 to R509,
R513). -/
namespace Sys2Proof.Machine
open Sys2Proof Sys2Proof.Checks

/-! ### The mailbox (R493) -/

def mboxBusy (s : State) : Bool := s.regs.mbsts.getLsbD 0

/-- The codes of R494. -/
def listedCode (c : Nat) : Bool := decide (1 ≤ c) && decide (c ≤ 0xF)

/-- A doorbell: the block goes to MCMD. With neither firmware slot valid the device accepts only `update` (R506). (DESIGN CHOICE, log 72.) -/
def mboxDoorbell (s : State) : State :=
  let code := leNat (memRead s.mg.mailbox 0 4)
  if mboxBusy s || (s.mg.noFw && code != 0xF) then s
  else
    { s with
      regs := { s.regs with mbsts := s.regs.mbsts ||| 1#64 }
      mg := { s.mg with cmd := some code, ran := false, stage := 0 }
      sram := memCopy s.mg.mailbox 0 s.sram s.mg.mcmd.toNat 4096 }

/-- The block goes back to the window, and DONE is set. -/
def mboxDone (s : State) : State :=
  { s with
    regs := { s.regs with mbsts := 2#64 }
    mg := { s.mg with cmd := none, ran := false, mailbox := memCopy s.sram s.mg.mcmd.toNat s.mg.mailbox 0 4096 } }

/-- The class of a unit in the schedule. -/
def unitClass : TestUnit → Nat
  | .core _ => 0 | .quad _ => 1 | .stack _ => 2

/-- The order of the units (R507): cores, floes with their quads, stack arrays. (DESIGN CHOICE, log 18.) -/
def unitOrder (i : Nat) : TestUnit := if i < 1536 then .core i else if i < 1920 then .quad (i - 1536) else .stack (i - 1920)
def unitPlace : TestUnit → Nat
  | .core c => c | .quad f => 1536 + f | .stack n => 1920 + n

/-- The unit that the management core takes next: of the period under way, or the first of the next period. -/
def testNext (s : State) : Option TestUnit :=
  let on (i : Nat) : Bool := s.mg.test.2.testBit (unitClass (unitOrder i)) && !(s.mg.fenced ++ s.mg.fencing).contains (.tested (unitOrder i))
  if s.mg.test.1 = 0 then none
  else
    match (List.range 1932).find? fun i => decide (s.mg.testPos.getD 0 ≤ i) && on i with
    | some i => some (unitOrder i)
    | none => ((List.range 1932).find? on).map unitOrder

/-- The unit is taken. A period begins once the last one has run its time. -/
def testTake (s : State) (u : TestUnit) : State :=
  let first := match s.mg.testPos with | some p => decide (unitPlace u < p) | none => true
  let s : State := if first then
      let s := timeNow s
      let t := Nat.max s.time.toNat (s.mg.testStart + s.mg.test.1 * 60000000000)
      updM { s with time := BitVec.ofNat 64 t } fun m => { m with testStart := t }
    else s
  updM s fun m => { m with testing := m.testing ++ [u], testPos := some (unitPlace u + 1), testDue := none }

/-- The command's batch has ended; a test that fell due meanwhile begins (R509). -/
def batchOver (s : State) : State :=
  let s := updM s fun m => { m with ran := true }
  match s.mg.testDue with
  | some u => if testNext s = some u && s.mg.testing.isEmpty then testTake s u else updM s fun m => { m with testDue := none }
  | none => s

/-- The response word and the bytes from offset 64 on of the current block; the command's batch has ended. -/
def reply (s : State) (word : Nat) (payload : List Byte) : State :=
  let a := s.mg.mcmd.toNat
  batchOver { s with sram := memWrite (memWrite s.sram (a + 4) (leBytes 4 word)) (a + 64) payload }

/-- MAILBOX_DOORBELL_UNKNOWN (R493): no batch; the response word is 0xFFFF_FFFE. -/
def execMailboxDoorbellUnknown (s : State) : Out :=
  let s' := if mboxBusy s then s else mboxDoorbell s
  match s'.mg.cmd with
  | some c => if listedCode c || s'.mg.ran then .next s else .next (mboxDone (reply s' 0xFFFFFFFE []))
  | none => .next s

/-- MGMT_COMMAND_DONE (R492, R493). -/
def execMgmtCommandDone (s : State) : Out := if mboxBusy s && s.mg.ran then .next (mboxDone s) else .next s

/-! ### Commands (R494, R513) -/

/-- Bytes of the current block's payload. (DESIGN CHOICE, log 72.) -/
def payBytes (s : State) (o n : Nat) : List Byte := memRead s.sram (s.mg.mcmd.toNat + 64 + o) n
/-- A 4-byte field of the payload. (DESIGN CHOICE, log 72.) -/
def payWord (s : State) (o : Nat) : Nat := leNat (payBytes s o 4)

/-- A step of the batch of a command's node, between the doorbell and DONE: of most commands the only one. (DESIGN CHOICE, log 72.) -/
def mgmtRun (code : Nat) (s : State) (f : State → State) : Out :=
  if mboxBusy s && s.mg.cmd = some code && !s.mg.ran then .next (f s) else .next s

/-- 0 when the command has done its work, 1 when its payload is malformed or its condition does not hold (R513). -/
def replyIf (ok : Bool) (s t : State) : State := if ok then reply t 0 [] else reply s 1 []

/-- `logrd` (R439): up to 126 records from an index on. -/
def execCmdLogrd (s : State) : Out :=
  mgmtRun 0x01 s fun s =>
    let rs := (s.mg.log.drop (payWord s 0)).take 126
    reply s rs.length ((rs.map (leBytes 32)).flatten)

/-- `cntrd` (R447). (DESIGN CHOICE, log 16.) -/
def execCmdCntrd (s : State) : Out :=
  mgmtRun 0x02 s fun s => reply s 0 ((Config.counterLayout s.mg.rowErrs s.mg.replays s.mg.retries s.mg.margins).take 4032)

/-- `sense` (R508): the event brings the 17 temperatures and the 26 voltages. (DESIGN CHOICE, log 9.) -/
def execCmdSense (temps volts : List Nat) (s : State) : Out :=
  mgmtRun 0x03 s fun s =>
    reply s 0 (((List.range 17).map fun i => leBytes 4 (temps.getD i 0)).flatten ++ ((List.range 26).map fun i => leBytes 4 (volts.getD i 0)).flatten)

/-- CFLG bit 1 of a context and of its descriptor (R235, R394). -/
def setRecov (s : State) (ctx : Nat) (on : Bool) : State :=
  let a := s.regs.ctbase.toNat + 128 * ctx + 2
  let v := (memGet s.dmem a).toNat
  { updC s ctx (fun c => { c with recov := on }) with dmem := memSet s.dmem a (BitVec.ofNat 8 (setField v 1 1 (if on then 1 else 0))) }

/-- `recov` (R235). -/
def execCmdRecov (s : State) : Out :=
  mgmtRun 0x04 s fun s =>
    let ctx := payWord s 0
    replyIf (decide (ctx < 2 ^ 16) && decide (payWord s 4 ≤ 1)) s (setRecov s ctx (payWord s 4 = 1))

/-- The resident group that a command names. -/
def groupNamed (s : State) (ctx btag gnum : Nat) : Option GKey :=
  (s.groups.find? fun e => e.2.res && e.2.prof == .trace && e.2.ctx = ctx && e.2.btag = btag && e.2.gnum = gnum).map Prod.fst

/-- A saved group that a command names: its parked entries are saved parked (R422), and the command waits until it resumes. (DESIGN CHOICE, log 72.) -/
def savedNamed (s : State) (ctx btag gnum : Nat) : Bool :=
  s.saved.any fun x => x.ctx = ctx && x.btag = btag && x.groups.any fun q => q.gnum = gnum

/-- Release of a parked entry (R235): re-run, or retire its lanes. Its record is answered. -/
def releaseParked (s : State) (g : GKey) (i : Nat) (retired : Bool) : State :=
  let q := getG s g
  let p := getP q i
  let s : State := { s with faults := s.faults.filter fun f => !(f.mgmt && f.btag = q.btag && f.gnum = q.gnum && f.path = i) }
  let q := { q with recoveryStop := false }
  if retired then sweepGroup (retire (setG s g (setP q i noPath)) g p.mask p.tix) g else setG s g (makeReady q i p.tix)

/-- `relpark` (R235). -/
def execCmdRelpark (s : State) : Out :=
  mgmtRun 0x05 s fun s =>
    let i := payWord s 12
    match groupNamed s (payWord s 0) (payWord s 4) (payWord s 8) with
    | none => if savedNamed s (payWord s 0) (payWord s 4) (payWord s 8) then s else reply s 1 []
    | some g =>
      replyIf (decide (i < 32) && isParked (getP (getG s g) i) && decide (payWord s 16 ≤ 1)) s (releaseParked s g i (payWord s 16 = 1))

/-- `tsched` (R507): 1 minute to 24 hours; bits 0 to 2 of the classes are cores, floes with their quads, stack arrays. (DESIGN CHOICE, log 72.) -/
def execCmdTsched (s : State) : Out :=
  mgmtRun 0x06 s fun s =>
    let t := payWord s 0
    replyIf (decide (1 ≤ t) && decide (t ≤ 1440) && decide (payWord s 4 < 8)) s 
      (updM s fun m => { m with test := (t, payWord s 4), testPos := none, testStart := s.time.toNat, testDue := none })

/-- `lnkrsv` (R490): only while no context is bound. -/
def execCmdLnkrsv (s : State) : Out :=
  mgmtRun 0x07 s fun s =>
    replyIf (decide (payWord s 0 < 2 ^ 16) && !anyBound s) s (updM s fun m => { m with reserved := payWord s 0 })

/-- A write of CKCTL (R472): none where TMS is out of range. A checkpoint that still waits for its batches when EN is cleared is not taken, and
queues, bins and batches go on. (DEDUCED, log 69.) -/
def ckctlWrite (s : State) (v : Nat) : Option State :=
  let ctx := nbits v 63 48
  let tms := nbits v 31 19
  if tms < 50 || 5000 < tms then none
  else
    let k := getK s ctx
    let first := v.testBit 0 && !k.en
    let s := setK s ctx { k with
      en := v.testBit 0, log := v.testBit 1, tms := tms, next := if first then 0 else k.next, run := if first then k.run + 1 else k.run
      cutting := k.cutting && v.testBit 0 }
    some (if first then ckptStep s ctx else if k.cutting && !v.testBit 0 then binsRestart (passesOn s) ctx else s)

/-- `ckctl` (R472). -/
def execCmdCkctl (s : State) : Out :=
  mgmtRun 0x08 s fun s =>
    match ckctlWrite s (leNat (payBytes s 0 8)) with
    | some t => reply t 0 []
    | none => reply s 1 []

/-- 64 fresh bytes of the engine's random source. (DESIGN CHOICE, log 13.) -/
def randomBytes (s : State) : List Byte × State :=
  (List.range 8).foldl (fun (e : List Byte × State) _ => let x := fresh e.2; (e.1 ++ leBytes 8 x.1.toNat, x.2)) ([], s)

/-- `chal` (R500). -/
def execCmdChal (s : State) : Out :=
  mgmtRun 0x09 s fun s =>
    let r := randomBytes s
    reply (updM r.2 fun m => { m with chal := some r.1, vtok := none }) 0 r.1

/-- A step of a command is done, and others follow. -/
def onward (s : State) : State := updM s fun m => { m with stage := m.stage + 1 }

/-- The check of the command's token: D, and the state. -/
def tokenStep (s : State) : Nat × State := vtokRun (updM s fun m => { m with vtok := none }) (payBytes s 0 1152)

/-- LCST of a command up to its wipe (R503). -/
def moveStep (s : State) (nxt : Nat) : Nat × State := lcstMove (updM s fun m => { m with from_ := m.lcs }) nxt

/-- `unlock` (R503, R513, "The unlock"), one trace of its node a step: the verify, the key wipe, Debug-Open and its wipe, the ports, MEAS3. A step
that fails ends it, and what went before stands; other events may fall between (R509). -/
def execCmdUnlock (s : State) : Out :=
  mgmtRun 0x0A s fun s =>
    let go (r : Nat × State) : State := if r.1 != 0 then reply r.2 1 [] else onward r.2
    match s.mg.stage with
    | 0 => go (tokenStep s)
    | 1 => go (wipeRun s 1)
    | 2 => go (moveStep s 2)
    | 3 => onward (lcstWiped s)
    | 4 => go (dbgoRun s 3)
    | _ => reply (measExtend s 3 (payBytes s 0 128)) 0 []

/-- The 128-byte body of a change of state made without a token (R502). -/
def plainBody (s : State) (from_ nxt : Nat) : List Byte := fuseBytes s 0 8 ++ leBytes 4 from_ ++ leBytes 4 nxt ++ List.replicate 88 0

/-- `relock` (R503): Debug-Open to Secured. -/
def execCmdRelock (s : State) : Out :=
  mgmtRun 0x0B s fun s =>
    match s.mg.stage with
    | 0 => let r := moveStep s 1; if r.1 != 0 then reply r.2 (0x200 + r.1) [] else onward r.2
    | 1 => onward (lcstWiped s)
    | _ => reply (measExtend s 3 (plainBody s s.mg.from_ 1)) 0 []

/-- `rtn` (R503): a token with TO 3, and Return. -/
def execCmdRtn (s : State) : Out :=
  mgmtRun 0x0C s fun s =>
    match s.mg.stage with
    | 0 => let r := tokenStep s; if r.1 != 0 then reply r.2 (0x100 + r.1) [] else onward r.2
    | 1 => let r := moveStep s 3; if r.1 != 0 then reply r.2 (0x200 + r.1) [] else onward r.2
    | 2 => onward (lcstWiped s)
    | _ => reply (measExtend s 3 (payBytes s 0 128)) 0 []

/-! ### Firmware images (R506) -/

/-- The bytes of a firmware slot. -/
def slotBytesOf (s : State) (i : Nat) : List Byte := match sget none s.mg.slots i with | some b => b | none => Config.factoryImage i

/-- The signature of an image verifies under the key that the fuses hash. -/
def fwOk (s : State) (f : FwImage) : Bool := sha512 f.modulus == fuseBytes s 0x10 16 && pssVerify f.modulus f.payload f.sig

/-- The anti-rollback version: the blown bits of fuse word 9. -/
def antiRollback (s : State) : Nat := ((List.range 32).filter fun i => (fuseWord s 9).getLsbD i).length

/-- The valid image of a slot. -/
def fwOf (s : State) (i : Nat) : Option FwImage := (Config.parseImage (slotBytesOf s i)).bind fun f => if fwOk s f then some f else none

/-- The version of the running image. -/
def fwVersion (s : State) : Nat := match Config.parseImage (slotBytesOf s s.mg.active) with | some f => f.version | none => 0

/-- `quote` (R505): its `.sign` clears VTOK as every CRYP does (R499). -/
def execCmdQuote (s : State) : Out :=
  mgmtRun 0x0D s fun s =>
    let body := fuseBytes s 0 8 ++ leBytes 4 s.mg.lcs ++ leBytes 4 s.mg.ports ++ leBytes 4 (fwVersion s) ++ List.replicate 20 0 ++ payBytes s 0 64
      ++ ((List.range 16).map (measOf s)).flatten
    let r := attestSign (updM s fun m => { m with vtok := none }) body
    reply r.2 0 (body ++ r.1)

/-- `keyload` (R496): the slot, and the key encrypted to the attestation key. (DESIGN CHOICE, log 72.) -/
def execCmdKeyload (s : State) : Out :=
  mgmtRun 0x0E s fun s =>
    let slot := payWord s 0
    match oaepDecode (beBytes 512 (attestPrivate (beNat (payBytes s 4 512)))) with
    | some key => replyIf (decide (slot < 64)) s (updM s fun m => { m with keys := sset [] m.keys slot key })
    | none => reply s 1 []

/-- The bytes of a slot with a chunk written at an offset. -/
def chunkPut (old : List Byte) (off : Nat) (v : List Byte) : List Byte :=
  old.take off ++ List.replicate (off - old.length) 0 ++ v ++ old.drop (off + v.length)

/-- `update` (R506): a chunk of the image goes to the inactive slot; with the last one the image is verified, and marked active for the next
reset where its version allows it. The payload is the chunk's offset, length and whether it is the last, then its bytes. (DESIGN CHOICE, log 72.) -/
def execCmdUpdate (s : State) : Out :=
  mgmtRun 0x0F s fun s =>
    let off := payWord s 0
    let len := payWord s 4
    let last := payWord s 8
    let i := 1 - s.mg.active
    if 4020 < len || 1 < last then reply s 1 []
    else
      let whole := chunkPut (slotBytesOf s i) off (payBytes s 12 len)
      let s := updM s fun m => { m with slots := sset none m.slots i (some (if last = 1 then whole.take (off + len) else whole)) }
      if last = 0 then reply s 0 []
      else
        match fwOf s i with
        | some f => replyIf (decide (antiRollback s ≤ f.version)) s (updM s fun m => { m with next := i })
        | none => reply s 1 []

/-! ### Device reset (R485, R505, R506) -/

/-- The fused base state (R505). (DEDUCED, log 77.) -/
def baseState (s : State) : Nat := if (fuseWord s 8).getLsbD 1 then 3 else if (fuseWord s 8).getLsbD 0 then 1 else 0

/-- The state that a device reset leaves before boot: every context is lost, every store of R501 is wiped; host memory, the safe tier, the
fuses, the firmware slots, the log and the fences stand. (DEDUCED, log 12; DEDUCED, log 77.) -/
def resetBase (s : State) : State :=
  { State.reset with
    hmem := s.hmem
    safe := s.safe
    free := s.free
    agenda := s.agenda
    reports := s.reports
    msix := s.msix
    mg := { State.reset.mg with
      lcs := baseState s
      fuses := s.mg.fuses
      slots := s.mg.slots
      active := s.mg.next
      next := s.mg.next
      log := s.mg.log
      traps := s.mg.traps
      fenced := s.mg.fenced ++ s.mg.fencing } }

/-- The slot that boots, and its image: the active one, or the other. (DESIGN CHOICE, log 2.) -/
def bootSlot (s : State) : Option (Nat × FwImage) :=
  match fwOf s s.mg.active with
  | some f => some (s.mg.active, f)
  | none => (fwOf s (1 - s.mg.active)).map fun f => (1 - s.mg.active, f)

/-- Boot (R502, R506): MEAS0 and MEAS1, and the rollback floor. (DEDUCED, log 12.) -/
def boot (s : State) : State :=
  match bootSlot s with
  | none => updM s fun m => { m with noFw := true }
  | some (i, f) =>
    let s := updM s fun m => { m with active := i, next := i }
    let s := measExtend s 0 f.payload
    let s := measExtend s 1 ((f.payload.drop f.cpOff).take f.cpLen)
    if antiRollback s < f.floor then updM s fun m => { m with fuses := sset 0 m.fuses 9 (sget 0 m.fuses 9 ||| w32 (2 ^ Nat.min 32 f.floor - 1)) } else s

/-- DESIGN CHOICE, log 1; DEDUCED, log 12; DEDUCED, log 77. -/
def resetDevice (s : State) : State := boot (resetBase s)

/-- DEVICE_RESET (R485): one outcome for every cause. -/
def execDeviceReset (_ : ResetCause) (s : State) : Out := .next (resetDevice s)

/-! ### In-field test (R507, R509) -/

/-- IN_FIELD_TEST_PERIOD (R507): the next unit of the period's order is taken, the first one as the period begins, and placement on it stops; one
that falls due during a command waits until its batch ends (R509). (DESIGN CHOICE, log 18.) -/
def execInFieldTestPeriod (u : TestUnit) (s : State) : Out :=
  if testNext s != some u || !s.mg.testing.isEmpty then .next s
  else if s.mg.cmd.isSome && !s.mg.ran then .next (updM s fun m => { m with testDue := some u })
  else .next (testTake s u)

/-- DESIGN CHOICE, log 18. -/
def testOver (s : State) (u : TestUnit) : State := updM s fun m => { m with testing := m.testing.erase u }

/-- The place that a failed test names: which bank, track, or row is the part's matter. (DESIGN CHOICE, log 13; DEDUCED, log 78.) -/
def testErr (s : State) (u : TestUnit) : MemErr × State :=
  let v := fresh s
  let r := v.1.toNat
  (match u with
    | .core c =>
      let e := noErr (if r.testBit 0 then .spad else .regs)
      { e with die := c / 384, clu := c / 192, core := c % 192, bank := r / 2 % 16, trk := r / 32 % 8 }
    | .quad f => { noErr .acc with die := f / 96, clu := f / 48, floe := f % 48 }
    | .stack n =>
      let b : BankId := { stack := n, chan := r / 2 % 32, bg := r / 64 % 4, bank := r / 256 % 8 }
      let row := r / 2048 % bankRows
      { noErr .stack with stack := n, chan := b.chan, bg := b.bg, hbk := b.bank, row := row, paddr := rowAddr b row }, v.2)

/-- IN_FIELD_TEST_DONE (R507): placement resumes, or the unit is fenced and logged. (DESIGN CHOICE, log 18.) -/
def execInFieldTestDone (u : TestUnit) (passed : Bool) (s : State) : Out :=
  if !s.mg.testing.contains u || !unitOpen s u then .next s
  else if passed then .next (testOver s u)
  else
    let e := testErr s u
    .next (fence (logErr (testOver e.2 u) 3 none e.1) (.tested u))

/-- TEST_UNIT_STILL_BUSY (R507): the unit is left for the next period, which takes every unit again. -/
def execTestUnitStillBusy (u : TestUnit) (s : State) : Out :=
  if s.mg.testing.contains u && !unitOpen s u then .next (testOver s u) else .next s

/-! ### Clocks, power, temperature (R12, R18, R508) -/

/-- Nominal core clock, in 100 MHz. -/
def nominalClock : Nat := 22

/-- CLOCK_FREQUENCY_CHANGE (R12). -/
def execClockFrequencyChange (clu hundredMHz : Nat) (s : State) : Out :=
  if clu < 8 && 12 ≤ hundredMHz && hundredMHz ≤ 24 then .next (updM s fun m => { m with clocks := sset nominalClock m.clocks clu hundredMHz })
  else .next s

/-- The action of R18: cluster clocks are lowered within their range, then gaps are inserted between floe passes. How far
one event lowers them the manual leaves open. (DESIGN CHOICE, log 91.) -/
def limitPower (s : State) : State :=
  if (List.range 8).any fun c => decide (12 < sget nominalClock s.mg.clocks c) then
    updM s fun m => { m with clocks := (List.range 8).foldl (fun t c => supd nominalClock t c fun f => Nat.max 12 (f - 1)) m.clocks }
  else updM s fun m => { m with gaps := true }

/-- POWER_LIMIT (R18): the event says that the measured draw nears the limit; how near is the management core's matter. (DESIGN CHOICE, log 9.) -/
def execPowerLimit (_ : Nat) (s : State) : Out := .next (limitPower s)

/-- THERMAL_LIMIT (R508): 105 °C and 115 °C, in quarter degrees. (DESIGN CHOICE, log 9.) -/
def execThermalLimit (die quarterDegrees : Nat) (s : State) : Out :=
  if 17 ≤ die || quarterDegrees < 420 then .next s
  else if quarterDegrees < 460 then .next (limitPower s)
  else .next (resetDevice s)

end Sys2Proof.Machine
end

