-- ==== Sys2Proof/Machine/HostOps.lean ====
section
/-! DEFINITION. The host's register window and aperture (R434, R436, R448, R464, R467, R479 to R484, R488, R493). -/
namespace Sys2Proof.Machine
open Sys2Proof Sys2Proof.Checks

/-! ### The register window (R479, R480) -/

def windowSize : Nat := 0x4000000

/-- What an 8-byte register of the window reads; write-only fields and offsets not listed read 0. (DEDUCED, log 79.) -/
def windowRead (s : State) (o : Nat) : Nat :=
  let r := s.regs
  if o = 0x8000 then r.qtbase.toNat
  else if o = 0x8008 then r.qtn.toNat
  else if o = 0x8010 then r.ctbase.toNat
  else if o = 0x8018 then r.ctxcmd.toNat
  else if o = 0x8020 then r.hcfg.toNat
  else if o = 0x8028 then r.apbase.toNat
  else if o = 0x9000 then r.tlbiva.toNat
  else if o = 0x9008 then r.tlbilen.toNat
  else if o = 0x9010 then r.tlbictl.toNat + if tlbBusy s then 2 else 0
  else if o = 0xA000 then r.frbase.toNat
  else if o = 0xA008 then r.frwr.toNat
  else if o = 0xA010 then r.fans.toNat
  else if o = 0xB000 then r.tsbase.toNat
  else if o = 0xB008 then r.tslen.toNat
  else if o = 0xB010 then r.tswr.toNat
  else if o = 0xB018 then r.tsrd.toNat
  else if o = 0xC000 then r.lwbase.toNat
  else if o = 0xC008 then r.lwcmd.toNat
  else if 0x10000 ≤ o && o < 0x18000 then (if debugOpen s then debugRead s ((o - 0x10000) / 0x1000) (o % 0x1000) else 0)
  else if 0x100000 ≤ o && o < 0x101000 then leNat (memRead s.mg.mailbox (o - 0x100000) 8)
  else if o = 0x101008 then r.mbsts.toNat
  else if windowSize ≤ o && o < windowSize + 64 then (sget 0 s.sctl ((o - windowSize) / 8)).toNat
  else if o = windowSize + 64 then r.apsize
  else 0

/-- What an access of the host reads from the window (R479): the register, or the half that a 4-byte access reaches; none where it completes with
Unsupported Request. -/
def registerRead (s : State) (offset len : Nat) : Option Nat :=
  if len = 8 && offset % 8 = 0 then some (windowRead s offset)
  else if len = 4 && offset % 4 = 0 then some (windowRead s (offset / 8 * 8) / 2 ^ (8 * (offset % 8)) % 2 ^ 32)
  else none

/-- Size of the aperture, 1 GiB to 1 TiB (R479). (DESIGN CHOICE, log 5.) -/
def apertureSize (s : State) : Nat := 2 ^ (30 + Nat.min 10 s.regs.apsize)

def setRegs (s : State) (r : HostRegs) : State := { s with regs := r }

/-- A write of CTXCMD (R481). (DEDUCED, log 73.) -/
def ctxcmdWrite (s : State) (v : Nat) (low : Bool) : Out :=
  let op := nbits v 17 16
  if ctxBusy s then .next s
  else if low && op = 1 then execCtxBind (v % 2 ^ 16) s
  else if low && op = 2 then execCtxUnbind (v % 2 ^ 16) s
  else .next (setCtxCmd s (BitVec.ofNat 64 (setField s.regs.ctxcmd.toNat 0 16 (v % 2 ^ 16))))

/-- A write of TLBICTL (R434). -/
def tlbictlWrite (s : State) (v : Nat) (low : Bool) : Out :=
  let ctx := nbits v 31 16
  if low && v.testBit 0 && !tlbBusy s then
    if v.testBit 2 then execTlbInvalidateAll ctx s else execTlbInvalidateRange ctx s.regs.tlbiva.toNat s.regs.tlbilen.toNat s
  else .next (setRegs s { s.regs with tlbictl := BitVec.ofNat 64 (fieldAt 16 16 ctx + if v.testBit 2 then 4 else 0) })

/-- A write of FANS (R436): its fields lie in the low half. -/
def fansWrite (s : State) (v : Nat) (low : Bool) : Out :=
  if !low || nbits v 63 14 != 0 then .next s
  else
    match nbits v 13 12 with
    | 0 => execFaultAnswerServiced (v % 4096) s
    | 1 => execFaultAnswerUnresolvable (v % 4096) s
    | 2 => execFaultAnswerRetained (v % 4096) s
    | _ => .next s

/-- A write of LWCMD (R488). -/
def lwcmdWrite (s : State) (v : Nat) (low : Bool) : Out :=
  if !low then .next s
  else
    let s := setRegs s { s.regs with lwcmd := BitVec.ofNat 64 (v % 512) }
    if v.testBit 8 then execLinkWindowClose (v % 256) s else execLinkWindowArm (v % 256) s

/-- A write of DCMD (R459). (DEDUCED, log 63.) -/
def dcmdWrite (s : State) (clu v : Nat) (low : Bool) : Out :=
  let b := v.testBit 5
  let w := v.testBit 4
  if !low then .next s
  else
    match v % 16 with
    | 1 => execDcmdHold clu s
    | 2 => execDcmdRelease clu b w s
    | 3 => execDcmdTstep clu b w s
    | 4 => execDcmdIstep clu b w s
    | 5 => execDcmdRun clu s
    | 6 => execDcmdAbort clu s
    | _ => .next (cmdReserved s clu)

/-- A write of a debug block (R448). -/
def debugWindow (s : State) (clu o v : Nat) (low : Bool) : Out :=
  if o = 0 then execDebugContextChange clu (BitVec.ofNat 64 v) s
  else if o = 0x18 then dcmdWrite s clu v low
  else if o = 0x30 then execDrdataWrite clu (BitVec.ofNat 64 v) s
  else .next (debugWrite s clu o v)

/-- A write of an 8-byte register: `v` is its whole new value, `low` whether the write reaches bits 31:0. (DESIGN CHOICE, log 66; DEDUCED, log 79.) -/
def windowWrite (s : State) (o v : Nat) (low : Bool) : Out :=
  let r := s.regs
  let w : DWord := BitVec.ofNat 64 v
  if o < 0x8000 then execQueueDoorbell (o / 8) s
  else if o = 0x8000 then .next (if v % 64 != 0 || devEnd ≤ v then s else setRegs s { r with qtbase := w })
  else if o = 0x8008 then .next (if v = 0 || 4096 < v then s else setRegs s { r with qtn := w })
  else if o = 0x8010 then .next (if v % 128 != 0 || devEnd ≤ v then s else setRegs s { r with ctbase := w })
  else if o = 0x8018 then ctxcmdWrite s v low
  else if o = 0x8020 then .next (setRegs s { r with hcfg := w &&& 1#64 })
  else if o = 0x8028 then .next (if v % apertureSize s != 0 then s else setRegs s { r with apbase := w })
  else if o = 0x9000 then .next (setRegs s { r with tlbiva := BitVec.ofNat 64 (fieldAt 14 43 (nbits v 56 14)) })
  else if o = 0x9008 then .next (setRegs s { r with tlbilen := BitVec.ofNat 64 (v / 2 ^ 14 * 2 ^ 14) })
  else if o = 0x9010 then tlbictlWrite s v low
  else if o = 0xA000 then .next (setRegs s { r with frbase := w })
  else if o = 0xA010 then fansWrite s v low
  else if o = 0xB000 then .next (setRegs s { r with tsbase := w })
  else if o = 0xB008 then .next (setRegs s { r with tslen := w })
  else if o = 0xB018 then .next (setRegs s { r with tsrd := w })
  else if o = 0xC000 then .next (setRegs s { r with lwbase := w })
  else if o = 0xC008 then lwcmdWrite s v low
  else if 0x10000 ≤ o && o < 0x18000 then debugWindow s ((o - 0x10000) / 0x1000) (o % 0x1000) v low
  else if 0x100000 ≤ o && o < 0x101000 then .next (updM s fun m => { m with mailbox := memWrite m.mailbox (o - 0x100000) (leBytes 8 v) })
  else if o = 0x101000 then .next (if low && v.testBit 0 then mboxDoorbell s else s)
  else if o = 0x101008 then .next (if low && v.testBit 1 then setRegs s { r with mbsts := r.mbsts &&& ~~~2#64 } else s)
  else if windowSize ≤ o && o < windowSize + 64 then
    .next (match sctlWrite v with | some c => { s with sctl := sset 0 s.sctl ((o - windowSize) / 8) c } | none => s)
  else if o = windowSize + 64 then .next (if 10 < v then s else setRegs s { r with apsize := v })
  else .next s

/-- The whole value that a 4-byte write at the low or the high half makes of a register. -/
def halfMerge (old v : Nat) (high : Bool) : Nat := if high then setField old 32 32 v else setField old 0 32 v

/-- REGISTER_WRITE (R479): an access that is not an aligned 4-byte or 8-byte one changes nothing. The manual gives SCTL (R467)
and the size of the aperture, which is the host's to choose, no place in the window: here SCTL of cluster c stands at the window's end + 8c, and the size
64 bytes past that end. (DESIGN CHOICE, log 66.) -/
def execRegisterWrite (offset len : Nat) (v : DWord) (s : State) : Out :=
  if len = 8 && offset % 8 = 0 then windowWrite s offset v.toNat true
  else if len = 4 && offset % 4 = 0 then
    let o := offset / 8 * 8
    let high := offset % 8 = 4
    windowWrite s o (halfMerge (windowRead s o) (v.toNat % 2 ^ 32) high) (!high)
  else .next s

/-! ### The aperture (R482) -/

/-- The access names device memory alone. -/
def inDevice (a n : Nat) : Bool := decide (a + n ≤ devEnd)

/-- A page of the code-page set among n bytes (R129). (DEDUCED, log 80.) -/
def touchesCode (s : State) (a n : Nat) : Bool := decide (0 < n) && codePage s (a / 0x4000 * 0x4000) ((a + n - 1) / 0x4000 * 0x4000 + 0x4000 - a / 0x4000 * 0x4000)

/-- The bytes that a read through the aperture returns; none where it completes with Unsupported Request. -/
def apertureRead (s : State) (offset len : Nat) : Option (List Byte) :=
  let a := s.regs.apbase.toNat + offset
  if inDevice a len && offset + len ≤ apertureSize s then some (memRead s.dmem a len) else none

/-- HOST_APERTURE_ACCESS (R482): an access that completes with Unsupported Request changes nothing; a write to a page of the code-page set
is discarded, and the function logs it (R129). (DEDUCED, log 80.) -/
def execHostApertureAccess (a : HostAcc) (s : State) : Out :=
  match a with
  | .read offset len => if (apertureRead s offset len).isSome then .next (touchSpan s .pass .dev (s.regs.apbase.toNat + offset) len) else .next s
  | .write offset bytes =>
    let p := s.regs.apbase.toNat + offset
    if !inDevice p bytes.length || apertureSize s < offset + bytes.length then .next s
    else if touchesCode s p bytes.length then .next { s with reports := s.reports ++ [.unsupportedRequest offset] }
    else .next (writeSpan { s with dmem := memWrite s.dmem p bytes } .dev p bytes.length)
  | .atomic _ => .next s

end Sys2Proof.Machine
end

