-- ==== Sys2Proof/Machine/Dispatch.lean ====
section
/-! DEFINITION. The meaning of each instruction and event: one arm for each constructor. -/
namespace Sys2Proof.Machine
open Sys2Proof

def exec (i : Instr) (s : State) : Host.Outcome State Fault Refusal :=
  match i with
  | .grd w => Sys2Proof.Machine.execGrd w s
  | .grdc w => Sys2Proof.Machine.execGrdc w s
  | .grdu w => Sys2Proof.Machine.execGrdu w s
  | .exmr w => Sys2Proof.Machine.execExmr w s
  | .exmn w => Sys2Proof.Machine.execExmn w s
  | .succ w => Sys2Proof.Machine.execSucc w s
  | .trap w => Sys2Proof.Machine.execTrap w s
  | .bkpt w => Sys2Proof.Machine.execBkpt w s
  | .yld w => Sys2Proof.Machine.execYld w s
  | .nop w => Sys2Proof.Machine.execNop w s
  | .add w => Sys2Proof.Machine.execAdd w s
  | .addc w => Sys2Proof.Machine.execAddc w s
  | .sub w => Sys2Proof.Machine.execSub w s
  | .subb w => Sys2Proof.Machine.execSubb w s
  | .neg w => Sys2Proof.Machine.execNeg w s
  | .abs w => Sys2Proof.Machine.execAbs w s
  | .mul w => Sys2Proof.Machine.execMul w s
  | .mulh w => Sys2Proof.Machine.execMulh w s
  | .mulw w => Sys2Proof.Machine.execMulw w s
  | .mad w => Sys2Proof.Machine.execMad w s
  | .madw w => Sys2Proof.Machine.execMadw w s
  | .div w => Sys2Proof.Machine.execDiv w s
  | .rem w => Sys2Proof.Machine.execRem w s
  | .min w => Sys2Proof.Machine.execMin w s
  | .max w => Sys2Proof.Machine.execMax w s
  | .and w => Sys2Proof.Machine.execAnd w s
  | .or w => Sys2Proof.Machine.execOr w s
  | .xor w => Sys2Proof.Machine.execXor w s
  | .not w => Sys2Proof.Machine.execNot w s
  | .andn w => Sys2Proof.Machine.execAndn w s
  | .shl w => Sys2Proof.Machine.execShl w s
  | .shr w => Sys2Proof.Machine.execShr w s
  | .sar w => Sys2Proof.Machine.execSar w s
  | .rol w => Sys2Proof.Machine.execRol w s
  | .clz w => Sys2Proof.Machine.execClz w s
  | .ctz w => Sys2Proof.Machine.execCtz w s
  | .popc w => Sys2Proof.Machine.execPopc w s
  | .brev w => Sys2Proof.Machine.execBrev w s
  | .bfx w => Sys2Proof.Machine.execBfx w s
  | .bfi w => Sys2Proof.Machine.execBfi w s
  | .sxt w => Sys2Proof.Machine.execSxt w s
  | .zxt w => Sys2Proof.Machine.execZxt w s
  | .sel w => Sys2Proof.Machine.execSel w s
  | .cmp w => Sys2Proof.Machine.execCmp w s
  | .cmpx w => Sys2Proof.Machine.execCmpx w s
  | .lea w => Sys2Proof.Machine.execLea w s
  | .add64 w => Sys2Proof.Machine.execAdd64 w s
  | .sub64 w => Sys2Proof.Machine.execSub64 w s
  | .mov w => Sys2Proof.Machine.execMov w s
  | .movi w => Sys2Proof.Machine.execMovi w s
  | .movw w => Sys2Proof.Machine.execMovw w s
  | .pand w => Sys2Proof.Machine.execPand w s
  | .por w => Sys2Proof.Machine.execPor w s
  | .pxor w => Sys2Proof.Machine.execPxor w s
  | .pnot w => Sys2Proof.Machine.execPnot w s
  | .pmov w => Sys2Proof.Machine.execPmov w s
  | .lxch w => Sys2Proof.Machine.execLxch w s
  | .lxup w => Sys2Proof.Machine.execLxup w s
  | .lxdn w => Sys2Proof.Machine.execLxdn w s
  | .lxbf w => Sys2Proof.Machine.execLxbf w s
  | .vote w => Sys2Proof.Machine.execVote w s
  | .lred w => Sys2Proof.Machine.execLred w s
  | .lscn w => Sys2Proof.Machine.execLscn w s
  | .lcnt w => Sys2Proof.Machine.execLcnt w s
  | .fadd w => Sys2Proof.Machine.execFadd w s
  | .fsub w => Sys2Proof.Machine.execFsub w s
  | .fmul w => Sys2Proof.Machine.execFmul w s
  | .ffma w => Sys2Proof.Machine.execFfma w s
  | .fmin w => Sys2Proof.Machine.execFmin w s
  | .fmax w => Sys2Proof.Machine.execFmax w s
  | .fabs w => Sys2Proof.Machine.execFabs w s
  | .fneg w => Sys2Proof.Machine.execFneg w s
  | .fcmp w => Sys2Proof.Machine.execFcmp w s
  | .fcls w => Sys2Proof.Machine.execFcls w s
  | .frnd w => Sys2Proof.Machine.execFrnd w s
  | .fdiv w => Sys2Proof.Machine.execFdiv w s
  | .fsqrt w => Sys2Proof.Machine.execFsqrt w s
  | .frcp w => Sys2Proof.Machine.execFrcp w s
  | .frsq w => Sys2Proof.Machine.execFrsq w s
  | .fex2 w => Sys2Proof.Machine.execFex2 w s
  | .flg2 w => Sys2Proof.Machine.execFlg2 w s
  | .fsin w => Sys2Proof.Machine.execFsin w s
  | .fcos w => Sys2Proof.Machine.execFcos w s
  | .fsig w => Sys2Proof.Machine.execFsig w s
  | .ftnh w => Sys2Proof.Machine.execFtnh w s
  | .hadd2 w => Sys2Proof.Machine.execHadd2 w s
  | .hmul2 w => Sys2Proof.Machine.execHmul2 w s
  | .hfma2 w => Sys2Proof.Machine.execHfma2 w s
  | .hmin2 w => Sys2Proof.Machine.execHmin2 w s
  | .hmax2 w => Sys2Proof.Machine.execHmax2 w s
  | .cvtf w => Sys2Proof.Machine.execCvtf w s
  | .cvti w => Sys2Proof.Machine.execCvti w s
  | .cvtn w => Sys2Proof.Machine.execCvtn w s
  | .cvtq w => Sys2Proof.Machine.execCvtq w s
  | .cvte w => Sys2Proof.Machine.execCvte w s
  | .ld w => Sys2Proof.Machine.execLd w s
  | .ldnc w => Sys2Proof.Machine.execLdnc w s
  | .st w => Sys2Proof.Machine.execSt w s
  | .lds w => Sys2Proof.Machine.execLds w s
  | .ldsn w => Sys2Proof.Machine.execLdsn w s
  | .sts w => Sys2Proof.Machine.execSts w s
  | .stn w => Sys2Proof.Machine.execStn w s
  | .atm w => Sys2Proof.Machine.execAtm w s
  | .cas w => Sys2Proof.Machine.execCas w s
  | .atms w => Sys2Proof.Machine.execAtms w s
  | .cass w => Sys2Proof.Machine.execCass w s
  | .fnc w => Sys2Proof.Machine.execFnc w s
  | .seal w => Sys2Proof.Machine.execSeal w s
  | .unsl w => Sys2Proof.Machine.execUnsl w s
  | .prf w => Sys2Proof.Machine.execPrf w s
  | .gath w => Sys2Proof.Machine.execGath w s
  | .scat w => Sys2Proof.Machine.execScat w s
  | .rgn w => Sys2Proof.Machine.execRgn w s
  | .step w => Sys2Proof.Machine.execStep w s
  | .stepq w => Sys2Proof.Machine.execStepq w s
  | .fset w => Sys2Proof.Machine.execFset w s
  | .fclr w => Sys2Proof.Machine.execFclr w s
  | .ftst w => Sys2Proof.Machine.execFtst w s
  | .bari w => Sys2Proof.Machine.execBari w s
  | .bara w => Sys2Proof.Machine.execBara w s
  | .barw w => Sys2Proof.Machine.execBarw w s
  | .barx w => Sys2Proof.Machine.execBarx w s
  | .barq w => Sys2Proof.Machine.execBarq w s
  | .team w => Sys2Proof.Machine.execTeam w s
  | .cpl w => Sys2Proof.Machine.execCpl w s
  | .cplg w => Sys2Proof.Machine.execCplg w s
  | .cpt w => Sys2Proof.Machine.execCpt w s
  | .cpo w => Sys2Proof.Machine.execCpo w s
  | .cpx w => Sys2Proof.Machine.execCpx w s
  | .shop w => Sys2Proof.Machine.execShop w s
  | .pub w => Sys2Proof.Machine.execPub w s
  | .cpq w => Sys2Proof.Machine.execCpq w s
  | .cpc w => Sys2Proof.Machine.execCpc w s
  | .cpbs w => Sys2Proof.Machine.execCpbs w s
  | .mpost w => Sys2Proof.Machine.execMpost w s
  | .macq w => Sys2Proof.Machine.execMacq w s
  | .mrel w => Sys2Proof.Machine.execMrel w s
  | .mzer w => Sys2Proof.Machine.execMzer w s
  | .mlda w => Sys2Proof.Machine.execMlda w s
  | .mrd w => Sys2Proof.Machine.execMrd w s
  | .msta w => Sys2Proof.Machine.execMsta w s
  | .mpub w => Sys2Proof.Machine.execMpub w s
  | .msetl w => Sys2Proof.Machine.execMsetl w s
  | .tadd w => Sys2Proof.Machine.execTadd w s
  | .tscl w => Sys2Proof.Machine.execTscl w s
  | .taxpy w => Sys2Proof.Machine.execTaxpy w s
  | .tmap w => Sys2Proof.Machine.execTmap w s
  | .tmul w => Sys2Proof.Machine.execTmul w s
  | .tcvt w => Sys2Proof.Machine.execTcvt w s
  | .tstat w => Sys2Proof.Machine.execTstat w s
  | .mqui w => Sys2Proof.Machine.execMqui w s
  | .mtok w => Sys2Proof.Machine.execMtok w s
  | .fwk w => Sys2Proof.Machine.execFwk w s
  | .emit w => Sys2Proof.Machine.execEmit w s
  | .sgnl w => Sys2Proof.Machine.execSgnl w s
  | .prio w => Sys2Proof.Machine.execPrio w s
  | .rtkt w => Sys2Proof.Machine.execRtkt w s
  | .rput w => Sys2Proof.Machine.execRput w s
  | .qbnd w => Sys2Proof.Machine.execQbnd w s
  | .rskp w => Sys2Proof.Machine.execRskp w s
  | .govh w => Sys2Proof.Machine.execGovh w s
  | .rdsr w => Sys2Proof.Machine.execRdsr w s
  | .wrsr w => Sys2Proof.Machine.execWrsr w s
  | .time w => Sys2Proof.Machine.execTime w s
  | .perf w => Sys2Proof.Machine.execPerf w s
  | .fusr w => Sys2Proof.Machine.execFusr w s
  | .crypHash w => Sys2Proof.Machine.execCrypHash w s
  | .crypVrfy w => Sys2Proof.Machine.execCrypVrfy w s
  | .crypSign w => Sys2Proof.Machine.execCrypSign w s
  | .crypVtok w => Sys2Proof.Machine.execCrypVtok w s
  | .wipe w => Sys2Proof.Machine.execWipe w s
  | .mext w => Sys2Proof.Machine.execMext w s
  | .lcst w => Sys2Proof.Machine.execLcst w s
  | .dbgo w => Sys2Proof.Machine.execDbgo w s
  | .traceEntry g => Sys2Proof.Machine.execTraceEntry g s
  | .traceFetchComplete g path => Sys2Proof.Machine.execTraceFetchComplete g path s
  | .registerBudgetGrant g path => Sys2Proof.Machine.execRegisterBudgetGrant g path s
  | .traceCommit g => Sys2Proof.Machine.execTraceCommit g s
  | .resultArrival g lane reg => Sys2Proof.Machine.execResultArrival g lane reg s
  | .ldsWake g => Sys2Proof.Machine.execLdsWake g s
  | .yldTimeout g => Sys2Proof.Machine.execYldTimeout g s
  | .effectPerformed n => Sys2Proof.Machine.execEffectPerformed n s
  | .stnTermLand n => Sys2Proof.Machine.execStnTermLand n s
  | .pageWalkComplete n => Sys2Proof.Machine.execPageWalkComplete n s
  | .haltSkidExpiry b => Sys2Proof.Machine.execHaltSkidExpiry b s
  | .trapRecordWrite b => Sys2Proof.Machine.execTrapRecordWrite b s
  | .haltComplete b => Sys2Proof.Machine.execHaltComplete b s
  | .haltResume b => Sys2Proof.Machine.execHaltResume b s
  | .stepComplete t => Sys2Proof.Machine.execStepComplete t s
  | .copyLineLand job row => Sys2Proof.Machine.execCopyLineLand job row s
  | .cpbsArrival job => Sys2Proof.Machine.execCpbsArrival job s
  | .pubComplete n => Sys2Proof.Machine.execPubComplete n s
  | .sealComplete n => Sys2Proof.Machine.execSealComplete n s
  | .unsealComplete n => Sys2Proof.Machine.execUnsealComplete n s
  | .fenceComplete g path => Sys2Proof.Machine.execFenceComplete g path s
  | .gathElementArrival g slot lane => Sys2Proof.Machine.execGathElementArrival g slot lane s
  | .scatElementPerform n => Sys2Proof.Machine.execScatElementPerform n s
  | .floePassGrant f => Sys2Proof.Machine.execFloePassGrant f s
  | .floePassComplete f => Sys2Proof.Machine.execFloePassComplete f s
  | .floeTileOpPerform f n => Sys2Proof.Machine.execFloeTileOpPerform f n s
  | .churnStart f root => Sys2Proof.Machine.execChurnStart f root s
  | .churnStep f => Sys2Proof.Machine.execChurnStep f s
  | .statsCountOverflow f tid => Sys2Proof.Machine.execStatsCountOverflow f tid s
  | .statsDrainDone f => Sys2Proof.Machine.execStatsDrainDone f s
  | .floeQuiescent f => Sys2Proof.Machine.execFloeQuiescent f s
  | .pktNop q => Sys2Proof.Machine.execPktNop q s
  | .pktDispatch q => Sys2Proof.Machine.execPktDispatch q s
  | .dispatchRecordEntry d => Sys2Proof.Machine.execDispatchRecordEntry d s
  | .dispatchComplete d => Sys2Proof.Machine.execDispatchComplete d s
  | .pktSignal q => Sys2Proof.Machine.execPktSignal q s
  | .pktWait q => Sys2Proof.Machine.execPktWait q s
  | .waitSatisfied q => Sys2Proof.Machine.execWaitSatisfied q s
  | .pktHinval q => Sys2Proof.Machine.execPktHinval q s
  | .pktLoad q => Sys2Proof.Machine.execPktLoad q s
  | .pktUnload q => Sys2Proof.Machine.execPktUnload q s
  | .signalDecrement n => Sys2Proof.Machine.execSignalDecrement n s
  | .binTimerExpiry ctx node => Sys2Proof.Machine.execBinTimerExpiry ctx node s
  | .batchPlacement clu core slots => Sys2Proof.Machine.execBatchPlacement clu core slots s
  | .batchEnd b => Sys2Proof.Machine.execBatchEnd b s
  | .emitRecordEntry n => Sys2Proof.Machine.execEmitRecordEntry n s
  | .fwkResponse n => Sys2Proof.Machine.execFwkResponse n s
  | .rtktGrant n => Sys2Proof.Machine.execRtktGrant n s
  | .ringPopGrant g => Sys2Proof.Machine.execRingPopGrant g s
  | .checkpointPageCopied ctx page => Sys2Proof.Machine.execCheckpointPageCopied ctx page s
  | .budgetDeadlockEviction trk => Sys2Proof.Machine.execBudgetDeadlockEviction trk s
  | .traceStall g => Sys2Proof.Machine.execTraceStall g s
  | .bankIdleClose b => Sys2Proof.Machine.execBankIdleClose b s
  | .stopSkidExpiry clu => Sys2Proof.Machine.execStopSkidExpiry clu s
  | .clusterStopped clu => Sys2Proof.Machine.execClusterStopped clu s
  | .checkpointTimerExpiry ctx => Sys2Proof.Machine.execCheckpointTimerExpiry ctx s
  | .faultRecordWrite => Sys2Proof.Machine.execFaultRecordWrite s
  | .tlbInvalidateDone => Sys2Proof.Machine.execTlbInvalidateDone s
  | .queueQuantumExpiry => Sys2Proof.Machine.execQueueQuantumExpiry s
  | .governorTick b => Sys2Proof.Machine.execGovernorTick b s
  | .eviction victims => Sys2Proof.Machine.execEviction victims s
  | .batchResume ctx n clu core slots => Sys2Proof.Machine.execBatchResume ctx n clu core slots s
  | .ctxUnbind ctx => Sys2Proof.Machine.execCtxUnbind ctx s
  | .bankRequestService b => Sys2Proof.Machine.execBankRequestService b s
  | .rfmCommandDone b => Sys2Proof.Machine.execRfmCommandDone b s
  | .backoffExpiry b => Sys2Proof.Machine.execBackoffExpiry b s
  | .periodicRefresh b row => Sys2Proof.Machine.execPeriodicRefresh b row s
  | .faultAnswerServiced n => Sys2Proof.Machine.execFaultAnswerServiced n s
  | .faultAnswerUnresolvable n => Sys2Proof.Machine.execFaultAnswerUnresolvable n s
  | .faultAnswerRetained n => Sys2Proof.Machine.execFaultAnswerRetained n s
  | .tlbInvalidateRange ctx va len => Sys2Proof.Machine.execTlbInvalidateRange ctx va len s
  | .tlbInvalidateAll ctx => Sys2Proof.Machine.execTlbInvalidateAll ctx s
  | .queueDoorbell q => Sys2Proof.Machine.execQueueDoorbell q s
  | .preemptionStart victims => Sys2Proof.Machine.execPreemptionStart victims s
  | .ctxBind ctx => Sys2Proof.Machine.execCtxBind ctx s
  | .rowCounterConfig stack v => Sys2Proof.Machine.execRowCounterConfig stack v s
  | .memoryError e => Sys2Proof.Machine.execMemoryError e s
  | .patrolScrub paddr => Sys2Proof.Machine.execPatrolScrub paddr s
  | .debugStopRequest clu => Sys2Proof.Machine.execDebugStopRequest clu s
  | .debugResume clu => Sys2Proof.Machine.execDebugResume clu s
  | .debugContextChange clu v => Sys2Proof.Machine.execDebugContextChange clu v s
  | .dcmdHold clu => Sys2Proof.Machine.execDcmdHold clu s
  | .dcmdRelease clu skipb skipw => Sys2Proof.Machine.execDcmdRelease clu skipb skipw s
  | .dcmdTstep clu skipb skipw => Sys2Proof.Machine.execDcmdTstep clu skipb skipw s
  | .dcmdIstep clu skipb skipw => Sys2Proof.Machine.execDcmdIstep clu skipb skipw s
  | .dcmdRun clu => Sys2Proof.Machine.execDcmdRun clu s
  | .dcmdAbort clu => Sys2Proof.Machine.execDcmdAbort clu s
  | .drdataWrite clu v => Sys2Proof.Machine.execDrdataWrite clu v s
  | .memorySample n lat qsp qtlb qfab qmsc qbank src last => Sys2Proof.Machine.execMemorySample n lat qsp qtlb qfab qmsc qbank src last s
  | .groupSample c => Sys2Proof.Machine.execGroupSample c s
  | .powerSample rails => Sys2Proof.Machine.execPowerSample rails s
  | .checkpointLogThreshold ctx => Sys2Proof.Machine.execCheckpointLogThreshold ctx s
  | .replayDivergenceTimeout ctx => Sys2Proof.Machine.execReplayDivergenceTimeout ctx s
  | .hostApertureAccess a => Sys2Proof.Machine.execHostApertureAccess a s
  | .registerWrite offset len v => Sys2Proof.Machine.execRegisterWrite offset len v s
  | .deviceReset why => Sys2Proof.Machine.execDeviceReset why s
  | .linkWindowArm w => Sys2Proof.Machine.execLinkWindowArm w s
  | .linkWindowClose w => Sys2Proof.Machine.execLinkWindowClose w s
  | .linkRowReceive port w offset bytes => Sys2Proof.Machine.execLinkRowReceive port w offset bytes s
  | .peerRowAck job row => Sys2Proof.Machine.execPeerRowAck job row s
  | .peerRowRefused job portDown => Sys2Proof.Machine.execPeerRowRefused job portDown s
  | .flitCrcFail port => Sys2Proof.Machine.execFlitCrcFail port s
  | .linkRetrain port ok margins => Sys2Proof.Machine.execLinkRetrain port ok margins s
  | .mailboxDoorbellUnknown => Sys2Proof.Machine.execMailboxDoorbellUnknown s
  | .mgmtCommandDone => Sys2Proof.Machine.execMgmtCommandDone s
  | .cmdLogrd => Sys2Proof.Machine.execCmdLogrd s
  | .cmdCntrd => Sys2Proof.Machine.execCmdCntrd s
  | .cmdSense temps volts => Sys2Proof.Machine.execCmdSense temps volts s
  | .cmdRecov => Sys2Proof.Machine.execCmdRecov s
  | .cmdRelpark => Sys2Proof.Machine.execCmdRelpark s
  | .cmdTsched => Sys2Proof.Machine.execCmdTsched s
  | .cmdLnkrsv => Sys2Proof.Machine.execCmdLnkrsv s
  | .cmdCkctl => Sys2Proof.Machine.execCmdCkctl s
  | .cmdChal => Sys2Proof.Machine.execCmdChal s
  | .cmdUnlock => Sys2Proof.Machine.execCmdUnlock s
  | .cmdRelock => Sys2Proof.Machine.execCmdRelock s
  | .cmdRtn => Sys2Proof.Machine.execCmdRtn s
  | .cmdQuote => Sys2Proof.Machine.execCmdQuote s
  | .cmdKeyload => Sys2Proof.Machine.execCmdKeyload s
  | .cmdUpdate => Sys2Proof.Machine.execCmdUpdate s
  | .inFieldTestPeriod u => Sys2Proof.Machine.execInFieldTestPeriod u s
  | .inFieldTestDone u passed => Sys2Proof.Machine.execInFieldTestDone u passed s
  | .thermalLimit die quarterDegrees => Sys2Proof.Machine.execThermalLimit die quarterDegrees s
  | .powerLimit watts => Sys2Proof.Machine.execPowerLimit watts s
  | .clockFrequencyChange clu hundredMHz => Sys2Proof.Machine.execClockFrequencyChange clu hundredMHz s
  | .safeTierCopyFailure ctx => Sys2Proof.Machine.execSafeTierCopyFailure ctx s
  | .checkpointRestore ctx k => Sys2Proof.Machine.execCheckpointRestore ctx k s
  | .testUnitStillBusy u => Sys2Proof.Machine.execTestUnitStillBusy u s

end Sys2Proof.Machine
end

