-- ==== Sys2Proof/Machine/Sched.lean ====
section
/-! DEFINITION. What may happen next when no event is given: the events of groups, engines and the management core that stand ready, and the
fetch of the next held word of the current group. The manual leaves their order open (R4, R5), so a free value chooses. -/
namespace Sys2Proof.Machine
open Sys2Proof Sys2Proof.Checks

/-! ### Events that may be due -/

/-- A trace of the group runs. -/
def isRunning (q : Group) : Bool := match q.run with | some r => (getP q r.path).state = .running | none => false

/-- The commit of the group's trace is what follows its last instruction. -/
def commitsNext (q : Group) : Bool := isRunning q && match q.run with | some r => r.ended | none => false

/-- The group could take the issue slot of its track: a trace of it runs, or an entry may be chosen (R91). -/
def canIssue (s : State) (g : GKey) : Bool :=
  let q := getG s g
  !s.stuck.contains g && q.res && ((isRunning q && (q.step != .settle || commitsNext q)) || (choosePath q).isSome)

/-- The groups of a track that could issue, in round-robin order of their slots, from the one after the group that issued last (R91). -/
def roundRobin (s : State) (trk : Nat) : List GKey :=
  ((List.range 16).map fun i => trk * 16 + (sget 0 s.rr trk + 1 + i) % 16).filter (canIssue s)

/-- The group whose turn it is on a track: the next in the round-robin, or one that YLD took out of it where no other can issue (R91, R140). (DESIGN CHOICE, log 19.) -/
def turnGroup (s : State) (trk : Nat) : Option GKey :=
  match (roundRobin s trk).find? fun g => !(getG s g).yielded with
  | some g => some g
  | none => (roundRobin s trk).head?

/-- The group whose turn it is on a track becomes the current group; its YLD is over. -/
def giveTurn (s : State) (trk : Nat) : State :=
  match turnGroup s trk with
  | some g => { updG s g (fun q => { q with yielded := false }) with cur := g, stalled := false }
  | none => s

/-- A group has had its turn: it has issued an instruction or stalled, and the turn passes on, but for the commit that follows its trace's last
instruction (R91). -/
def passTurn (g : GKey) (issued : Bool) (s : State) : State :=
  let s := if (getG s g).run.isSome then updG s g fun q => { q with still := s.stalled } else s
  if s.stalled then giveTurn { s with stuck := g :: s.stuck } (g / 16)
  else
    let s : State := if issued then { s with rr := sset 0 s.rr (g / 16) (g % 16) } else s
    if issued && commitsNext (getG s g) then s else giveTurn s (g / 16)

/-- Something else has happened: a fence that waited may be taken, and whatever stalled may try again. -/
def tryAgain (s : State) : State := giveTurn { fenceSweep s with stuck := [] } (s.cur / 16)

/-- Events of one resident group. -/
def groupEvents (s : State) (g : GKey) (q : Group) : List Instr :=
  let turn := turnGroup { s with stuck := [] } (g / 16) = some g
  let paths := (List.range 32).filter fun i => (getP q i).state != .empty
  let st (v : PState) : List Nat := paths.filter fun i => (getP q i).state = v
  let sync (f : Sync → Bool) : List Nat := paths.filter fun i => waitsSync (getP q i) && f (getP q i).sync
  (if turn && isRunning q then [.ldsWake g] else [])
    ++ (if q.frozen && isRunning q then [.stopSkidExpiry q.clu] else [])
    ++ (if (turn && (choosePath q).isSome) || recoveryDue q then [.traceEntry g] else [])
    ++ (st .fetchWait).map (.traceFetchComplete g) ++ (st .budgetWait).map (.registerBudgetGrant g)
    ++ (if (st .budgetWait).isEmpty then [] else [.budgetDeadlockEviction (g / 16)])
    ++ (if q.yielded then [.yldTimeout g] else [])
    ++ ((q.work.pend ++ q.com.pend ++ q.work.ghost ++ q.com.ghost).filter fun e => isLoadPend e.2).map (fun e => .resultArrival g (e.1 / 64) (e.1 % 64))
    ++ (q.sbw.filter fun x => x.1 = 0).map (fun x => .gathElementArrival g x.2.1 x.2.2.1)
    ++ (sync fun y => match y with | .fence .. => true | _ => false).map (.fenceComplete g)

/-- The event that performs effect i. -/
def flightEvent (i : Nat) (f : Flight) : Instr :=
  match f.eff with
  | .stn .. => .stnTermLand i
  | .scat .. => .scatElementPerform i
  | .seal false .. => .sealComplete i
  | .seal true .. => .unsealComplete i
  | _ => .effectPerformed i

def jobEvents (i : Nat) (j : Job) : List Instr :=
  if j.cpbs.isSome then [.cpbsArrival i] else (j.rows.filter fun r => !j.landed.getLsbD r).map (.copyLineLand i)

def floeEvents (k : FKey) (f : Floe) : List Instr :=
  [.floePassGrant k, .floePassComplete k] ++ (List.range f.queue.length).map (.floeTileOpPerform k)
    ++ (f.lins.filter fun e => e.2.v).map (fun e => .churnStart k e.1) ++ [.churnStep k, .statsDrainDone k, .floeQuiescent k]
    ++ (f.stats.filter fun e => decide (2 ^ 31 ≤ e.2)).map (fun e => .statsCountOverflow k (e.1 / 3))

def haltEvents (b : BTag) : List Instr := [.haltSkidExpiry b, .trapRecordWrite b, .haltComplete b, .haltResume b]

def batchEvents (s : State) (b : BTag) (v : Batch) : List Instr :=
  (if v.halt.isSome then haltEvents b else if skidOpen s b then [.haltSkidExpiry b] else []) ++ (if v.gov.isSome then [.governorTick b] else [])
    ++ if v.groups.isEmpty then [.batchEnd b] else []

def queueEvents (q : Nat) (k : Queue) : List Instr := if k.resident && k.waiting then [.waitSatisfied q] else []

/-- The packet whose turn it is in the parse step (R390). -/
def packetEvents (s : State) : List Instr :=
  match parseTurn s with
  | none => []
  | some q =>
    match (headPkt s q).map pktOp with
    | none => []
    | some 1 => [.pktDispatch q]
    | some 2 => [.pktSignal q]
    | some 3 => [.pktWait q]
    | some 4 => [.pktHinval q]
    | some 5 => [.pktLoad q]
    | some 6 => [.pktUnload q]
    | some _ => [.pktNop q]

/-- Group slots of a cluster that take a new group with REGS free. -/
def firstSlots (s : State) (clu regs n : Nat) : List GKey :=
  (((List.range (192 * 128)).map fun i => clu * (192 * 128) + i).filter (slotOpen s clu regs)).take n

/-- A place for the batch that is next to be placed. (DESIGN CHOICE, log 52.) -/
def placementEvents (s : State) : List Instr :=
  match (nextFormed s).bind fun i => s.formed[i]? with
  | none => []
  | some f =>
    match findNode (getC s f.ctx) f.node with
    | none => []
    | some n =>
      let regs := (traceEntOf (leNat (ctxRead s f.ctx (n.ttBase + 32 * n.entry) 32))).regs
      (List.range 8).filterMap fun clu =>
        ((List.range 192).find? fun core => coreFits s clu core (allocBytes n) (settleNeed (nodeRegions n))).map fun core =>
          .batchPlacement clu core (firstSlots s clu regs n.groups)

/-- Places for saved batches and groups. -/
def resumeEvents (s : State) (i : Nat) (x : Saved) : List Instr :=
  match x.batch with
  | none => let b := getB s x.btag; match partSlots s x with | some gs => [.batchResume x.ctx i b.clu b.core gs] | none => []
  | some b =>
    (List.range 8).filterMap fun clu =>
      ((List.range 192).find? fun core => coreFits s clu core (b.sps + b.mbox + b.planes) b.settle).bind fun core =>
        (wholeSlots s x b clu).map fun gs => .batchResume x.ctx i clu core gs

def bankOfKey (k : Nat) : BankId := { stack := k / 1024, chan := k / 32 % 32, bg := k / 8 % 4, bank := k % 8 }

def bankEvents (k : Nat) (v : Bank) : List Instr :=
  let b := bankOfKey k
  (if v.queue.isEmpty then [] else [.bankRequestService b]) ++ (if v.rfm.isEmpty then [] else [.rfmCommandDone b])
    ++ (if v.backoff then [.backoffExpiry b] else []) ++ if v.opened.isSome then [.bankIdleClose b] else []

/-- Commands that the doorbell has rung for, and their end. `sense` needs its readings from outside. -/
def mgmtEvents (s : State) : List Instr :=
  match s.mg.cmd with
  | none => []
  | some c =>
    if s.mg.ran then [.mgmtCommandDone]
    else match c with
      | 0x01 => [.cmdLogrd] | 0x02 => [.cmdCntrd] | 0x03 => [] | 0x04 => [.cmdRecov] | 0x05 => [.cmdRelpark] | 0x06 => [.cmdTsched]
      | 0x07 => [.cmdLnkrsv] | 0x08 => [.cmdCkctl] | 0x09 => [.cmdChal] | 0x0A => [.cmdUnlock] | 0x0B => [.cmdRelock] | 0x0C => [.cmdRtn]
      | 0x0D => [.cmdQuote] | 0x0E => [.cmdKeyload] | 0x0F => [.cmdUpdate]
      | _ => [.mailboxDoorbellUnknown]

/-- A list with the position of each element. -/
def indexed {α : Type} (l : List α) : List (Nat × α) := (List.range l.length).zip l

/-- Every event of the device's own that may be due. (DESIGN CHOICE, log 19.) -/
def dueEvents (s : State) : List Instr :=
  ((s.groups.filter fun e => e.2.res).map fun e => groupEvents s e.1 e.2).flatten
    ++ (indexed s.flight).map (fun e => flightEvent e.1 e.2)
    ++ (List.range s.walks.length).map .pageWalkComplete
    ++ ((indexed s.jobs).map fun e => jobEvents e.1 e.2).flatten
    ++ (List.range s.pubWaits.length).map .pubComplete
    ++ (s.teams.filter fun e => e.2.v && e.2.narr != 0).map (fun e => .stepComplete e.1)
    ++ (s.floes.map fun e => floeEvents e.1 e.2).flatten
    ++ ((s.batches.filter fun e => e.2.res).map fun e => batchEvents s e.1 e.2).flatten
    ++ (if s.faults.any fun f => f.idx.isNone && !f.mgmt then [.faultRecordWrite] else [])
    ++ (if tlbBusy s then [.tlbInvalidateDone] else [])
    ++ (if s.regs.qtn = 0 then [] else [.queueQuantumExpiry])
    ++ (s.queues.map fun e => queueEvents e.1 e.2).flatten ++ packetEvents s
    ++ (s.dispatches.map fun d => [Instr.dispatchRecordEntry d.id, .dispatchComplete d.id]).flatten
    ++ (List.range s.sigs.length).map .signalDecrement
    ++ (s.ctxs.map fun c => (c.2.bins.map fun b => Instr.binTimerExpiry c.1 b.1) ++ if c.2.unbinding then [.ctxUnbind c.1] else []).flatten
    ++ placementEvents s ++ preemptionEvents s
    ++ ((indexed s.saved).map fun e => resumeEvents s e.1 e.2).flatten
    ++ (if s.groups.any fun e => e.2.res && e.2.evict then [.eviction ((s.groups.filter fun e => e.2.res && e.2.evict).map Prod.fst)] else [])
    ++ (List.range s.emits.length).map .emitRecordEntry
    ++ (List.range s.fwks.length).map .fwkResponse
    ++ (List.range s.tickets.length).map .rtktGrant
    ++ (s.ckpts.map fun e => e.2.held.map (.checkpointPageCopied e.1) ++ if e.2.cutting then [.checkpointTimerExpiry e.1] else []).flatten
    ++ (s.debugs.map fun e => if e.2.stopping then [Instr.stopSkidExpiry e.1, .clusterStopped e.1] else []).flatten
    ++ (s.banks.map fun e => bankEvents e.1 e.2).flatten
    ++ mgmtEvents s

/-- The event that happens next, by a free choice among those due, and the state that has made it. (DESIGN CHOICE, log 19.) -/
def nextEvent (s : State) : Option (Instr × State) :=
  match dueEvents s with
  | [] => none
  | e :: r =>
    let v := fresh s
    some ((e :: r).getD (v.1.toNat % (r.length + 1)) e, { v.2 with stalled := false })

/-! ### The fetch of a word (R80, R128) -/

/-- What the current group does next. -/
inductive Fetched where
  | idle
  | commit
  | word (i : Instr)
  | bad (c : Cause) (off : Nat) (w : IWord)
  deriving DecidableEq, Repr

/-- The next word of the current group's running trace, which its core holds, decoded for the core's profile. -/
def fetch (s : State) : Fetched :=
  let q := getG s s.cur
  match q.run with
  | none => .idle
  | some r =>
    if (getP q r.path).state != .running || (q.step = .settle && !r.ended) then .idle
    else if r.ended then .commit
    else
      let w := r.words.getD r.off 0
      match Decode.decode q.prof w with
      | .ok i => .word i
      | .error c => .bad c r.off w

/-- A word of the running trace that fails R125 traps the path (R126). Entry has tested every word, so no run meets one. -/
def badWordTrap (s : State) (c : Cause) (off : Nat) (w : IWord) : State := pathTrap s s.cur { code := 1, cause := c.code, off := off, word := w }

/-- A row of the table that is an event, not a word. -/
def isEvent (i : Instr) : Bool := (wordOf i).isNone

/-! ### A group that holds one word (withFetchWord) -/

/-- The key of the management core's group, and its context and batch, which no tenant can bear (R491). (DESIGN CHOICE, log 11.) -/
def mgmtKey : GKey := 196608
def mgmtTag : Nat := 65536

/-- A group of 32 lanes whose running trace holds one word, at a trace index of 0, with the words given: lanes all in EXM. (DESIGN CHOICE, log 11.) -/
def wordGroup (p : Profile) (ws : List IWord) : Group :=
  let m : Mask := 0xFFFFFFFF#32
  let mg := p == .mgmt
  { res := true
    ctx := if mg then mgmtTag else 0
    btag := if mg then mgmtTag else 0
    clu := if mg then 8 else 0
    prof := p
    live := m
    paths := [(0, { state := .running, mask := m })]
    com := { uni := BitVec.allOnes 64 }
    work := { uni := BitVec.allOnes 64 }
    run := some { path := 0, tix := 0, entry := m, exm := m, words := ws, sk := 5, regs := 0 } }

/-- The state with a word held by the core of its profile, as the current group's next. (DESIGN CHOICE, log 11.) -/
def holdWord (s : State) (v : IWord) : State :=
  let p := Decode.profileOf v
  let g : GKey := if p == .mgmt then mgmtKey else 0
  { setG s g (wordGroup p [v]) with cur := g, agenda := [], stalled := false }

end Sys2Proof.Machine
end

