-- ==== Sys2Proof/Machine/Step.lean ====
section
/-! DEFINITION. One step of the machine: an event that is given, the next word of the current group, or an event of the device's own. -/
namespace Sys2Proof.Machine
open Sys2Proof Sys2Proof.Checks

/-- What follows a next state. -/
def onNext (f : State → State) : Host.Outcome State Fault Refusal → Host.Outcome State Fault Refusal
  | .next s => .next (f s)
  | o => o

/-- An event of the device's own takes place, or none is due and the machine idles. (DESIGN CHOICE, log 19.) -/
def engineStep (s : State) : Host.Outcome State Fault Refusal :=
  match nextEvent s with
  | some (e, s') => onNext tryAgain (exec e s')
  | none => .next (tryAgain { s with stalled := false })

/-- One step. The agenda holds events that come from outside, or whose order is given; a word there is passed over. Else the current group issues
its next word or commits its trace, and the turn passes on; where no group of its track can issue, an event of the device's own takes
place. -/
def step (s : State) : Host.Outcome State Fault Refusal :=
  match s.agenda with
  | i :: r => if isEvent i then onNext tryAgain (exec i { s with agenda := r }) else .next { s with agenda := r }
  | [] =>
    if s.stalled then engineStep s
    else
      match fetch s with
      | .word i => onNext (passTurn s.cur true) (exec i s)
      | .commit => onNext (passTurn s.cur false) (exec (.traceCommit s.cur) s)
      | .bad c off w => .next (badWordTrap s c off w)
      | .idle => engineStep s

/-- The state with the instruction of `nbits` bits `w` held as the current group's next word. (DESIGN CHOICE, log 11.) -/
def State.withFetchWord (s : State) (nbits w : Nat) : State := holdWord s (BitVec.ofNat 128 (w % 2 ^ nbits))

end Sys2Proof.Machine
end

