-- ==== Sys2Proof/Safety.lean ====
section
/-! DEFINITION. What statements about steps and runs are made of: the canonical form of the memories, when an instruction
issues with nothing to hold it back, all that an issue does, and runs. -/
namespace Sys2Proof.Machine
open Sys2Proof Sys2Proof.Checks

/-! ### Runs -/

/-- Every memory of the device is in its canonical form: addresses strictly rise and no listed byte is 0. -/
structure MemOk (s : State) : Prop where
  dmem : memWf s.dmem = true
  hmem : memWf s.hmem = true
  sram : memWf s.sram = true
  spad : memWf s.spad = true

/-- A predicate that no step leaves, from whatever state it holds in. -/
def Kept (p : State → Prop) : Prop := ∀ s t, p s → step s = .next t → p t

/-- The states that steps reach from a state. -/
inductive Reaches : State → State → Prop where
  | here (s : State) : Reaches s s
  | more (s t u : State) : Reaches s t → step t = .next u → Reaches s u

/-- A predicate that every step keeps holds of everything that a run reaches. -/
theorem Kept.reaches {p : State → Prop} (k : Kept p) {s t : State} (r : Reaches s t) (h : p s) : p t := by
  induction r with
  | here => exact h
  | more t u _ e ih => exact k t u ih e

/-! ### When an instruction issues -/

/-- The current group. -/
def curG (s : State) : Group := getG s s.cur

/-- The lanes for which the current group's next instruction acts (R108). -/
def acts (s : State) (h : Hd) (r : Run) : Mask := actingLanes (curG s) r h

/-- What the lanes of that instruction read. `s1` is the state after the pops of a q operand, `m` the popped addresses. -/
def cx (s s1 : State) (h : Hd) (r : Run) (m : SMap Word) : Ctx1 := { ctxOf s h r with s := s1, pops := m }

/-- A q operand of the word pops one record for each acting lane, and every lane passes its checks; a word without one pops
nothing (R414, R415). No acquire of the lanes is on its way (R418). -/
def Feeds (s s1 : State) (h : Hd) (r : Run) (m : SMap Word) (ps : List Pop) : Prop :=
  match qOpnd h with
  | none => m = [] ∧ ps = [] ∧ s1 = s
  | some n => acqOwed s s.cur (acts s h r) = false ∧ (∀ l ∈ lanesOf (acts s h r), qCheck s (getB s (curG s).btag) (curG s) l n = none)
      ∧ popLanes s s.cur n (lanesOf (acts s h r)) = some (m, ps, s1)

/-- The current group runs a trace, and nothing holds its next instruction back: no result that a marker waits for, no pending
register among those that its sources `sh` name (`own` where SA is read in the reader's own lane), and its claim of
uniform sources, if it makes one, is true (R91, R98 to R101). The registers that it names exist (R110), and no lane's buffer holds more
than its 16 entries (R89). -/
structure Issues (s s1 : State) (h : Hd) (sh : Shape) (r : Run) (m : SMap Word) (ps : List Pop) (own : Bool := true) : Prop where
  run : (curG s).run = some r
  going : r.ended = false
  running : (getP (curG s) r.path).state = .running
  plain : (curG s).step ≠ .inst ∧ (curG s).step ≠ .settle
  marker : h.s = true → ∀ e ∈ (curG s).work.pend ++ (curG s).com.pend ++ (curG s).work.ghost ++ (curG s).com.ghost, (curG s).live.getLsbD (e.1 / 64) = true → markerWaits r e.2 = false
  settled : anyPend (curG s).work (if h.u then r.exm else acts s h r) (srcRegs h (if own then sh else { sh with na := 0 }))
    (fun p => isScored p || isLoadPend p || isHeldPend p) = false
  uniform : h.u = true → uniformBreak (curG s) r h sh = false
  feeds : Feeds s s1 h r m ps
  names : ∀ k ∈ srcRegs h sh, k < 64
  buffers : ∀ l, l < 32 → bufCount r l ≤ 16

/-- Every acting lane has room in its effect buffer for what it does (R89). -/
def Room (s : State) (h : Hd) (r : Run) (out : Nat → LaneOut) (once : Bool) : Prop :=
  ∀ l, l < 32 → (acts s h r).getLsbD l = true →
    bufCount r l + ((out l).effs.filter fun b => takesEntry b.eff).length + (if once && (out l).leave.isNone then 1 else 0) ≤ 16

/-- No acting lane traps. -/
def NoTraps (s : State) (h : Hd) (r : Run) (out : Nat → LaneOut) : Prop :=
  ∀ l, l < 32 → (acts s h r).getLsbD l = true → ∀ t, (out l).leave ≠ some (.trap t)

/-! ### All that an issue does -/

/-- The last value written under a key. -/
def lastOf {α : Type} (ws : List (Nat × α)) (k : Nat) (old : α) : α := ws.foldl (fun v e => if e.1 = k then e.2 else v) old

/-- The registers that a lane's outcome writes or makes pending. -/
def LaneOut.regs (o : LaneOut) : List Nat := o.wx.map Prod.fst ++ o.pend.map Prod.fst

/-- The registers that the word's L bits name (R97). -/
def lRegs (h : Hd) (sh : Shape) : List Nat :=
  (if h.la then opndRegs h.sa sh.na else []) ++ (if h.lb then opndRegs h.sb sh.nb else []) ++ if h.lc then opndRegs h.sc sh.nc else []

/-- What the acting lanes `out` do to the group's working registers: each acting lane's own, no other lane's, and no other register. What is on its way to a register
that is written stays on its way (R101). -/
structure DidRegs (q q' : Group) (act : Mask) (full : Bool) (out : Nat → LaneOut) : Prop where
  x : ∀ l k, l < 32 → k < 64 → rdX q'.work l k = if act.getLsbD l then lastOf (out l).wx k (rdX q.work l k) else rdX q.work l k
  p : ∀ l k, l < 32 → k < 7 → rdP q'.work l k = if act.getLsbD l then lastOf (out l).wp k (rdP q.work l k) else rdP q.work l k
  pend : ∀ l k, l < 32 → k < 64 → rdPend q'.work l k =
    if act.getLsbD l then lastOf (out l).pend k (if k ∈ (out l).wx.map Prod.fst then 0 else rdPend q.work l k) else rdPend q.work l k
  uni : ∀ k, k < 64 → q'.work.uni.getLsbD k =
    if (lanesOf act).any (fun l => (out l).regs.contains k) then full else q.work.uni.getLsbD k
  ghost : ∀ l k n, l < 32 → k < 64 →
    ((64 * l + k, n) ∈ q.work.ghost → (64 * l + k, n) ∈ q'.work.ghost)
    ∧ ((64 * l + k, n) ∈ q'.work.ghost → (64 * l + k, n) ∈ q.work.ghost ∨ (act.getLsbD l = true ∧ k ∈ (out l).regs))
  clk : q'.work.clk = q.work.clk
  qb : q'.work.qb = q.work.qb
  com : q'.com = q.com

/-- What they do to the running trace: their effects join the buffers in lane order, lanes that leave are out of the mask, and the word is
behind it. `once` is an effect that acts once for the path, `sync` the synchronising effect, `ps` the records popped. -/
structure DidRun (r r' : Run) (h : Hd) (sh : Shape) (act : Mask) (out : Nat → LaneOut) (once : List Buffered) (sync : Option SyncReq)
    (ps : List Pop) : Prop where
  off : r'.off = r.off + 1
  nx : r'.nx = if h.nx = .seq then r.nx else h.nx
  ended : r'.ended = (h.nx != .seq || r'.exm = 0 || decide (r.words.length ≤ r.off + 1))
  bufs : r'.bufs = r.bufs ++ ((lanesOf act).map fun l => (out l).effs).flatten ++ once
  sync : r'.sync = sync
  exm : ∀ l, l < 32 → r'.exm.getLsbD l = (r.exm.getLsbD l && !(act.getLsbD l && (out l).leave.isSome))
  leaves : ∀ l, l < 32 → sget none r'.leaves l = if act.getLsbD l && (out l).leave.isSome then (out l).leave else sget none r.leaves l
  pops : r'.pops = r.pops ++ ps
  dyingX : ∀ l k, l < 32 → k < 64 → sget false r'.dyingX (64 * l + k) =
    if act.getLsbD l && (out l).regs.contains k then false
    else r.exm.getLsbD l && (lRegs h sh).contains k || sget false r.dyingX (64 * l + k)
  rest : r' = { r with off := r'.off, nx := r'.nx, ended := r'.ended, bufs := r'.bufs, sync := r'.sync, exm := r'.exm, leaves := r'.leaves
                       pops := r'.pops, dyingX := r'.dyingX, dyingP := r'.dyingP, written := r'.written, wrote := r'.wrote
                       vread := r'.vread, smp := r'.smp }

/-- All that an issue does to the current group: nothing of it changes but what `DidRegs` and `DidRun` say, the elements that
are to arrive later, and the counters of R157. -/
structure Did (s t : State) (h : Hd) (sh : Shape) (r : Run) (out : Nat → LaneOut) (once : List Buffered := []) (sync : Option SyncReq := r.sync)
    (ps : List Pop := []) : Prop where
  regs : DidRegs (curG s) (curG t) (acts s h r) (h.u && r.exm = (curG s).live && acts s h r = r.exm) out
  run : ∃ r', (curG t).run = some r' ∧ DidRun r r' h sh (acts s h r) out once sync ps
  sbw : (curG t).sbw = (curG s).sbw ++ ((lanesOf (acts s h r)).map fun l => (out l).sbw).flatten
  perf : ∀ k, sget 0 (curG t).perf k = sget 0 (curG s).perf k +
    if k = 4 then BitVec.ofNat 32 (issueCycles (curG s) r h sh) else if k = 5 then 1
    else if k = 3 then BitVec.ofNat 32 ((lanesOf (acts s h r)).filter fun l => (out l).gone).length
    else 0
  rest : curG t = { curG s with work := (curG t).work, run := (curG t).run, sbw := (curG t).sbw, perf := (curG t).perf, parked := false
                                walkFault := [], late := (curG t).late }
  cur : t.cur = s.cur

/-- Outside the current group nothing changes but the clocks' count: no other group, no memory, no register of the device. -/
def Quiet (s t : State) : Prop :=
  t = { s with groups := t.groups, clock := t.clock, free := t.free, stalled := false } ∧ ∀ g, g ≠ s.cur → getG t g = getG s g

/-- The same, but for what the profile, the caches and the banks note of an access to memory (R428, R468), and what a load lets its lanes see of writes that
others have performed (R54). -/
def Metered (s t : State) : Prop :=
  t = { s with groups := t.groups, clock := t.clock, free := t.free, stalled := false, samples := t.samples, memCount := t.memCount
               banks := t.banks, cached := t.cached, stale := t.stale }
  ∧ ∀ g, g ≠ s.cur → getG t g = getG s g

/-- No memory changes. -/
def SameMem (s t : State) : Prop := t.dmem = s.dmem ∧ t.hmem = s.hmem ∧ t.sram = s.sram ∧ t.spad = s.spad

/-- THE INSTRUCTION COMPLETES: wherever it issues with nothing to hold it back, `exec` answers a next state, in which each acting lane has done
`out` and nothing else has changed. -/
def Does (i : Instr) (h : Hd) (sh : Shape) (s s1 : State) (r : Run) (m : SMap Word) (ps : List Pop) (out : Nat → LaneOut) (own : Bool := true) : Prop :=
  Issues s s1 h sh r m ps own → ∃ t, exec i s = .next t ∧ Did s t h sh r out [] r.sync ps ∧ Quiet s1 t

/-- The lanes that act and stay. -/
def stayMask (s : State) (h : Hd) (r : Run) (out : Nat → LaneOut) : Mask := maskOf fun l => (acts s h r).getLsbD l && (out l).leave.isNone

/-- The effect that acts once for the path (R89). -/
def onePath (s : State) (h : Hd) (r : Run) (out : Nat → LaneOut) (e : Eff) : List Buffered :=
  if stayMask s h r out = 0 then [] else [{ lanes := stayMask s h r out, eff := e, off := r.off }]

/-- How a lane leaves with a precise trap of the instruction (R236). -/
def trapped (r : Run) (code : Nat) (cause : Nat := 0) (addr : Nat := 0) : LaneOut :=
  { leave := some (.trap { code := code, cause := cause, addr := addr, off := r.off, word := r.words.getD r.off 0 }) }

/-- A reason to leave, a trap completed with its place. -/
def placed (r : Run) (v : Leave) : Leave :=
  match v with
  | .trap t => .trap { t with off := r.off, word := r.words.getD r.off 0 }
  | v => v

/-- THE INSTRUCTION COMPLETES, its lanes buffering effects or leaving (`whole` if it has one effect for the path, R89), asking for a
synchronising effect, or reading SA in other lanes only (`own` false): where each lane has room for what it does and no watchpoint is set for the
group, `exec` answers a next state in which each acting lane has done `out`. No memory changes, and without traps nothing else does. -/
def Acts (i : Instr) (h : Hd) (sh : Shape) (s s1 : State) (r : Run) (m : SMap Word) (ps : List Pop) (out : Nat → LaneOut) (whole : Bool := false)
    (once : List Buffered := []) (sync : Option SyncReq := r.sync) (own : Bool := true) : Prop :=
  Issues s s1 h sh r m ps own → debugged s1 (curG s) = false → Room s h r out whole →
    ∃ t, exec i s = .next t ∧ Did s t h sh r out once sync ps ∧ SameMem s1 t ∧ (NoTraps s h r out → Metered s1 t)

/-- THE PATH TRAPS: the trace ends with a trap of that code in every lane of EXM, and no register changes (R87, R98, R101). -/
def PathTraps (i : Instr) (s : State) (r : Run) (code : Nat) : Prop :=
  ∃ t, exec i s = .next t ∧ SameMem s t ∧ ∃ r', curG t = { curG s with run := some r' }
    ∧ r' = { r with exm := 0, ended := true, leaves := r'.leaves }
    ∧ ∀ l, l < 32 → sget none r'.leaves l =
        if r.exm.getLsbD l then some (.trap { code := code, off := r.off, word := r.words.getD r.off 0 }) else sget none r.leaves l

end Sys2Proof.Machine
end

