-- ==== Sys2Proof/Certificates/Slice0/Obligations.lean ====
section
/-! DEFINITION. The statements for the provers. -/
namespace Sys2Proof.Machine
open Sys2Proof Sys2Proof.Checks

/-- A value clamped to the limits of its type (R142). -/
def sat32 (t : Ty) (v : Int) : Word :=
  BitVec.ofInt 32 (if t = .s32 then max (-2147483648) (min 2147483647 v) else max 0 (min 4294967295 v))

/-- The number that a source holds, 64 bits wide under a 64-bit type (R146). -/
def numOf (t : Ty) (v : Word) (v64 : DWord) : Int :=
  match t with
  | .s64 => v64.toInt
  | .n64 => v64.toNat
  | .s32 => v.toInt
  | _ => v.toNat

/-- A condition code of R112 on numbers. -/
def holdsCond (n : Nat) (x y : Int) : Bool :=
  match n with
  | 0 => decide (x = y)
  | 1 => decide (x ≠ y)
  | 2 => decide (x < y)
  | 3 => decide (x ≤ y)
  | 4 => decide (x > y)
  | _ => decide (x ≥ y)


/-- The number that a finite value is (R159). -/
def ratOf : FVal → ℚ
  | .fin s n e => (if s then -1 else 1) * n * (2 : ℚ) ^ e
  | _ => 0

/-- The number of a code of a format. -/
def codeRat (f : Fmt) (c : Nat) : ℚ := ratOf (fDecode f c)

/-- A code is neither NaN nor infinite. -/
def isFin (f : Fmt) (c : Nat) : Bool := !isNaNv (fDecode f c) && !isInfv (fDecode f c)

/-- Code `c` is what a nonzero number rounds to in a format under a mode (R168), with the results beyond the largest finite value (R169,
R170). `d` ranges over the codes of the format. -/
def Rounded (f : Fmt) (mode : Rnd) (x : ℚ) (c : Nat) : Prop :=
  let big := codeRat f (fmtMax f)
  let half := (big - codeRat f (fmtMax f - 1)) / 2
  c < 2 ^ fmtBits f ∧ c.testBit (fmtBits f - 1) = decide (x < 0) ∧
  if big < |x| then
    c = fmtNeg f (decide (x < 0)) (
      if f.e4m3 then fmtMax f
      else match mode with
        | .rz => fmtMax f
        | .rp => if x < 0 then fmtMax f else fmtTop f
        | .rm => if x < 0 then fmtTop f else fmtMax f
        | _ => if big + half ≤ |x| then fmtTop f else fmtMax f)
  else
    isFin f c = true ∧ ∀ d, d < 2 ^ fmtBits f → isFin f d = true →
      match mode with
      | .rz => |codeRat f c| ≤ |x| ∧ (|codeRat f d| ≤ |x| → |codeRat f d| ≤ |codeRat f c|)
      | .rp => x ≤ codeRat f c ∧ (x ≤ codeRat f d → codeRat f c ≤ codeRat f d)
      | .rm => codeRat f c ≤ x ∧ (codeRat f d ≤ x → codeRat f d ≤ codeRat f c)
      | _ => |x - codeRat f c| ≤ |x - codeRat f d| ∧ (|x - codeRat f c| = |x - codeRat f d| → codeRat f d = codeRat f c ∨ c % 2 = 0)

/-- The integer that a mode chooses for a number (R168). -/
def Chosen (mode : Rnd) (x : ℚ) (y : ℤ) : Prop :=
  match mode with
  | .rz => |(y : ℚ)| ≤ |x| ∧ |x| < |(y : ℚ)| + 1 ∧ 0 ≤ x * y
  | .rp => x ≤ y ∧ (y : ℚ) < x + 1
  | .rm => (y : ℚ) ≤ x ∧ x < y + 1
  | _ => |x - y| ≤ 1 / 2 ∧ (|x - y| = 1 / 2 → y % 2 = 0)

/-- Code `c` is the rounded sum of two values (R184). -/
def SumIs (f : Fmt) (mode : Rnd) (x y : FVal) (c : Nat) : Prop :=
  match x, y with
  | .nan, _ => c = fmtNaN f
  | _, .nan => c = fmtNaN f
  | .inf s, .inf t => c = if s = t then fmtNeg f s (fmtTop f) else fmtNaN f
  | .inf s, _ => c = fmtNeg f s (fmtTop f)
  | _, .inf t => c = fmtNeg f t (fmtTop f)
  | .fin s _ _, .fin t _ _ =>
    if ratOf x + ratOf y = 0 then c = fmtNeg f (if s = t then s else decide (mode = .rm)) 0 else Rounded f mode (ratOf x + ratOf y) c

/-- Value `z` is the exact product of two values (R184). -/
def ProductIs (x y z : FVal) : Prop :=
  match x, y with
  | .nan, _ => z = .nan
  | _, .nan => z = .nan
  | .inf s, .inf t => z = .inf (xor s t)
  | .inf s, .fin t _ _ => z = if ratOf y = 0 then .nan else .inf (xor s t)
  | .fin s _ _, .inf t => z = if ratOf x = 0 then .nan else .inf (xor s t)
  | .fin s _ _, .fin t _ _ => ∃ n e, z = .fin (xor s t) n e ∧ ratOf z = ratOf x * ratOf y

/-- The order of FP32 codes that are not NaN, with −0 below +0. -/
def f32Key (a : Word) : Int := if a.msb then -((a.toNat % 2 ^ 31 : Nat) : Int) - 1 else a.toNat

/-- The order of their numbers, ±0 equal. -/
def f32Num (a : Word) : Int := if a.msb then -((a.toNat % 2 ^ 31 : Nat) : Int) else a.toNat

def f32NaN (a : Word) : Bool := decide (0x7F800000 < a.toNat % 2 ^ 31)

/-- The value of a four-bit code before scaling (R166). -/
def q4Rat (kind c : Nat) : ℚ :=
  if kind = 0 then (if 8 ≤ c then (c : ℚ) - 16 else c)
  else (if 8 ≤ c then -1 else 1) * ((match kind with
    | 1 => [0, 1, 2, 3, 4, 6, 8, 12]
    | 2 => [0, 2, 4, 8, 16, 32, 64, 128]
    | _ => [0, 1, 2, 3, 4, 8, 16, 32]) : List ℚ).getD (c % 8) 0 / 2

/-- The code of the largest magnitude of a sign. -/
def q4Top (kind : Nat) (neg : Bool) : Nat := if neg then (if kind = 0 then 8 else 15) else 7

/-- Code `c` is what a number rounds to under a KIND and a mode (R167). -/
def Q4Is (kind : Nat) (mode : Rnd) (x : ℚ) (c : Nat) : Prop :=
  if q4Rat kind (q4Top kind false) < x then c = q4Top kind false
  else if x < q4Rat kind (q4Top kind true) then c = q4Top kind true
  else c < 16 ∧ (kind = 0 ∨ c ≠ 8) ∧ ∀ d, d < 16 →
    match mode with
    | .rz => |q4Rat kind c| ≤ |x| ∧ 0 ≤ x * q4Rat kind c ∧ (|q4Rat kind d| ≤ |x| → 0 ≤ x * q4Rat kind d → |q4Rat kind d| ≤ |q4Rat kind c|)
    | .rp => x ≤ q4Rat kind c ∧ (x ≤ q4Rat kind d → q4Rat kind c ≤ q4Rat kind d)
    | .rm => q4Rat kind c ≤ x ∧ (q4Rat kind d ≤ x → q4Rat kind d ≤ q4Rat kind c)
    | _ => |x - q4Rat kind c| ≤ |x - q4Rat kind d| ∧ (|x - q4Rat kind c| = |x - q4Rat kind d| → q4Rat kind d = q4Rat kind c ∨ c % 2 = 0)

/-- A lane of the mask for which the instruction acts. -/
def Acting (s : State) (h : Hd) (r : Run) (l : Nat) : Prop := l < 32 ∧ (acts s h r).getLsbD l = true

/-- What a lane does once its global access has passed its checks, or how it leaves (R203 to R205). -/
def globally (c : Ctx1) (va n : Nat) (kind : AccKind) (f : Space → Nat → LaneOut) : LaneOut :=
  match globalAcc c va n kind with
  | .ok sp pa => f sp pa
  | .leave v => { leave := some (placed c.r v) }
  | .wait => {}

/-- What a lane does once its scratchpad access has passed its checks, or how it leaves (R253). -/
def locally (c : Ctx1) (a n al : Nat) (use : SpadUse) (f : LaneOut) : LaneOut :=
  match spadCheck c a n al use with
  | some v => { leave := some (placed c.r v) }
  | none => f

/-- A byte of memory as a lane sees it: the oldest value that its view holds, else the byte that stands there (R54, R56). -/
def seen (c : Ctx1) (l : Nat) (sp : Space) (pa : Nat) : Byte :=
  match c.s.stale.find? fun e => e.g = c.g && e.lanes.getLsbD l && e.sp = sp && decide (e.pa ≤ pa) && decide (pa < e.pa + e.old.length) with
  | some e => e.old.getD (pa - e.pa) 0
  | none => memGet (match sp with | .dev => c.s.dmem | .host => c.s.hmem | .spad => c.s.spad | .sram => c.s.sram) pa

/-- The byte that a lane's load binds: of its youngest buffered store to that byte, else of memory as the lane sees it (R54, R90, R208). -/
def loadByte (c : Ctx1) (l : Nat) (sp : Space) (pa : Nat) : Byte :=
  ((c.r.bufs.filterMap fun b => match b.eff with
    | .store sp' _ p v => if b.lanes.getLsbD l ∧ sp' = sp ∧ p ≤ pa ∧ pa < p + v.length then v[pa - p]? else none
    | _ => none).getLast?).getD (seen c l sp pa)

/-- No effect of lane `l` on those bytes of a numbered space is on its way (R56). -/
def Settled (c : Ctx1) (l sp a n : Nat) : Prop :=
  ∀ f ∈ c.s.flight, f.g = c.g → f.lanes.getLsbD l = true → ∀ p m, (sp, p, m) ∈ effPlaces f.eff → p + m ≤ a ∨ a + n ≤ p

/-- The registers that the elements of an access load, each element of `k` bytes, low byte first (R204). -/
def loadRegs (d k cnt : Nat) (byte : Nat → Byte) : List (Nat × Word) :=
  ((List.range cnt).map fun e =>
    let v := leNat ((List.range k).map fun i => byte (e * k + i))
    if k = 8 then [(d + 2 * e, BitVec.ofNat 32 v), (d + 2 * e + 1, BitVec.ofNat 32 (v / 2 ^ 32))] else [(d + e, BitVec.ofNat 32 v)]).flatten

/-- The bytes that a store takes from its registers, the low bytes of each (R204). -/
def storedBytes (c : Ctx1) (l d k cnt : Nat) : List Byte :=
  ((List.range cnt).map fun e => (List.range k).map fun i =>
    ((if k = 8 then rdPair c.q.work l (d + 2 * e) else (rdX c.q.work l (d + e)).setWidth 64).extractLsb' (8 * i) 8)).flatten

/-- The registers read the same in every acting lane (R98). -/
def Agree (s : State) (h : Hd) (r : Run) (ks : List Nat) : Prop :=
  ∀ k ∈ ks, ∀ l j, Acting s h r l → Acting s h r j → rdX (curG s).work l k = rdX (curG s).work j k

/-- The lowest lane that acts. -/
def firstActing (s : State) (h : Hd) (r : Run) : Nat := ((List.range 32).find? fun l => (acts s h r).getLsbD l).getD 0

/-- The tag of the instruction at the running trace's offset. -/
def tagHere (r : Run) : Nat := 256 * r.tno + r.off

/-- A return held to commit in a register (R90). -/
def holds (r : Run) (o : Opnd) : LaneOut := { pend := (opndRegs o 1).map fun k => (k, 4 * tagHere r + 2) }

/-- Bits hi:lo of a number. -/
def field (v hi lo : Nat) : Nat := v / 2 ^ lo % 2 ^ (hi + 1 - lo)

/-- A counted barrier of a copy: the object exists, is the batch's, is aligned and is valid (R303, R253 orders 1 to 3 and 8). -/
def counting (c : Ctx1) (bar : Option Nat) (o : LaneOut) : LaneOut :=
  match bar with
  | none => o
  | some a =>
    let obj := leNat (memRead c.s.spad (spadKey c.q.clu a) 16)
    locally c a 16 16 .read
      (if field obj 81 81 = 0 ∨ field obj 80 48 ≠ 0 ∨ 1024 < field obj 111 101 then trapped c.r 0x0D 2 a else o)

/-- The first handle of a list that is not bound for the instruction (R345). -/
def unbound (c : Ctx1) (hs : List Opnd) : Option Nat :=
  hs.findSome? fun o => match o with | .a n => if handleTile c n.val = none then some n.val else none | _ => none

/-- The cause of Lineage-Overflow for the entry that an instruction would make, in the lineages as it leaves them (R381). -/
def overflows {α : Type} (x : Option Nat × α × Floe) (extra : Bool) : Option Nat :=
  match x.1 with
  | none => none
  | some i =>
    let e := sget noLin x.2.2.lins i
    if 8 < (sget noLin x.2.2.lins e.root).nder then some 0 else if 4 ≤ e.lvl then some 1 else if extra then some 2 else none

/-- The memory of a space. -/
def memOf (s : State) : Space → Memory
  | .dev => s.dmem
  | .host => s.hmem
  | .spad => s.spad
  | .sram => s.sram

/-- Only the bytes `v` at `a` of a space change among the memories. -/
def Stored (s t : State) (sp : Space) (a : Nat) (v : List Byte) : Prop :=
  (∀ k, memGet (memOf t sp) k = if a ≤ k ∧ k < a + v.length then v.getD (k - a) 0 else memGet (memOf s sp) k)
  ∧ ∀ sp', sp' ≠ sp → memOf t sp' = memOf s sp'

/-- No lanes of the group wait for a synchronising effect. -/
def NoWaits (s : State) (g : GKey) : Prop := ∀ i, i < 32 → waitsSync (getP (getG s g) i) = false


/-- A record of the trace stream that fits before the ring's end: its prefix and body stand at TSWR, and TSWR has moved on; with no room it is
dropped and its SEQ is missed (R464, R465). -/
def Streamed (s t : State) (clu type : Nat) (body : List Byte) : Prop :=
  let len := s.regs.tslen.toNat
  let wr := s.regs.tswr.toNat
  let n := 16 + body.length
  let a := s.regs.tsbase.toNat + wr % len
  let r := leNat (memRead t.hmem a 16)
  t.tsSeq = (s.tsSeq + 1) % 2 ^ 32 ∧ t.regs.tswr = s.regs.tswr + BitVec.ofNat 64 n
    ∧ field r 7 0 = type % 256 ∧ field r 15 8 = (1 + body.length / 16) % 256 ∧ field r 18 16 = clu % 8 ∧ field r 55 24 = s.tsSeq % 2 ^ 32 ∧ field r 127 64 = t.time.toNat
    ∧ memRead t.hmem (a + 16) body.length = body ∧ ∀ k, k < a ∨ a + n ≤ k → memGet t.hmem k = memGet s.hmem k

/-- The ring takes a record of n bytes with no pad. -/
def StreamRoom (s : State) (n : Nat) : Prop :=
  0 < s.regs.tslen.toNat ∧ n ≤ s.regs.tslen.toNat - s.regs.tswr.toNat % s.regs.tslen.toNat ∧ s.regs.tswr.toNat + n ≤ s.regs.tslen.toNat + s.regs.tsrd.toNat

end Sys2Proof.Machine

open Sys2Proof Sys2Proof.Machine Sys2Proof.Checks

/-! ### Integer and logic instructions -/

/-- R142: the results of integer arithmetic. Sources are read under `.s32` as signed and under `.n32` as unsigned numbers; a result
wraps, or is clamped under `.sat`; ADDC and SUBB leave the carry and the borrow in SC; a pair takes 64 bits; DIV and
REM have their corners, and their results are deferred. Every other register, and everything outside the group, is unchanged. -/
def Obligations.IntegerArithmetic : Prop :=
  ∀ (w : IW ModA) (s s1 : State) (r : Run) (m : SMap Word) (ps : List Pop),
    let c := cx s s1 (hd w) r m
    let d := opndReg w.dst
    let a := fun l => src c l w.sa
    let b := fun l => src c l w.sb
    let C := fun l => src c l w.sc
    let cin := fun l => (srcP c l w.sc).toNat
    let I := fun v => intVal w.mod.tya v
    let wide := fun v : Word => if w.mod.tya = .s32 then v.signExtend 64 else v.setWidth 64
    let does := fun (i : Instr) (sh : Shape) (out : Nat → LaneOut) => Does i (hd w) sh s s1 r m ps out
    (w.mod.opx ≠ 1 →
      does (.add w) { nb := 1 } (fun l => dstX w.dst (a l + b l)) ∧ does (.sub w) { nb := 1 } (fun l => dstX w.dst (a l - b l))
      ∧ does (.mul w) { nb := 1 } (fun l => dstX w.dst (a l * b l)) ∧ does (.mad w) { nb := 1, nc := 1 } (fun l => dstX w.dst (a l * b l + C l))
      ∧ (w.mod.tya = .s32 → does (.neg w) {} (fun l => dstX w.dst (-a l)) ∧ does (.abs w) {} (fun l => dstX w.dst (if (a l).msb then -a l else a l))))
    ∧ (w.mod.opx = 1 →
      does (.add w) { nb := 1 } (fun l => dstX w.dst (sat32 w.mod.tya (I (a l) + I (b l))))
      ∧ does (.sub w) { nb := 1 } (fun l => dstX w.dst (sat32 w.mod.tya (I (a l) - I (b l))))
      ∧ does (.mul w) { nb := 1 } (fun l => dstX w.dst (sat32 w.mod.tya (I (a l) * I (b l))))
      ∧ does (.mad w) { nb := 1, nc := 1 } (fun l => dstX w.dst (sat32 w.mod.tya (I (a l) * I (b l) + I (C l))))
      ∧ does (.neg w) {} (fun l => dstX w.dst (sat32 w.mod.tya (-I (a l))))
      ∧ does (.abs w) {} (fun l => dstX w.dst (sat32 w.mod.tya (I (a l)).natAbs)))
    ∧ does (.addc w) { nb := 1 } (fun l =>
        { wx := [(d, a l + b l + BitVec.ofNat 32 (cin l))], wp := [(opndReg w.sc, decide (2 ^ 32 ≤ (a l).toNat + (b l).toNat + cin l))] })
    ∧ does (.subb w) { nb := 1 } (fun l =>
        { wx := [(d, a l - b l - BitVec.ofNat 32 (cin l))], wp := [(opndReg w.sc, decide ((a l).toNat < (b l).toNat + cin l))] })
    ∧ does (.mulh w) { nb := 1 } (fun l => dstX w.dst ((wide (a l) * wide (b l)).extractLsb' 32 32))
    ∧ does (.min w) { nb := 1 } (fun l => dstX w.dst (if I (a l) ≤ I (b l) then a l else b l))
    ∧ does (.max w) { nb := 1 } (fun l => dstX w.dst (if I (a l) ≥ I (b l) then a l else b l))
    ∧ (d + 1 < 64 →
      does (.mulw w) { nb := 1 } (fun l => dst64 w.dst (wide (a l) * wide (b l)))
      ∧ does (.madw w) { nb := 1, nc := 2 } (fun l => dst64 w.dst (wide (a l) * wide (b l) + src64 c l w.sc)))
    ∧ (w.mod.tya = .s32 →
      does (.div w) { nb := 1 } (fun l => { dstX w.dst (if b l = 0 then (if (a l).msb then 0x80000000#32 else 0x7FFFFFFF#32) else (a l).sdiv (b l)) with
        pend := [(d, 1)] })
      ∧ does (.rem w) { nb := 1 } (fun l => { dstX w.dst (if b l = 0 then a l else (a l).srem (b l)) with pend := [(d, 1)] }))
    ∧ (w.mod.tya ≠ .s32 →
      does (.div w) { nb := 1 } (fun l => { dstX w.dst (if b l = 0 then 0xFFFFFFFF#32 else a l / b l) with pend := [(d, 1)] })
      ∧ does (.rem w) { nb := 1 } (fun l => { dstX w.dst (if b l = 0 then a l else a l % b l) with pend := [(d, 1)] }))

/-- R144: the results of logic, shifts and bit fields. -/
def Obligations.LogicShiftsBitFields : Prop :=
  ∀ (w : IW ModA) (s s1 : State) (r : Run) (m : SMap Word) (ps : List Pop),
    let c := cx s s1 (hd w) r m
    let a := fun l => src c l w.sa
    let b := fun l => src c l w.sb
    let C := fun l => src c l w.sc
    let pos := fun l => (b l).toNat % 256
    let width := fun l => if 32 ≤ pos l then 0 else min (min ((b l).toNat / 256 % 256) 32) (32 - pos l)
    let n := fun l => (b l).toNat % 64
    let does := fun (i : Instr) (sh : Shape) (v : Nat → Word) => Does i (hd w) sh s s1 r m ps fun l => dstX w.dst (v l)
    does (.and w) { nb := 1 } (fun l => a l &&& b l) ∧ does (.or w) { nb := 1 } (fun l => a l ||| b l)
    ∧ does (.xor w) { nb := 1 } (fun l => a l ^^^ b l) ∧ does (.not w) {} (fun l => ~~~(a l))
    ∧ does (.andn w) { nb := 1 } (fun l => a l &&& ~~~(b l))
    ∧ does (.shl w) { nb := 1 } (fun l => a l <<< (b l).toNat) ∧ does (.shr w) { nb := 1 } (fun l => a l >>> (b l).toNat)
    ∧ does (.sar w) { nb := 1 } (fun l => (a l).sshiftRight (b l).toNat)
    ∧ does (.rol w) { nb := 1 } (fun l => (a l).rotateLeft (b l).toNat)
    ∧ does (.clz w) {} (fun l => BitVec.ofNat 32 ((List.range 32).takeWhile fun i => !(a l).getLsbD (31 - i)).length)
    ∧ does (.ctz w) {} (fun l => BitVec.ofNat 32 ((List.range 32).takeWhile fun i => !(a l).getLsbD i).length)
    ∧ does (.popc w) {} (fun l => BitVec.ofNat 32 ((List.range 32).countP fun i => (a l).getLsbD i))
    ∧ does (.brev w) {} (fun l => maskOf fun i => (a l).getLsbD (31 - i))
    ∧ does (.bfx w) { nb := 1 } (fun l => maskOf fun i =>
        if i < width l then (a l).getLsbD (pos l + i) else w.mod.tya = .s32 && decide (width l ≠ 0) && (a l).getLsbD (pos l + width l - 1))
    ∧ does (.bfi w) { nb := 1, nc := 1 } (fun l => maskOf fun i =>
        if pos l ≤ i ∧ i < pos l + width l then (a l).getLsbD (i - pos l) else (C l).getLsbD i)
    ∧ does (.sxt w) { nb := 1 } (fun l => maskOf fun i => decide (n l ≠ 0) && if i < n l then (a l).getLsbD i else (a l).getLsbD (n l - 1))
    ∧ does (.zxt w) { nb := 1 } (fun l => maskOf fun i => decide (i < n l) && (a l).getLsbD i)

/-- R146: the results of compare, select, move and address. A comparison answers a predicate, or 1 or 0 in a register. -/
def Parts.CompareSelectMove : Prop :=
  ∀ (w : IW ModA) (s s1 : State) (r : Run) (m : SMap Word) (ps : List Pop),
    let c := cx s s1 (hd w) r m
    let a := fun l => src c l w.sa
    let b := fun l => src c l w.sb
    let a64 := fun l => src64 c l w.sa
    let b64 := fun l => src64 c l w.sb
    let cmp := fun l => holdsCond w.mod.opx.toNat (numOf w.mod.tya (a l) (a64 l)) (numOf w.mod.tya (b l) (b64 l))
    let cmpSh : Shape := if w.mod.tya = .s64 ∨ w.mod.tya = .n64 then { na := 2, nb := 2 } else { nb := 1 }
    let does := fun (i : Instr) (sh : Shape) (out : Nat → LaneOut) => Does i (hd w) sh s s1 r m ps out
    does (.sel w) { nb := 1 } (fun l => dstX w.dst (if srcP c l w.sc then a l else b l))
    ∧ (w.mod.opx.toNat < 6 → does (.cmp w) cmpSh (fun l => dstBool w.dst (cmp l)) ∧ does (.cmpx w) cmpSh (fun l => dstBool w.dst (cmp l && srcP c l w.sc)))
    ∧ (w.mod.tya ≠ .n64 → does (.mov w) {} (fun l => dstX w.dst (a l)))
    ∧ does (.movi w) {} (fun _ => dstX w.dst (w.imm.extractLsb' 0 32))
    ∧ (opndReg w.dst + 1 < 64 →
      does (.lea w) { na := 2, nb := 1 } (fun l =>
        dst64 w.dst (a64 l + ((if w.mod.tya = .s32 then (b l).signExtend 64 else (b l).setWidth 64) <<< w.mod.opx.toNat)))
      ∧ does (.add64 w) { na := 2, nb := 2 } (fun l => dst64 w.dst (a64 l + b64 l))
      ∧ does (.sub64 w) { na := 2, nb := 2 } (fun l => dst64 w.dst (a64 l - b64 l))
      ∧ (w.mod.tya = .n64 → does (.mov w) { na := 2 } (fun l => dst64 w.dst (a64 l)))
      ∧ does (.movw w) {} (fun _ => dst64 w.dst w.imm))

/-- R147: the results of predicate logic. A write of p7 has no effect, as `Did` says of p0 to p6 only and p7 always reads true. -/
def Parts.PredicateLogic : Prop :=
  ∀ (w : IW ModA) (s s1 : State) (r : Run) (m : SMap Word) (ps : List Pop),
    let c := cx s s1 (hd w) r m
    let p := fun (o : Opnd) (l : Nat) => match o with | .p k => rdP c.q.work l k.val | o => decide (src c l o ≠ 0)
    let does := fun (i : Instr) (sh : Shape) (v : Nat → Bool) => Does i (hd w) sh s s1 r m ps fun l => { wp := [(opndReg w.dst, v l)] }
    does (.pand w) { nb := 1 } (fun l => p w.sa l && p w.sb l) ∧ does (.por w) { nb := 1 } (fun l => p w.sa l || p w.sb l)
    ∧ does (.pxor w) { nb := 1 } (fun l => p w.sa l != p w.sb l) ∧ does (.pnot w) {} (fun l => !p w.sa l) ∧ does (.pmov w) {} (fun l => p w.sa l)

/-- R146: the results of compare, select, move and address. A comparison answers a predicate, or 1 or 0 in a register. R147: the results of predicate logic. A write of p7 has no effect, as `Did` says of p0 to p6 only and p7 always reads true. -/
def Obligations.CompareSelectMovePredicates : Prop := Parts.CompareSelectMove ∧ Parts.PredicateLogic

/-! ### Guards, the mask, trap, breakpoint, yield and no-op -/

/-- R134, with EXMR and SUCC (R136, R137): a lane that does not pass leaves for the alternative, and nothing else happens. GRDU
with lanes that disagree, and EXMN with a mask that differs, raise Uniformity for the path and remove no lane. -/
def Parts.GuardsAndTheMask : Prop :=
  ∀ (w : IW ModI) (s s1 : State) (r : Run) (m : SMap Word) (ps : List Pop),
    let c := cx s s1 (hd w) r m
    let alt := (w.imm.extractLsb' 0 24).toNat
    let leave := fun pass : Bool => if pass then ({} : LaneOut) else { leave := some (.alt alt) }
    let p := fun l => srcP c l w.sa == (w.mod.opx == 0)
    let wide := w.mod.ty = .s64 ∨ w.mod.ty = .n64
    let cmp := fun l => holdsCond w.mod.opx.toNat (numOf w.mod.ty (src c l w.sa) (src64 c l w.sa)) (numOf w.mod.ty (src c l w.sb) (src64 c l w.sb))
    let agree := fun {α : Type} (f : Nat → α) => ∀ l j, l < 32 → j < 32 → (acts s (hd w) r).getLsbD l = true → (acts s (hd w) r).getLsbD j = true → f l = f j
    let does := fun (i : Instr) (sh : Shape) (out : Nat → LaneOut) => Does i (hd w) sh s s1 r m ps out
    does (.grd w) {} (fun l => leave (p l))
    ∧ (w.mod.opx.toNat < 6 → does (.grdc w) (if wide then { na := 2, nb := 2 } else { nb := 1 }) (fun l => leave (cmp l)))
    ∧ (agree p → does (.grdu w) {} (fun l => leave (p l)))
    ∧ (agree (fun l => src c l w.sa) → does (.exmn w) {} (fun l => leave ((src c l w.sa).getLsbD l)))
    ∧ (Issues s s (hd w) {} r [] [] → ¬ agree (fun l => srcP (cx s s (hd w) r []) l w.sa == (w.mod.opx == 0)) → PathTraps (.grdu w) s r 4)
    ∧ (∀ k : Fin 64, w.sa = .x k → Issues s s (hd w) {} r [] [] → ¬ agree (fun l => src (cx s s (hd w) r []) l w.sa) → PathTraps (.exmn w) s r 4)
    ∧ (∀ a : IW ModA, Does (.exmr a) (hd a) { na := 0 } s s1 r m ps fun _ => dstX a.dst r.exm)
    ∧ does (.succ w) { na := if w.mod.opx = 1 then 1 else 0 } (fun l =>
        dstX w.dst ((w.imm.extractLsb' 0 24 + if w.mod.opx = 1 then (src c l w.sa).extractLsb' 0 24 else 0).setWidth 32))

/-- TRAP raises Software and BKPT raises Breakpoint in each acting lane, with the code of the word (R139): those lanes leave, the others
go on, and the batch's halt begins where its context can handle a trap and a lane that traps has not mixed versions (R22). BKPT acts as NOP in a handler batch, and
stops the path where the debug block says so (R454); NOP and YLD change no register (R140). -/
def Parts.TrapBreakpointYieldNop : Prop :=
  ∀ (w : IW ModS) (s s1 : State) (r : Run) (m : SMap Word) (ps : List Pop),
    let h := hd w
    let sh : Shape := { na := 0 }
    let raise := fun (code : Nat) (_ : Nat) =>
      ({ leave := some (.trap { code := code, tcode := (w.imm.extractLsb' 0 16).toNat, off := r.off, word := r.words.getD r.off 0 }) } : LaneOut)
    let traps := fun (i : Instr) (code : Nat) => ∃ t, exec i s = .next t ∧ Did s t h sh r (raise code) [] r.sync ps ∧ SameMem s1 t
      ∧ ((∃ l, Acting s h r l ∧ lostLane s (curG s).ctx r l = false) → (curG s).prof ≠ .mgmt → fatalTrap s (curG s).btag code 0 = none → (getB t (curG s).btag).halt.isSome = true)
    let bk := if debugged s (curG s) then (getD s (curG s).clu).bkact else 0
    Issues s s1 h sh r m ps →
      traps (.trap w) 0x13
      ∧ (r.skipB = false → bk = 0 → (getB s (curG s).btag).masked = false → traps (.bkpt w) 0x14)
      ∧ ((r.skipB = true ∨ (bk = 0 ∧ (getB s (curG s).btag).masked = true)) → Does (.bkpt w) h sh s s1 r m ps fun _ => {})
      ∧ (r.skipB = false → bk ≠ 0 → acts s h r ≠ 0 → (getD s (curG s).clu).istep = false →
          ∃ t r', exec (.bkpt w) s = .next t ∧ SameMem s t ∧ curG t = { curG s with run := some r' }
            ∧ r' = { r with exm := 0, ended := true, leaves := r'.leaves, pathStop := some { cause := 3, soff := r.off } }
            ∧ (∀ l, l < 32 → sget none r'.leaves l = if r.exm.getLsbD l then some .stop else sget none r.leaves l)
            ∧ (bk = 2 → (getD s (curG s).clu).stopped = false → (getD t (curG s).clu).stopping = true))
      ∧ Does (.nop w) h sh s s1 r m ps (fun _ => {})
      ∧ ∃ u, exec (.yld w) s = .next (if acts s h r = 0 then u else updG u s.cur fun q => { q with yielded := true })
          ∧ Did s u h sh r (fun _ => {}) [] r.sync ps ∧ Quiet s1 u

/-- R134, with EXMR and SUCC (R136, R137): a lane that does not pass leaves for the alternative, and nothing else happens. GRDU
with lanes that disagree, and EXMN with a mask that differs, raise Uniformity for the path and remove no lane. TRAP raises Software and BKPT raises Breakpoint in each acting lane, with the code of the word (R139): those lanes leave, the others
go on, and the batch's halt begins where its context can handle a trap and a lane that traps has not mixed versions (R22). BKPT acts as NOP in a handler batch, and
stops the path where the debug block says so (R454); NOP and YLD change no register (R140). Where the manual leaves a point open it states the model's choice: log 31, 63 and 64. -/
def Obligations.GuardsTrapsYields : Prop := Parts.GuardsAndTheMask ∧ Parts.TrapBreakpointYieldNop

/-! ### Cross-lane instructions -/

/-- R149 with R103 and R148: LXCH, LXUP, LXDN and LXBF read register A of lane j: the value of this trace where j is in EXM, of the last
commit where j is live and not in it, else 0; `.chk` tells whether j is outside EXM. A scoreboarded register of lane j stalls, and one that still
waits for a load or a held return is a Marker-Violation. -/
def Parts.CrossLaneReads : Prop :=
  ∀ (w : IW ModG) (s s1 : State) (r : Run) (m : SMap Word) (ps : List Pop),
    (∀ k, w.sb ≠ .q k) →
      let q := curG s
      let k := opndReg w.sa
      let b := fun l => src (cx s s1 (hd w) r m) l w.sb
      let here := fun j : Int => decide (0 ≤ j) && decide (j < 32)
      let vers := fun j : Int => if r.exm.getLsbD j.toNat then q.work else q.com
      let val := fun j : Int => if here j && q.live.getLsbD j.toNat then rdX (vers j) j.toNat k else 0
      let waits := fun j : Int => if here j && q.live.getLsbD j.toNat then rdPend (vers j) j.toNat k % 4 else 0
      let out := fun (j : Nat → Int) (l : Nat) =>
        ({ wx := [(opndReg w.dst, val (j l))], wp := if w.mod.chk then [(opndReg w.sc, !(here (j l) && r.exm.getLsbD (j l).toNat))] else [] } : LaneOut)
      let acting := fun l => l < 32 ∧ (acts s (hd w) r).getLsbD l = true
      let reads := fun (i : Instr) (j : Nat → Int) =>
        ((∀ l, acting l → waits (j l) = 0) → Does i (hd w) { nb := 1 } s s1 r m ps (out j) (own := false))
        ∧ (Issues s s (hd w) { nb := 1 } r [] [] false →
            ((∃ l, acting l ∧ (waits (j l) = 1 ∨ waits (j l) = 2)) → PathTraps i s r 5)
            ∧ ((∀ l, acting l → waits (j l) ≠ 1 ∧ waits (j l) ≠ 2) → (∃ l, acting l ∧ waits (j l) = 3) → exec i s = .next { s with stalled := true }))
      reads (.lxch w) (fun l => (b l).toInt) ∧ reads (.lxup w) (fun l => l - (b l).toInt)
      ∧ reads (.lxdn w) (fun l => l + (b l).toInt) ∧ reads (.lxbf w) (fun l => ((l ^^^ (b l).toNat : Nat) : Int))

/-- R150, R151 and R152: VOTE, LRED, LSCN and LCNT combine the participants, which are the acting lanes, in ascending lane order. -/
def Parts.VotesReductionsCounts : Prop :=
  ∀ (w : IW ModG) (s s1 : State) (r : Run) (m : SMap Word) (ps : List Pop),
    let c := cx s s1 (hd w) r m
    let ls := (List.range 32).filter fun j => (acts s (hd w) r).getLsbD j
    let t := fun j => srcP c j w.sa
    let a := fun j => src c j w.sa
    let ty := w.mod.ty
    let o := w.mod.opx.toNat
    let num := fun v : Word => if ty = .s32 then v.toInt else (v.toNat : Int)
    let op := fun y z : Word =>
      if ty = .f32 then BitVec.ofNat 32 (match o % 8 with
        | 0 => fAdd fmtF32 .rne y.toNat z.toNat
        | 1 => fMinMax fmtF32 false y.toNat z.toNat
        | _ => fMinMax fmtF32 true y.toNat z.toNat)
      else match o % 8 with
        | 0 => y + z
        | 1 => if num y ≤ num z then y else z
        | 2 => if num z ≤ num y then y else z
        | 3 => y &&& z
        | 4 => y ||| z
        | _ => y ^^^ z
    let ident : Word := match o % 8 with
      | 0 => 0
      | 1 => if ty = .f32 then 0x7F800000#32 else if ty = .s32 then 0x7FFFFFFF#32 else 0xFFFFFFFF#32
      | 2 => if ty = .f32 then 0xFF800000#32 else if ty = .s32 then 0x80000000#32 else 0
      | 3 => 0xFFFFFFFF#32
      | _ => 0
    let fold := fun vs : List Word => match vs with | [] => ident | v :: x => x.foldl op v
    let does := fun (i : Instr) (out : Nat → LaneOut) => Does i (hd w) {} s s1 r m ps out
    (o = 0 → does (.vote w) fun _ => dstP w.dst (ls.all t))
    ∧ (o = 1 → does (.vote w) fun _ => dstP w.dst (ls.any t))
    ∧ (o = 2 → does (.vote w) fun _ => dstP w.dst (ls.all fun j => ls.all fun k => t j == t k))
    ∧ (o = 3 → does (.vote w) fun _ => dstX w.dst (BitVec.ofNat 32 ((ls.filter t).map fun j => 2 ^ j).sum))
    ∧ ((ty = .f32 → o < 3) → o < 6 → does (.lred w) fun _ => dstX w.dst (fold (ls.map a)))
    ∧ ((ty = .f32 → o % 8 < 3) → o < 6 → does (.lscn w) fun l => dstX w.dst (fold ((ls.filter (· ≤ l)).map a)))
    ∧ ((ty = .f32 → o % 8 < 3) → 8 ≤ o → o < 14 → does (.lscn w) fun l => dstX w.dst (fold ((ls.filter (· < l)).map a)))
    ∧ (o = 0 → does (.lcnt w) fun _ => dstX w.dst (BitVec.ofNat 32 (ls.countP t)))
    ∧ (o = 1 → does (.lcnt w) fun l => dstX w.dst (BitVec.ofNat 32 (ls.countP fun j => decide (j < l) && t j)))

/-- R149 with R103 and R148: LXCH, LXUP, LXDN and LXBF read register A of lane j: the value of this trace where j is in EXM, of the last
commit where j is live and not in it, else 0; `.chk` tells whether j is outside EXM. A scoreboarded register of lane j stalls, and one that still
waits for a load or a held return is a Marker-Violation. R150, R151 and R152: VOTE, LRED, LSCN and LCNT combine the participants, which are the acting lanes, in ascending lane order. -/
def Obligations.CrossLaneAndVotes : Prop := Parts.CrossLaneReads ∧ Parts.VotesReductionsCounts

/-! ### Floating point and conversions -/

/-- R168 to R170 without stochastic rounding: a nonzero number rounds to the code of the format that its mode names, with a tie to the even
code, and beyond the largest finite value as the mode and the format give. -/
def Obligations.RoundingChoosesTheNearestCode : Prop :=
  ∀ f ∈ [fmtF32, fmtBf16, fmtF16, fmtE4m3, fmtE5m2], ∀ (mode : Rnd) (s : Bool) (n : Nat) (e : Int), mode ≠ .rs → n ≠ 0 →
    Rounded f mode (ratOf (.fin s n e)) (fEnc f mode (.fin s n e))

/-- R184: FADD, FSUB, FMUL and FFMA compute the exact result and round it once. -/
def Obligations.FloatArithmetic : Prop :=
  ∀ (w : IW ModA) (s s1 : State) (r : Run) (m : SMap Word) (ps : List Pop), w.mod.rnd ≠ .rs →
    let c := cx s s1 (hd w) r m
    let v := fun (o : Opnd) (l : Nat) => fDecode fmtF32 (src c l o).toNat
    ∃ add sub mul fma : Nat → Nat,
      Does (.fadd w) (hd w) { nb := 1 } s s1 r m ps (fun l => dstX w.dst (BitVec.ofNat 32 (add l)))
      ∧ Does (.fsub w) (hd w) { nb := 1 } s s1 r m ps (fun l => dstX w.dst (BitVec.ofNat 32 (sub l)))
      ∧ Does (.fmul w) (hd w) { nb := 1 } s s1 r m ps (fun l => dstX w.dst (BitVec.ofNat 32 (mul l)))
      ∧ Does (.ffma w) (hd w) { nb := 1, nc := 1 } s s1 r m ps (fun l => dstX w.dst (BitVec.ofNat 32 (fma l)))
      ∧ ∀ l, SumIs fmtF32 w.mod.rnd (v w.sa l) (v w.sb l) (add l) ∧ SumIs fmtF32 w.mod.rnd (v w.sa l) (fvNeg (v w.sb l)) (sub l)
          ∧ ∃ p, ProductIs (v w.sa l) (v w.sb l) p ∧ SumIs fmtF32 w.mod.rnd p (v w.sc l) (fma l)
            ∧ match p with
              | .nan => mul l = 0x7FC00000
              | .inf t => mul l = if t then 0xFF800000 else 0x7F800000
              | .fin t _ _ => if ratOf p = 0 then mul l = (if t then 0x80000000 else 0) else Rounded fmtF32 w.mod.rnd (ratOf p) (mul l)

/-- R185, R186 and R187: FMIN, FMAX, FABS, FNEG, FCMP and FCLS, said on the codes. -/
def Parts.FloatMinMaxCompareClass : Prop :=
  ∀ (w : IW ModA) (s s1 : State) (r : Run) (m : SMap Word) (ps : List Pop),
    let c := cx s s1 (hd w) r m
    let a := fun l => src c l w.sa
    let b := fun l => src c l w.sb
    let un := fun l => f32NaN (a l) || f32NaN (b l)
    let qnan : Word := 0x7FC00000#32
    let pick := fun (l : Nat) (first : Bool) =>
      if f32NaN (a l) && f32NaN (b l) then qnan else if f32NaN (a l) then b l else if f32NaN (b l) then a l else if first then a l else b l
    let x := fun l => f32Num (a l)
    let y := fun l => f32Num (b l)
    let cmp := fun l => match w.mod.opx.toNat with
      | 0 => !un l && decide (x l = y l)
      | 1 => un l || decide (x l ≠ y l)
      | 2 => !un l && decide (x l < y l)
      | 3 => !un l && decide (x l ≤ y l)
      | 4 => !un l && decide (x l > y l)
      | 5 => !un l && decide (x l ≥ y l)
      | 6 => un l
      | _ => !un l
    let cls := fun l =>
      let e := ((a l).extractLsb' 23 8).toNat
      let f := ((a l).extractLsb' 0 23).toNat
      let k := if e = 255 then 0 else if e ≠ 0 then 1 else if f ≠ 0 then 2 else 3
      if e = 255 ∧ f ≠ 0 then 8 else if (a l).msb then k else 7 - k
    let does := fun (i : Instr) (sh : Shape) (out : Nat → LaneOut) => Does i (hd w) sh s s1 r m ps out
    does (.fmin w) { nb := 1 } (fun l => dstX w.dst (pick l (decide (f32Key (a l) ≤ f32Key (b l)))))
    ∧ does (.fmax w) { nb := 1 } (fun l => dstX w.dst (pick l (decide (f32Key (b l) ≤ f32Key (a l)))))
    ∧ does (.fabs w) {} (fun l => dstX w.dst (if f32NaN (a l) then qnan else a l &&& 0x7FFFFFFF#32))
    ∧ does (.fneg w) {} (fun l => dstX w.dst (if f32NaN (a l) then qnan else a l ^^^ 0x80000000#32))
    ∧ (w.mod.opx.toNat < 8 → does (.fcmp w) { nb := 1 } (fun l => dstBool w.dst (cmp l)))
    ∧ ((∀ k, w.dst ≠ .p k) → does (.fcls w) {} (fun l => dstX w.dst (BitVec.ofNat 32 (2 ^ cls l))))
    ∧ (∀ k, w.dst = .p k → does (.fcls w) { nb := 1 } (fun l => dstP w.dst ((b l).getLsbD (cls l))))

/-- R188: FRND rounds to the integer of its mode; a zero result keeps the sign of A. -/
def Parts.RoundToIntegral : Prop :=
  ∀ (w : IW ModA) (s s1 : State) (r : Run) (m : SMap Word) (ps : List Pop), w.mod.rnd ≠ .rs →
    let a := fun l => (src (cx s s1 (hd w) r m) l w.sa).toNat
    ∃ d : Nat → Nat, Does (.frnd w) (hd w) {} s s1 r m ps (fun l => dstX w.dst (BitVec.ofNat 32 (d l)))
      ∧ ∀ l,
        if f32NaN (src (cx s s1 (hd w) r m) l w.sa) then d l = 0x7FC00000
        else if isFin fmtF32 (a l) = false ∨ codeRat fmtF32 (a l) = 0 ∨ 2 ^ 23 ≤ |codeRat fmtF32 (a l)| then d l = a l
        else d l < 2 ^ 32 ∧ isFin fmtF32 (d l) = true ∧ (d l).testBit 31 = (a l).testBit 31
          ∧ ∃ y : ℤ, codeRat fmtF32 (d l) = y ∧ Chosen w.mod.rnd (codeRat fmtF32 (a l)) y

/-- R185, R186 and R187: FMIN, FMAX, FABS, FNEG, FCMP and FCLS, said on the codes. R188: FRND rounds to the integer of its mode; a zero result keeps the sign of A. -/
def Obligations.FloatCompareAndRoundToIntegral : Prop := Parts.FloatMinMaxCompareClass ∧ Parts.RoundToIntegral

/-- R181, R190 and R191: the function units complete with deferred results; FDIV and FRCP round the exact quotient once, and the special cases
of FDIV, FSQRT, FRCP and FRSQ and the fixed results of the other six are as listed. Where the manual leaves a point open it states the model's choice: log 14. -/
def Obligations.FunctionUnits : Prop :=
  ∀ (w : IW ModA) (s s1 : State) (r : Run) (m : SMap Word) (ps : List Pop), w.mod.rnd ≠ .rs →
    let c := cx s s1 (hd w) r m
    let a := fun l => (src c l w.sa).toNat
    let b := fun l => (src c l w.sb).toNat
    let nan := fun l => f32NaN (src c l w.sa)
    let x := fun l => codeRat fmtF32 (a l)
    let y := fun l => codeRat fmtF32 (b l)
    let later := fun (i : Instr) (sh : Shape) (v : Nat → Nat) =>
      Does i (hd w) sh s s1 r m ps fun l => { dstX w.dst (BitVec.ofNat 32 (v l)) with pend := [(opndReg w.dst, 1)] }
    ∃ div sqrt rcp rsq ex2 lg2 sin cos sig tnh : Nat → Nat,
      later (.fdiv w) { nb := 1 } div ∧ later (.fsqrt w) {} sqrt ∧ later (.frcp w) {} rcp ∧ later (.frsq w) {} rsq ∧ later (.fex2 w) {} ex2
      ∧ later (.flg2 w) {} lg2 ∧ later (.fsin w) {} sin ∧ later (.fcos w) {} cos ∧ later (.fsig w) {} sig ∧ later (.ftnh w) {} tnh
      ∧ ∀ l,
        (isFin fmtF32 (a l) = true → isFin fmtF32 (b l) = true → x l ≠ 0 → y l ≠ 0 → Rounded fmtF32 w.mod.rnd (x l / y l) (div l))
        ∧ (nan l = true ∨ f32NaN (src c l w.sb) = true ∨ (x l = 0 ∧ y l = 0 ∧ isFin fmtF32 (a l) = isFin fmtF32 (b l)) → div l = 0x7FC00000)
        ∧ (isFin fmtF32 (a l) = true → isFin fmtF32 (b l) = true → x l ≠ 0 → y l = 0 →
            div l = if (a l).testBit 31 != (b l).testBit 31 then 0xFF800000 else 0x7F800000)
        ∧ (nan l = true → [sqrt l, rcp l, rsq l, ex2 l, lg2 l, sin l, cos l, sig l, tnh l] = List.replicate 9 0x7FC00000)
        ∧ (nan l = false → (a l).testBit 31 = true → a l ≠ 0x80000000 → sqrt l = 0x7FC00000 ∧ rsq l = 0x7FC00000 ∧ lg2 l = 0x7FC00000)
        ∧ (isFin fmtF32 (a l) = true → x l ≠ 0 → Rounded fmtF32 .rne (1 / x l) (rcp l))
        ∧ (a l = 0 → [sqrt l, rcp l, rsq l, ex2 l, lg2 l, sin l, cos l, tnh l] = [0, 0x7F800000, 0x7F800000, 0x3F800000, 0xFF800000, 0, 0x3F800000, 0])
        ∧ (a l = 0x80000000 → [sqrt l, rcp l, rsq l, ex2 l, lg2 l, sin l, cos l, tnh l]
            = [0x80000000, 0xFF800000, 0xFF800000, 0x3F800000, 0xFF800000, 0x80000000, 0x3F800000, 0x80000000])
        ∧ (a l = 0x7F800000 → [sqrt l, rcp l, rsq l, ex2 l, lg2 l, sin l, cos l, sig l, tnh l]
            = [0x7F800000, 0, 0, 0x7F800000, 0x7F800000, 0x7FC00000, 0x7FC00000, 0x3F800000, 0x3F800000])
        ∧ (a l = 0xFF800000 → [rcp l, ex2 l, sin l, cos l, sig l, tnh l] = [0x80000000, 0, 0x7FC00000, 0x7FC00000, 0, 0xBF800000])
        ∧ (isFin fmtF32 (a l) = true →
          (128 ≤ x l → ex2 l = 0x7F800000) ∧ (x l ≤ -150 → ex2 l = 0)
          ∧ (∀ k : ℤ, x l = k → -149 ≤ k → k ≤ 127 → isFin fmtF32 (ex2 l) = true ∧ codeRat fmtF32 (ex2 l) = 2 ^ k)
          ∧ (∀ k : ℤ, x l = (2 : ℚ) ^ k → isFin fmtF32 (lg2 l) = true ∧ codeRat fmtF32 (lg2 l) = k)
          ∧ (|x l| < 1 / 2 ^ 12 → sin l = a l) ∧ (35 / 2 ≤ x l → sig l = 0x3F800000)
          ∧ (19 / 2 ≤ |x l| → tnh l = if (a l).testBit 31 then 0xBF800000 else 0x3F800000))

/-- R193: the packed instructions work on elements 0 and 1 alone, in the format that TYA names. -/
def Obligations.PackedArithmetic : Prop :=
  ∀ (w : IW ModA) (s s1 : State) (r : Run) (m : SMap Word) (ps : List Pop), w.mod.rnd ≠ .rs → (w.mod.tya = .bf16 ∨ w.mod.tya = .f16) →
    let c := cx s s1 (hd w) r m
    let f := fmtOf w.mod.tya
    let el := fun (o : Opnd) (k l : Nat) => ((src c l o).extractLsb' (16 * k) 16).toNat
    let v := fun (o : Opnd) (k l : Nat) => fDecode f (el o k l)
    let pack := fun (d : Nat → Nat → BitVec 16) (l : Nat) => dstX w.dst (d 1 l ++ d 0 l)
    let less := fun (x y : FVal) => match x, y with
      | .inf s, .inf t => s && !t
      | .inf s, _ => s
      | _, .inf t => !t
      | .fin s _ _, .fin t _ _ => decide (ratOf x < ratOf y) || (decide (ratOf x = ratOf y) && s && !t)
      | _, _ => false
    let pick := fun (k l : Nat) (lo : Bool) =>
      if isNaNv (v w.sa k l) && isNaNv (v w.sb k l) then BitVec.ofNat 16 (fmtNaN f)
      else BitVec.ofNat 16 (if isNaNv (v w.sa k l) then el w.sb k l else if isNaNv (v w.sb k l) then el w.sa k l
        else if less (v w.sb k l) (v w.sa k l) = lo then el w.sb k l else el w.sa k l)
    ∃ add mul fma : Nat → Nat → BitVec 16,
      Does (.hadd2 w) (hd w) { nb := 1 } s s1 r m ps (pack add) ∧ Does (.hmul2 w) (hd w) { nb := 1 } s s1 r m ps (pack mul)
      ∧ Does (.hfma2 w) (hd w) { nb := 1, nc := 1 } s s1 r m ps (pack fma)
      ∧ Does (.hmin2 w) (hd w) { nb := 1 } s s1 r m ps (pack fun k l => pick k l true)
      ∧ Does (.hmax2 w) (hd w) { nb := 1 } s s1 r m ps (pack fun k l => pick k l false)
      ∧ ∀ k l, k < 2 → SumIs f w.mod.rnd (v w.sa k l) (v w.sb k l) (add k l).toNat
        ∧ ∃ p, ProductIs (v w.sa k l) (v w.sb k l) p ∧ SumIs f w.mod.rnd p (v w.sc k l) (fma k l).toNat
          ∧ match p with
            | .nan => (mul k l).toNat = fmtNaN f
            | .inf t => (mul k l).toNat = fmtNeg f t (fmtTop f)
            | .fin t _ _ => if ratOf p = 0 then (mul k l).toNat = fmtNeg f t 0 else Rounded f w.mod.rnd (ratOf p) (mul k l).toNat


/-- R194 with R171 and R172: CVTF. An element that is NaN gives the canonical NaN, another is rounded once, clamped under `.sat`, flushed under
`.ftz`; under `.rs` the hash of the lane's seed chooses between the two adjacent codes. -/
def Parts.ConvertFloatToFloat : Prop :=
  ∀ (w : IW ModA) (s s1 : State) (r : Run) (m : SMap Word) (ps : List Pop),
    let c := cx s s1 (hd w) r m
    let fs := fmtOf w.mod.tyb
    let fd := fmtOf w.mod.tya
    let k := w.mod.opx.toNat / 4
    let sat := w.mod.opx.getLsbD 0
    let ftz := w.mod.opx.getLsbD 1
    let small := fun t : Ty => t = .e4m3 ∨ t = .e5m2
    let el := fun l => (src c l w.sa).toNat / 2 ^ (k * fmtBits fs) % 2 ^ fmtBits fs
    let v : Nat → FVal := fun l => match fDecode fs (el l) with
      | .fin s n e => if ftz ∧ small w.mod.tyb ∧ fSubnormal fs (el l) then .fin s 0 e else .fin s n e
      | v => v
    ∃ d : Nat → Nat, Does (.cvtf w) (hd w) { nc := if w.mod.rnd = .rs then 1 else 0 } s s1 r m ps (fun l => dstX w.dst (BitVec.ofNat 32 (d l)))
      ∧ ∀ l, match v l with
        | .nan => d l = fmtNaN fd
        | .inf t => d l = fmtNeg fd t (if fd.e4m3 then fmtMax fd else fmtTop fd)
        | .fin t n e =>
          let x := ratOf (.fin t n e)
          let flush := fun q => if ftz ∧ small w.mod.tya ∧ fSubnormal fd q then fmtNeg fd t 0 else q
          (n = 0 → d l = fmtNeg fd t 0)
          ∧ (n ≠ 0 → w.mod.rnd ≠ .rs → ∃ q, Rounded fd w.mod.rnd x q ∧ d l = if sat ∧ isFin fd q = false then fmtNeg fd t (fmtMax fd) else flush q)
          ∧ (w.mod.rnd = .rs → ∀ a, a < fmtMax fd → codeRat fd a ≤ |x| → |x| < codeRat fd (a + 1) →
              d l = flush (fmtNeg fd t (
                if (rsHash (src c l w.sc).toNat l k : ℤ) < ⌊(|x| - codeRat fd a) / (codeRat fd (a + 1) - codeRat fd a) * 2 ^ 32⌋ then a + 1 else a)))

/-- R195 and R196: CVTI and CVTN round to the integer of their mode and clamp it to its range; NaN gives 0; the other way the
result is the integer, rounded to FP32 where it has no code. -/
def Parts.ConvertToAndFromIntegers : Prop :=
  ∀ (w : IW ModA) (s s1 : State) (r : Run) (m : SMap Word) (ps : List Pop),
    let c := cx s s1 (hd w) r m
    let t := w.mod.tya
    let fs := fmtOf w.mod.tyb
    let k := w.mod.opx.toNat / 4
    let el := fun l => (src c l w.sa).toNat / 2 ^ (k * fmtBits fs) % 2 ^ fmtBits fs
    let v : Nat → FVal := fun l => match fDecode fs (el l) with
      | .fin s n e => if w.mod.opx.getLsbD 1 ∧ fSubnormal fs (el l) then .fin s 0 e else .fin s n e
      | v => v
    let intOf := fun (mode : Rnd) (lo hi : ℤ) (x : FVal) (d : ℤ) => match x with
      | .nan => d = 0
      | .inf neg => d = if neg then lo else hi
      | .fin .. => ∃ y, Chosen mode (ratOf x) y ∧ d = max lo (min hi y)
    let lo : ℤ := if t = .s32 then -2147483648 else 0
    let hi : ℤ := if t = .s32 then 2147483647 else 4294967295
    let ofInt := fun (mode : Rnd) (y : ℤ) (d : Nat) => if y = 0 then d = 0 else Rounded fmtF32 mode y d
    let byte := fun l => ((src c l w.sa).extractLsb' (8 * (w.mod.opx.toNat % 4)) 8).toInt
    let sc : Shape := { nc := if w.mod.rnd = .rs then 1 else 0 }
    let x := fun l => codeRat fmtF32 (src c l w.sa).toNat
    (t ≠ .f32 → w.mod.rnd ≠ .rs → ∃ d : Nat → ℤ, Does (.cvti w) (hd w) {} s s1 r m ps (fun l => dstX w.dst (BitVec.ofInt 32 (d l)))
      ∧ ∀ l, intOf w.mod.rnd lo hi (v l) (d l))
    ∧ (t = .f32 → w.mod.rnd ≠ .rs → ∃ d : Nat → Nat, Does (.cvti w) (hd w) {} s s1 r m ps (fun l => dstX w.dst (BitVec.ofNat 32 (d l)))
      ∧ ∀ l, ofInt w.mod.rnd (intVal w.mod.tyb (src c l w.sa)) (d l))
    ∧ (w.mod.opx.getLsbD 3 = true → t = .f32 → ∃ d : Nat → Nat, Does (.cvtn w) (hd w) sc s s1 r m ps (fun l => dstX w.dst (BitVec.ofNat 32 (d l)))
      ∧ ∀ l, ofInt .rne (byte l) (d l))
    ∧ (w.mod.opx.getLsbD 3 = true → t ≠ .f32 → Does (.cvtn w) (hd w) sc s s1 r m ps fun l => dstX w.dst (BitVec.ofInt 32 (byte l)))
    ∧ (w.mod.opx.getLsbD 3 = false → w.mod.tyb ≠ .f32 →
        Does (.cvtn w) (hd w) sc s s1 r m ps fun l => dstX w.dst (BitVec.ofInt 32 (max (-128) (min 127 (src c l w.sa).toInt))))
    ∧ (w.mod.opx.getLsbD 3 = false → w.mod.tyb = .f32 → ∃ d : Nat → ℤ, Does (.cvtn w) (hd w) sc s s1 r m ps (fun l => dstX w.dst (BitVec.ofInt 32 (d l)))
      ∧ ∀ l, (w.mod.rnd ≠ .rs → intOf w.mod.rnd (-128) 127 (fDecode fmtF32 (src c l w.sa).toNat) (d l))
        ∧ (w.mod.rnd = .rs → isFin fmtF32 (src c l w.sa).toNat = true →
            d l = max (-128) (min 127 ((if (src c l w.sa).msb then -1 else 1)
              * (⌊|x l|⌋ + if (rsHash (src c l w.sc).toNat l 0 : ℤ) < ⌊(|x l| - ⌊|x l|⌋) * 2 ^ 32⌋ then 1 else 0)))))

/-- R194 with R171 and R172: CVTF. An element that is NaN gives the canonical NaN, another is rounded once, clamped under `.sat`, flushed under
`.ftz`; under `.rs` the hash of the lane's seed chooses between the two adjacent codes. R195 and R196: CVTI and CVTN round to the integer of their mode and clamp it to its range; NaN gives 0; the other way the
result is the integer, rounded to FP32 where it has no code. -/
def Obligations.Conversions : Prop := Parts.ConvertFloatToFloat ∧ Parts.ConvertToAndFromIntegers

/-- R198 to R200: CVTQ packs the participants' values into a block under one scale, given or chosen; CVTE unpacks it. A scale control that
differs among the participants raises Uniformity. -/
def Obligations.FourBitBlocks : Prop :=
  ∀ (w : IW ModG) (s s1 : State) (r : Run) (m : SMap Word) (ps : List Pop), (∀ k, w.sb ≠ .q k) →
    let c := cx s s1 (hd w) r m
    let q := curG s
    let acting := fun j => j < 32 ∧ (acts s (hd w) r).getLsbD j = true
    let ctl := fun l => (src c l w.sb).extractLsb' 0 9
    let agree := ∀ l j, acting l → acting j → ctl l = ctl j
    let kind := fun l => ((ctl l).extractLsb' 6 2).toNat
    let mode : Rnd := match w.mod.opx.toNat with | 1 => .rz | 2 => .rp | 3 => .rm | 4 => .rs | _ => .rne
    let v := fun j => fDecode fmtF32 (src c j w.sa).toNat
    let fits := fun l (e : ℤ) => ∀ j, acting j → |ratOf (v j)| ≤ q4Rat (kind l) 7 * (2 : ℚ) ^ (e - 32)
    let scaled := fun l (sexp : Nat) =>
      if (ctl l).getLsbD 8 then
        ((∀ j, acting j → ratOf (v j) = 0) → sexp = 32)
        ∧ ((∃ j, acting j ∧ ratOf (v j) ≠ 0) → sexp < 64 ∧ (fits l sexp ∨ sexp = 63) ∧ (sexp = 0 ∨ ¬ fits l (sexp - 1)))
      else sexp = ((ctl l).extractLsb' 0 6).toNat
    let sh : Shape := { nb := 1, nc := if w.mod.opx = 4 then 1 else 0 }
    let here := fun j => q.live.getLsbD j
    let vers := fun j => if r.exm.getLsbD j then q.work else q.com
    let word := fun l => if here (l / 8) then rdX (vers (l / 8)) (l / 8) (opndReg w.sa) else 0
    let code := fun l => ((word l).extractLsb' (4 * (l % 8)) 4).toNat
    let scale := fun l => ((src c l w.sb).extractLsb' 0 6).toNat
    (agree → opndReg w.dst + 1 < 64 →
      ∃ (sexp : Nat → Nat) (cd : Nat → Nat → Nat),
        Does (.cvtq w) (hd w) sh s s1 r m ps (fun l =>
          { wx := [(opndReg w.dst, BitVec.ofNat 32 (((List.range 8).map fun i => cd l (8 * (l % 4) + i) * 2 ^ (4 * i)).sum)),
                   (opndReg w.dst + 1, BitVec.ofNat 32 (64 * kind l + sexp l))] })
        ∧ ∀ l, scaled l (sexp l) ∧ ∀ j, j < 32 →
            if acting j then
              match v j with
              | .nan => cd l j = 0
              | .inf neg => cd l j = q4Top (kind l) neg
              | x => mode ≠ .rs → Q4Is (kind l) mode (ratOf x / (2 : ℚ) ^ ((sexp l : ℤ) - 32)) (cd l j)
            else cd l j = 0)
    ∧ (Issues s s (hd w) sh r [] [] → s1 = s → m = [] → ¬ agree → PathTraps (.cvtq w) s r 4)
    ∧ ((∀ l, acting l → here (l / 8) = true → rdPend (vers (l / 8)) (l / 8) (opndReg w.sa) % 4 = 0) →
        ∃ d : Nat → Nat, Does (.cvte w) (hd w) { nb := 1 } s s1 r m ps (own := false) (fun l =>
          { wx := [(opndReg w.dst, BitVec.ofNat 32 (d l))], wp := if w.mod.chk then [(opndReg w.sc, !r.exm.getLsbD (l / 8))] else [] })
        ∧ ∀ l, l < 32 → isFin fmtF32 (d l) = true ∧ codeRat fmtF32 (d l) = q4Rat ((src c l w.sb).extractLsb' 6 2).toNat (code l) * (2 : ℚ) ^ ((scale l : ℤ) - 32))


/-! ### Memory instructions -/

/-- R203 to R205: the checks of a lane's global access, in their order: Address-Range for an address of 2^57 or more, Misaligned, then the
translation that a TLB of the core, the cluster or the die holds, else what a walk for the group has found; a write to a page that is not
writable faults. -/
def Parts.GlobalAccessChecks : Prop :=
  ∀ (c : Ctx1) (va n : Nat) (kind : AccKind), c.q.prof ≠ .mgmt →
    (2 ^ 57 ≤ va → globalAcc c va n kind = .leave (.trap { code := 0x09, addr := va }))
    ∧ (va < 2 ^ 57 → va % n ≠ 0 → globalAcc c va n kind = .leave (.trap { code := 0x0A, addr := va }))
    ∧ (va < 2 ^ 57 → va % n = 0 →
        (∀ t, tlbFind c.s c.q.clu c.q.core c.q.ctx va = some t →
          let writes := kind = .store ∨ kind = .atomic ∨ kind = .scat
          (writes → t.w = false → globalAcc c va n kind = .leave (.fault va kind true))
          ∧ ((writes → t.w = true) → c.s.ckpts = [] →
              globalAcc c va n kind = .ok (if t.host then .host else .dev) (t.ppage + (va - t.vpage))))
        ∧ (tlbFind c.s c.q.clu c.q.core c.q.ctx va = none →
            let failed := fun wr => (va / 16384, wr) ∈ c.q.walkFault ∧ (wr = true → kind = .store ∨ kind = .atomic ∨ kind = .scat)
            (failed false → ¬ failed true → globalAcc c va n kind = .leave (.fault va kind false))
            ∧ (failed true → ¬ failed false → globalAcc c va n kind = .leave (.fault va kind true))
            ∧ (failed true → failed false → ∃ wr, globalAcc c va n kind = .leave (.fault va kind wr))
            ∧ (¬ failed true → ¬ failed false → globalAcc c va n kind = .wait)))

/-- R253, orders 1 to 7: the checks of a scratchpad access of `n` bytes aligned to `al` (0 for none), in their order. -/
def Parts.ScratchpadChecks : Prop :=
  ∀ (c : Ctx1) (a n al : Nat) (use : SpadUse), a < 2 ^ 26 →
    let b := getB c.s c.q.btag
    let inside := b.spb ≤ a ∧ a + n ≤ b.spb + b.sps + b.mbox
    let exists_ := a / 2 ^ 18 < 192 ∧ a % 2 ^ 18 < 0x30000
    let aligned := al = 0 ∨ a % al = 0
    let dual := dualAt b (a - b.spb)
    let trap := fun code cause => some (Leave.trap { code := code, cause := cause, addr := a })
    let ofType := fun t : Ty => match t with | .n32 => 1 | .s32 => 2 | .f32 => 3 | _ => 0
    (¬ exists_ → spadCheck c a n al use = trap 0x0D 0)
    ∧ (exists_ → ¬ inside → spadCheck c a n al use = trap 0x0D 1)
    ∧ (exists_ → inside → ¬ aligned → spadCheck c a n al use = trap 0x0A 0)
    ∧ (exists_ → inside → aligned →
        (dual ≠ none → (use = .single ∨ use = .barrier) → spadCheck c a n al use = trap 0x0E 0)
        ∧ ((use = .read ∨ use = .line) → spadCheck c a n al use = none)
        ∧ (dual = none → (use = .single ∨ use = .barrier) → spadCheck c a n al use = none)
        ∧ (∀ t, use = .next t → dual = none → spadCheck c a n al use = trap 0x0E 1)
        ∧ (∀ t e, use = .next t → dual = some e →
            (isMember c.s c.q (rgnTmx e.2) = false → spadCheck c a n al use = trap 0x0E 2)
            ∧ (isMember c.s c.q (rgnTmx e.2) = true → rgnRule e.2 = 1 → rgnStype e.2 ≠ ofType t → spadCheck c a n al use = trap 0x0E 3)
            ∧ (isMember c.s c.q (rgnTmx e.2) = true → (rgnRule e.2 ≠ 1 ∨ rgnStype e.2 = ofType t) → spadCheck c a n al use = none)))

/-- R203 to R205: the checks of a lane's global access, in their order: Address-Range for an address of 2^57 or more, Misaligned, then the
translation that a TLB of the core, the cluster or the die holds, else what a walk for the group has found; a write to a page that is not
writable faults. R253, orders 1 to 7: the checks of a scratchpad access of `n` bytes aligned to `al` (0 for none), in their order. Where the manual leaves a point open it states the model's choice: log 24 and 106. -/
def Obligations.AccessChecks : Prop := Parts.GlobalAccessChecks ∧ Parts.ScratchpadChecks

/-- R56, R65, R208 and R212: LD, LDNC, LDS and LDSN bind each byte at issue, from the lane's own buffered stores or from memory, and write the
elements, deferred. Bytes of a line that an event has set full are seen with all that the event carried. A lane that fails a check leaves. LDS stalls while a line that it reads is empty, and each of them while a committed effect of the lane on
the bytes that it reads, or an acquiring atomic of the lane (R63), is on its way. -/
def Parts.Loads : Prop :=
  ∀ (w : IW ModM) (s s1 : State) (r : Run) (m : SMap Word) (ps : List Pop),
    let h := hd w
    let c := cx s s1 h r m
    let k := (tyBytes w.mod.ty).getD 1
    let cnt := 2 ^ w.mod.cnt.toNat
    let d := opndReg w.dst
    let out := fun (c : Ctx1) (l : Nat) (sp : Space) (pa : Nat) =>
      let ws := loadRegs d k cnt fun i => loadByte c l sp (pa + i)
      ({ wx := ws, pend := ws.map fun e => (e.1, 1) } : LaneOut)
    let near := fun l => locally c (accAddr w c l) (k * cnt) (k * cnt) .read
      (out (lineCtx c (accAddr w c)) l .spad (presentKey (getB s1 (curG s).btag) (accAddr w c l - (getB s1 (curG s).btag).spb)))
    let full := ∀ l, Acting s h r l → spadCheck c (accAddr w c l) (k * cnt) (k * cnt) .read = none →
      lineEmpty s1 (spadKey (curG s).clu (accAddr w c l)) = false
    let settled := ∀ l, Acting s h r l → spadCheck c (accAddr w c l) (k * cnt) (k * cnt) .read = none →
      Settled c l 2 (presentKey (getB s1 (curG s).btag) (accAddr w c l - (getB s1 (curG s).btag).spb) % 2 ^ 26) (k * cnt)
    let lines := ∀ l, Acting s h r l → Settled c l 4 (accAddr w c l / 128) 1
    let there := ∀ l sp pa, Acting s h r l → globalAcc c (accAddr w c l) (k * cnt) .load = .ok sp pa → Settled c l (spaceNo sp) (placeAt sp pa) (k * cnt)
    let stalls := fun i => s1 = s → m = [] → exec i s = .next { s with stalled := true }
    let far := fun i => (∀ l, Acting s h r l → globalAcc c (accAddr w c l) (k * cnt) .load ≠ .wait) →
      (∀ l pa, Acting s h r l → globalAcc c (accAddr w c l) (k * cnt) .load = .ok .dev pa → poisonAt s1 .dev pa (k * cnt) = none) → there →
      Acts i h { na := if w.mod.pair then 2 else 1 } s s1 r m ps (fun l => globally c (accAddr w c l) (k * cnt) .load (out c l))
    let acq := ∃ l, Acting s h r l ∧ ∃ f ∈ s1.flight, f.g = s.cur ∧ f.lanes.getLsbD l = true ∧ f.ord = .acq
    d + cnt * (if k = 8 then 2 else 1) ≤ 64 → cpbsOwed s1 s.cur (acts s h r) = false →
      (acq → Issues s s h {} r [] [] → stalls (.lds w) ∧ stalls (.ldsn w))
      ∧ (acq → (∀ l, Acting s h r l → globalAcc c (accAddr w c l) (k * cnt) .load ≠ .wait) → Issues s s h { na := if w.mod.pair then 2 else 1 } r [] [] →
          stalls (.ld w) ∧ stalls (.ldnc w))
      ∧ (¬ acq → far (.ld w) ∧ far (.ldnc w) ∧ (settled → Acts (.ldsn w) h {} s s1 r m ps near)
      ∧ (full → settled → lines → Acts (.lds w) h {} s s1 r m ps near)
      ∧ (¬ (full ∧ settled ∧ lines) → Issues s s h {} r [] [] → stalls (.lds w)) ∧ (¬ settled → Issues s s h {} r [] [] → stalls (.ldsn w))
      ∧ ((∀ l, Acting s h r l → globalAcc c (accAddr w c l) (k * cnt) .load ≠ .wait) → ¬ there → Issues s s h { na := if w.mod.pair then 2 else 1 } r [] [] →
          stalls (.ld w) ∧ stalls (.ldnc w)))

/-- R209 and R212: ST, STS and STN buffer one store of the low bytes of their registers in each lane that passes its checks; no memory changes
until it is performed. -/
def Parts.Stores : Prop :=
  ∀ (w : IW ModM) (s s1 : State) (r : Run) (m : SMap Word) (ps : List Pop),
    let h := hd w
    let c := cx s s1 h r m
    let k := (tyBytes w.mod.ty).getD 1
    let cnt := 2 ^ w.mod.cnt.toNat
    let regs := cnt * (if k = 8 then 2 else 1)
    let a := accAddr w c
    let bytes := fun l => storedBytes c l (opndReg w.sb) k cnt
    let buffer := fun (l : Nat) (e : Eff) => ({ effs := [{ lanes := laneBit l, eff := e, ord := w.mod.ord, scope := w.mod.scope, off := r.off }] } : LaneOut)
    ((∀ l, Acting s h r l → globalAcc c (a l) (k * cnt) .store ≠ .wait) →
      Acts (.st w) h { na := if w.mod.pair then 2 else 1, nb := regs } s s1 r m ps fun l =>
        globally c (a l) (k * cnt) .store fun sp pa => buffer l (.store sp (a l) pa (bytes l)))
    ∧ Acts (.sts w) h { nb := regs } s s1 r m ps (fun l =>
        locally c (a l) (k * cnt) (k * cnt) .single (buffer l (.store .spad (a l) (spadKey (curG s).clu (a l)) (bytes l))))
    ∧ (∀ b : Fin 64, w.sb = .x b → w.mod.ty = .s32 ∨ w.mod.ty = .n32 ∨ w.mod.ty = .f32 → w.mod.ord = .none → w.mod.scope = .ln →
      Acts (.stn w) h { nb := regs } s s1 r m ps fun l =>
        locally c (a l) (k * cnt) (k * cnt) (.next w.mod.ty)
          (buffer l (.stn (a l) w.mod.ty ((List.range cnt).map fun e => rdX (curG s).work l (opndReg w.sb + e)))))

/-- R56, R65, R208 and R212: LD, LDNC, LDS and LDSN bind each byte at issue, from the lane's own buffered stores or from memory, and write the
elements, deferred. Bytes of a line that an event has set full are seen with all that the event carried. A lane that fails a check leaves. LDS stalls while a line that it reads is empty, and each of them while a committed effect of the lane on
the bytes that it reads, or an acquiring atomic of the lane (R63), is on its way. R209 and R212: ST, STS and STN buffer one store of the low bytes of their registers in each lane that passes its checks; no memory changes
until it is performed. Where the manual leaves a point open it states the model's choice: log 22. -/
def Obligations.LoadsAndStores : Prop := Parts.Loads ∧ Parts.Stores

/-- R213 to R215: ATM, CAS, ATMS and CASS buffer one atomic in each lane that passes its checks, and their destination waits for a return held
to commit. A host page refuses an operation that the link cannot carry (R483). -/
def Obligations.Atomics : Prop :=
  ∀ (w : IW ModM) (s s1 : State) (r : Run) (m : SMap Word) (ps : List Pop),
    let h := hd w
    let c := cx s s1 h r m
    let n := (tyBytes w.mod.ty).getD 4
    let two := w.mod.ty = .s64 ∨ w.mod.ty = .n64
    let k := if two then 2 else 1
    let a := accAddr w c
    let v := fun (l : Nat) (o : Opnd) => if two then (src64 c l o).toNat else (src c l o).toNat
    let tag := 256 * r.tno + r.off
    let op : AtOp := match w.mod.aop.toNat with | 0 => .add | 1 => .min | 2 => .max | 3 => .and | 4 => .or | 5 => .xor | _ => .exch
    let out := fun (op : AtOp) (l : Nat) (sp : Space) (pa : Nat) =>
      ({ pend := (opndRegs w.dst k).map fun d => (d, 4 * tag + 2)
         effs := [{ lanes := laneBit l, eff := .atom sp (a l) pa op w.mod.ty (v l w.sb) (v l w.sc) (64 * tag + opndReg w.dst)
                    ord := w.mod.ord, scope := w.mod.scope, off := r.off }] } : LaneOut)
    let linked := fun op : AtOp => s1.regs.hcfg.getLsbD 0 = true ∧ (op = .exch ∨ op = .cas ∨ (op = .add ∧ w.mod.ty ≠ .f32))
    let far := fun (op : AtOp) (l : Nat) => globally c (a l) n .atomic fun sp pa =>
      if sp = .host ∧ ¬ linked op then trapped r 0x09 1 (a l) else out op l sp pa
    let near := fun (op : AtOp) (l : Nat) => locally c (a l) n n .single (out op l .spad (spadKey (curG s).clu (a l)))
    let na := if w.mod.pair then 2 else 1
    (∀ d ∈ opndRegs w.dst k, d < 64) →
      ((∀ l, Acting s h r l → globalAcc c (a l) n .atomic ≠ .wait) →
        Acts (.atm w) h { na := na, nb := k } s s1 r m ps (far op) ∧ Acts (.cas w) h { na := na, nb := k, nc := k } s s1 r m ps (far .cas))
      ∧ Acts (.atms w) h { nb := k } s s1 r m ps (near op) ∧ Acts (.cass w) h { nb := k, nc := k } s s1 r m ps (near .cas)


/-- R216 to R222: FNC asks for its fence in the lanes that act; SEAL and UNSL, at a uniform address and length, buffer one effect for the path, where popped addresses that differ raise Uniformity, and
their status waits for a return held to commit; PRF does nothing but walk for addresses that no TLB holds and
read the line of those that one does. Where the manual leaves a point open it states the model's choice: log 31 and 39. -/
def Obligations.FenceSealPrefetch : Prop :=
  (∀ (w : IW ModS) (s s1 : State) (r : Run) (m : SMap Word) (ps : List Pop),
    Acts (.fnc w) (hd w) { na := 0 } s s1 r m ps (fun _ => {}) (sync := some ⟨acts s (hd w) r, 0, .fence w.mod.ord w.mod.scope⟩))
  ∧ ∀ (w : IW ModM) (s s1 : State) (r : Run) (m : SMap Word) (ps : List Pop),
    let h := hd w
    let c := cx s s1 h r m
    let na := if w.mod.pair then 2 else 1
    let first := ((List.range 32).find? fun l => (acts s h r).getLsbD l).getD 0
    let a := accAddr w c
    let agree := ∀ l j, Acting s h r l → Acting s h r j →
      a l = a j ∧ (∀ k ∈ opndRegs w.sa na ++ opndRegs w.sb 1, rdX (curG s).work l k = rdX (curG s).work j k)
    let tag := 256 * r.tno + r.off
    let out := fun l => if 2 ^ 57 ≤ a l then trapped r 0x09 0 (a l) else ({ pend := (opndRegs w.dst 1).map fun d => (d, 4 * tag + 2) } : LaneOut)
    let freeze := fun (i : Instr) (undo : Bool) => agree → Acts i h { na := na, nb := 1 } s s1 r m ps out (whole := true)
      (once := onePath s h r out (.seal undo (a first) (src c first w.sb).toNat (64 * tag + opndReg w.dst)))
    let differ := fun (i : Instr) => (∃ l j, Acting s h r l ∧ Acting s h r j ∧ a l ≠ a j) →
      (∀ l j, Acting s h r l → Acting s h r j → ∀ k ∈ opndRegs w.sa na ++ opndRegs w.sb 1, rdX (curG s).work l k = rdX (curG s).work j k) →
      Issues s s1 h { na := na, nb := 1 } r m ps → Room s h r (fun _ => {}) true →
        ∃ t x, exec i s = .next t ∧ SameMem s1 t ∧ (curG t).run = some x ∧ x.exm = 0 ∧ x.ended = true ∧ ∀ l, l < 32 → sget none x.leaves l =
          if r.exm.getLsbD l then some (.trap { code := 4, off := r.off, word := r.words.getD r.off 0 }) else sget none r.leaves l
    ((∀ d ∈ opndRegs w.dst 1, d < 64) → freeze (.seal w) false ∧ freeze (.unsl w) true)
    ∧ ((∃ k, w.sa = .q k) → differ (.seal w) ∧ differ (.unsl w))
    ∧ (Issues s s1 h { na := na } r m ps →
        ∃ t u, exec (.prf w) s = .next t ∧ Did s u h { na := na } r (fun _ => {}) [] r.sync ps ∧ Quiet s1 u
          ∧ t = { u with walks := t.walks, banks := t.banks, cached := t.cached, free := t.free }
          ∧ (∀ x ∈ u.walks, x ∈ t.walks)
          ∧ ∀ l, Acting s h r l → a l < 2 ^ 57 → (curG s).prof ≠ .mgmt → tlbFind s1 (curG s).clu (curG s).core (curG s).ctx (a l) = none →
              (a l / 16384, false) ∉ (curG s).walkFault →
              ∃ x ∈ t.walks, x.clu = (curG s).clu ∧ x.core = (curG s).core ∧ x.ctx = (curG s).ctx ∧ x.va / 16384 = a l / 16384 ∧ x.g = none ∧ x.wr = false)

/-- R223 to R226 at issue: GATH reads, for the acting lanes whose bit of the starting mask is clear, an element that arrives later at a
scoreboarded register, and binds its slot; SCAT buffers one element a lane. A slot that is bound, or named before in the trace, raises
Uniformity. Where the manual leaves a point open it states the model's choice: log 31. -/
def Obligations.GatherScatter : Prop :=
  ∀ (w : IW ModG) (s s1 : State) (r : Run) (m : SMap Word) (ps : List Pop),
    let h := hd w
    let c := cx s s1 h r m
    let n := (tyBytes w.mod.ty).getD 4
    let k := if w.mod.ty = .s64 ∨ w.mod.ty = .n64 then 2 else 1
    let slot := w.mod.slot.val
    let cpb := sget ({} : Cpb) (curG s).cpb slot
    let start : Word := if cpb.st = .preset then cpb.val else 0
    let free := cpb.st ≠ .bound ∧ slot ∉ r.slots
    let ix := fun l => let b := src c l w.sb; if w.mod.opx.getLsbD 0 then b.signExtend 64 else b.setWidth 64
    let a := fun l => (src64 c l w.sa + ix l * BitVec.ofNat 64 n + if w.sb = .imm then 0 else w.imm).toNat
    let wants := fun l => !start.getLsbD l
    let tag := 256 * r.tno + r.off
    let got := fun l => if wants l then globally c (a l) n .gath fun sp pa =>
        { pend := (opndRegs w.dst k).map fun d => (d, 4 * tag + 3)
          sbw := (loadRegs (64 * tag + opndReg w.dst) n 1 fun i => loadByte c l sp (pa + i)).map fun e => (0, slot, l, e.1, e.2) }
      else {}
    let put := fun l => globally c (a l) n .scat fun sp pa =>
      { effs := [{ lanes := laneBit l, eff := .scat sp (a l) pa (storedBytes c l (opndReg w.sc) n 1) slot
                   ord := if w.mod.scope = .ln then .none else .rel, scope := w.mod.scope, off := r.off }] }
    let mask := start ||| ~~~(acts s h r)
    (free → (∀ d ∈ opndRegs w.dst k, d < 64) → cpbsOwed s1 s.cur (acts s h r) = false → acqOwed s1 s.cur (acts s h r) = false → debugged s1 (curG s) = false →
      (∀ l, Acting s h r l → wants l = true → globalAcc c (a l) n .gath ≠ .wait) →
      (∀ l sp pa, Acting s h r l → wants l = true → globalAcc c (a l) n .gath = .ok sp pa → Settled c l (spaceNo sp) (placeAt sp pa) n) →
      (∀ l pa, Acting s h r l → globalAcc c (a l) n .gath = .ok .dev pa → poisonAt s1 .dev pa n = none) →
      Issues s s1 h { na := 2, nb := 1 } r m ps →
        ∃ t u, exec (.gath w) s = .next t ∧ Did s u h { na := 2, nb := 1 } r got [] r.sync ps ∧ SameMem s1 u
          ∧ t = { updG u s.cur (fun q => { q with
              cpb := sset {} q.cpb slot { val := mask, st := if mask = 0xFFFFFFFF#32 then .done else .bound }
              elems := q.elems ++ ((List.range 32).filter fun l => (acts s h r).getLsbD l && wants l && q.sbw.any fun x => x.2.1 = slot && x.2.2.1 = l).map
                fun l => { slot := slot, lane := l, va := a l, n := n, dst := 64 * tag + opndReg w.dst }
              run := q.run.map fun x => { x with
                slots := slot :: x.slots
                gath := (slot, match cpb.st with | .done => 0 | .preset => 1 | .bound => 2, cpb.val) :: x.gath } }) with stale := t.stale, free := t.free })
    ∧ (free → debugged s1 (curG s) = false → (∀ l, Acting s h r l → globalAcc c (a l) n .scat ≠ .wait) → Room s h r put false →
      Issues s s1 h { na := 2, nb := 1, nc := k } r m ps →
        ∃ t u, exec (.scat w) s = .next t ∧ Did s u h { na := 2, nb := 1, nc := k } r put [] r.sync ps ∧ SameMem s1 u
          ∧ t = updG u s.cur fun q => { q with run := q.run.map fun x => { x with slots := slot :: x.slots, scats := slot :: x.scats } })
    ∧ (¬ free →
        (Issues s s h { na := 2, nb := 1 } r [] [] → PathTraps (.gath w) s r 4)
        ∧ (Issues s s h { na := 2, nb := 1, nc := k } r [] [] → PathTraps (.scat w) s r 4))

/-- R255 and R256: FSET and FCLR buffer one effect on the line of a lane's address, FSET as a release at cluster scope; FTST reads the line's
bit, deferred. -/
def Obligations.FullEmptyBits : Prop :=
  ∀ (w : IW ModM) (s s1 : State) (r : Run) (m : SMap Word) (ps : List Pop),
    let h := hd w
    let c := cx s s1 h r m
    let a := accAddr w c
    let set := fun (full : Bool) (ord : Ord2) (scope : Scope) (l : Nat) => locally c (a l) 1 0 .line
      { effs := [{ lanes := laneBit l, eff := .line (a l) full, ord := ord, scope := scope, off := r.off }] }
    Acts (.fset w) h {} s s1 r m ps (set true .rel .clu) ∧ Acts (.fclr w) h {} s s1 r m ps (set false .none .ln)
    ∧ (cpbsOwed s1 s.cur (acts s h r) = false → acqOwed s1 s.cur (acts s h r) = false → (∀ l, Acting s h r l → Settled c l 4 (a l / 128) 1) → Acts (.ftst w) h {} s s1 r m ps fun l => locally c (a l) 1 0 .line
        { wx := [(opndReg w.dst, if lineEmpty s1 (spadKey (curG s).clu (a l)) then 0 else 1)], pend := [(opndReg w.dst, 1)] })


/-! ### Teams, steps, barriers, launch, rings and system registers -/

/-- R121, R253, R263, R265, R267 and R269 at issue: RGN, TEAM, STEP and STEPQ take a uniform slot; a slot above 3, or an empty one where a team
is needed, traps; RGN and TEAM buffer one effect for the path with a status held to commit, STEP asks to wait at its team, and
STEPQ reads the team's counters, deferred. Where the manual leaves a point open it states the model's choice: log 31. -/
def Obligations.RegionsTeamsSteps : Prop :=
  ∀ (w : IW ModS) (s s1 : State) (r : Run) (m : SMap Word) (ps : List Pop), (∀ k, w.sa ≠ .q k) →
    let h := hd w
    let c := cx s s1 h r m
    let na := if w.sa = .imm then 0 else 1
    let slot := fun l => if w.sa = .imm then w.imm.toNat % 4 else (src c l w.sa).toNat
    let team := fun l => sget 0 (curG s).team (slot l)
    let slotted := fun (l : Nat) (needs : Bool) (o : LaneOut) =>
      if 3 < slot l then trapped r 0x0E 5 0 else if needs ∧ team l = 0 then trapped r 0x0E 4 0 else o
    let f := firstActing s h r
    let dst := 64 * tagHere r + opndReg w.dst
    let ok := Agree s h r (opndRegs w.sa 1) ∧ ∀ d ∈ opndRegs w.dst 1, d < 64
    let t := fun l => getT s1 (tkey (curG s).clu (team l % 256))
    let rgn := fun l => if (src c l w.sc).getLsbD 26 then slotted l false (holds r w.dst) else holds r w.dst
    let tm := fun l => slotted l false (holds r w.dst)
    (ok → Agree s h r (opndRegs w.sb 1) → Agree s h r (opndRegs w.sc 1) →
      Acts (.rgn w) h { na := na, nb := 1, nc := 1 } s s1 r m ps rgn (whole := true)
        (once := onePath s h r rgn (.rgn (slot f) (src c f w.sb) (src c f w.sc) dst)))
    ∧ (ok → Agree s h r (opndRegs w.sb 1) →
      Acts (.team w) h { na := na, nb := 1 } s s1 r m ps tm (whole := true) (once := onePath s h r tm (.team (slot f) (src c f w.sb) dst)))
    ∧ (ok → Acts (.step w) h { na := na } s s1 r m ps (fun l => slotted l true {})
        (sync := some ⟨acts s h r, slot f, .step 0 r.tix r.off (r.words.getD r.off 0)⟩))
    ∧ (ok → acqOwed s1 s.cur (acts s h r) = false → Acts (.stepq w) h { na := na } s s1 r m ps fun l => slotted l true
        { wx := [(opndReg w.dst, BitVec.ofNat 32 (if w.mod.sub = 0 then (t l).steps else if w.mod.sub = 1 then (t l).narr else (t l).nlive))]
          pend := [(opndReg w.dst, 1)] })

/-- R253 orders 8 and 9, and R271 to R276, at issue: BARI, BARA, BARW, BARX and BARQ on the 16-byte object at a uniform address;
BARQ reads it as a load does (R90). Where the manual leaves a point open it states the model's choice: log 31, 39 and 106. -/
def Obligations.Barriers : Prop :=
  ∀ (w : IW ModS) (s s1 : State) (r : Run) (m : SMap Word) (ps : List Pop), (∀ k, w.sa ≠ .q k) →
    let h := hd w
    let c := cx s s1 h r m
    let na := if w.sa = .imm then 0 else 1
    let a := fun l => (src c l w.sb).toNat
    let obj := fun l => leNat (memRead s1.spad (spadKey (curG s).clu (a l)) 16)
    let bar := fun (l : Nat) (arrives : Bool) (o : LaneOut) => locally c (a l) 16 16 .barrier (
      if field (obj l) 81 81 = 0 ∨ field (obj l) 80 48 ≠ 0 ∨ 1024 < field (obj l) 111 101 then trapped r 0x0D 2 (a l)
      else if arrives ∧ isMember s1 (curG s) (field (obj l) 89 82) = false then trapped r 0x0D 3 (a l) else o)
    let slot := fun l => if w.sa = .imm then w.imm.toNat % 4 else (src c l w.sa).toNat
    let exp := fun l => if w.mod.sub = 0 then (src c l w.sc).toNat else 0
    let new := fun l => locally c (a l) 16 16 .barrier (
      if 3 < slot l then trapped r 0x0E 5 0 else if sget 0 (curG s).team (slot l) = 0 then trapped r 0x0E 4 0
      else if w.mod.sub = 0 ∧ (exp l = 0 ∨ 1024 < exp l) then trapped r 0x0D 2 (a l) else {})
    let f := firstActing s h r
    let dst := 64 * tagHere r + opndReg w.dst
    let x := fun l => bar l false {}
    let read := fun l => leNat ((List.range 16).map fun i => loadByte (lineCtx c a) l .spad (spadKey (curG s).clu (a l) + i))
    let q := fun l => match w.mod.sub.toNat with
      | 0 => BitVec.ofNat 32 (field (read l) 127 112)
      | 1 => BitVec.ofNat 32 (field (read l) 100 90)
      | 2 => BitVec.ofNat 32 (field (read l) 111 101)
      | 3 => BitVec.ofNat 32 (field (read l) 31 0)
      | _ => (BitVec.ofNat 16 (field (read l) 47 32)).signExtend 32
    let settled := acqOwed s1 s.cur (acts s h r) = false ∧ ∀ l, Acting s h r l → Settled c l 2 (a l) 16
    Agree s h r (opndRegs w.sb 1) → (∀ d ∈ opndRegs w.dst 1, d < 64) →
      (Agree s h r (opndRegs w.sa 1) → (w.mod.sub = 0 → Agree s h r (opndRegs w.sc 1)) →
        Acts (.bari w) h { na := na, nb := 1, nc := if w.mod.sub = 0 then 1 else 0 } s s1 r m ps new (whole := true)
          (once := onePath s h r new (.bari (a f) (slot f) (exp f))))
      ∧ (settled → Acts (.bara w) h { na := 0, nb := 1 } s s1 r m ps (fun l => bar l true (holds r w.dst)) (sync := some ⟨acts s h r, 0, .barArrive (a f) dst false⟩))
      ∧ (settled → w.mod.sub = 1 → Acts (.barw w) h { na := 0, nb := 1 } s s1 r m ps (fun l => bar l true (holds r w.dst))
          (sync := some ⟨acts s h r, 0, .barArrive (a f) dst true⟩))
      ∧ (settled → w.mod.sub ≠ 1 → Agree s h r (opndRegs w.sc 1) → Acts (.barw w) h { na := 0, nb := 1, nc := 1 } s s1 r m ps (fun l => bar l false {})
          (sync := some ⟨acts s h r, 0, .barWait (a f) ((src c f w.sc).toNat % 65536) none⟩))
      ∧ (settled → Agree s h r (opndRegs w.sa 1) → Acts (.barx w) h { na := na, nb := 1 } s s1 r m ps x (whole := true)
          (once := onePath s h r x (.barx (a f) (src c f w.sa).toNat)))
      ∧ (settled → Acts (.barq w) h { na := 0, nb := 1 } s s1 r m ps (fun l => bar l false { wx := [(opndReg w.dst, q l)], pend := [(opndReg w.dst, 1)] }))

/-- R404 to R408 and R411 to R416 at issue: FWK, EMIT and SGNL ask for their synchronising effects; PRIO, GOVH and the ring instructions buffer
theirs; a ring header that is not valid, a record that is not of the ring, and a length out of range trap. Where the manual leaves a point open it states the model's choice: log 31, 39 and 102. -/
def Obligations.LaunchRingsGovernor : Prop :=
  ∀ (w : IW ModS) (s s1 : State) (r : Run) (m : SMap Word) (ps : List Pop), (∀ k, w.sa ≠ .q k) →
    let h := hd w
    let c := cx s s1 h r m
    let b := getB s1 (curG s).btag
    let na := if w.sa = .imm then 0 else 1
    let a := fun l => (src c l w.sb).toNat
    let f := firstActing s h r
    let dst := 64 * tagHere r + opndReg w.dst
    let effect := fun (l : Nat) (e : Eff) => ({ effs := [{ lanes := laneBit l, eff := e, off := r.off }] } : LaneOut)
    let node := w.imm.toNat % 4096
    let size := ((findNode (getC s1 b.ctx) (b.node / 4096 * 4096 + node)).map Node.record).getD 0
    let cap := fun l => (src c l w.sc).toNat
    let p := fun l => (src64 c l w.sb).toNat
    let hdr := fun l => ringHdr s1 b (a l)
    let ring := fun (l : Nat) (kind : Option Bool) (o : LaneOut) => locally c (a l) 64 64 .read (
      if (hdr l).v = false ∨ (hdr l).bad = true ∨ (∃ k, kind = some k ∧ (hdr l).byteRing ≠ k) then trapped r 0x0D 6 (a l) else o)
    let len := fun l => (src c l w.sa).toNat
    let put := fun (pad : Bool) (l : Nat) =>
      let at_ := if pad then len l - 1 else len l
      locally c (a l) 64 64 .read (match spadRange b at_ 8 with
        | some cause => trapped r 0x0D cause (len l)
        | none =>
          if (hdr l).v = false ∨ (hdr l).bad = true then trapped r 0x0D 6 (a l)
          else if (len l % 2 = 1) ≠ (pad = true) ∨ ringHas s1 b (curG s).btag (a l) at_ (if pad then 3 else 1) = false then trapped r 0x0D 7 (len l)
          else { effs := [{ lanes := laneBit l, eff := .rput (a l) at_ pad, ord := .rel, scope := .clu, off := r.off }] })
    let byteRing := w.mod.sub = 1
    let header := acqOwed s1 s.cur (acts s h r) = false ∧ ∀ l, Acting s h r l → Settled c l 2 (a l) 64
    let record := ∀ l, Acting s h r l → Settled c l 2 (len l / 2 * 2 - 8) 8
    let table := { b with mbox := 0 }
    let ngrp := leNat (memRead s1.spad (spadKey (curG s).clu (a f + 4)) 4)
    let gov := fun l =>
      if w.mod.sub = 0 then
        match (spadRange table (a l) 0x90).or (spadRange table (a l) (0x90 + min 1024 ngrp)) with
        | some cause => trapped r 0x0D cause (a l)
        | none => {}
      else ({} : LaneOut)
    (∀ d ∈ opndRegs w.dst 1, d < 64) →
      (Agree s h r (opndRegs w.sb 1) → Agree s h r (opndRegs w.sc 1) →
        Acts (.fwk w) h { na := 0, nb := 1, nc := 1 } s s1 r m ps (fun l => locally c (a l) (max (cap l) 1) 128 .read {})
          (sync := some ⟨acts s h r, 0, .fwk node (a f) (cap f)⟩))
      ∧ Acts (.emit w) h { na := 0, nb := 1 } s s1 r m ps (fun l => locally c (a l) size 16 .read (effect l (.emit (a l))))
          (sync := some ⟨acts s h r, 0, .emit node⟩)
      ∧ (Agree s h r (opndRegs w.sa 1 ++ opndRegs w.sb 2) → (∀ l, Acting s h r l → globalAcc c (p l) 16 .atomic ≠ .wait) →
        Acts (.sgnl w) h { na := na, nb := 2 } s s1 r m ps (fun l => globally c (p l) 16 .atomic fun _ _ => {})
          (sync := match globalAcc c (p f) 16 .atomic with
            | .ok sp pa => some ⟨acts s h r, 0, .sgnl sp pa (len f) (w.mod.sub = 1) w.mod.scope⟩
            | _ => some ⟨acts s h r, 0, .none⟩))
      ∧ (Agree s h r (opndRegs w.sa 1) → Acts (.prio w) h { na := na } s s1 r m ps (fun _ => holds r w.dst) (whole := true)
          (once := onePath s h r (fun _ => holds r w.dst) (.prio (src c f w.sa) dst)))
      ∧ (Agree s h r (opndRegs w.sb 1) → header →
        Acts (.rtkt w) h { na := if byteRing then na else 0, nb := 1 } s s1 r m ps (fun l => ring l (some byteRing) (
            if byteRing ∧ (len l = 0 ∨ (hdr l).cap / 2 < 16 * ((8 + len l + 15) / 16)) then trapped r 0x0D 7 (a l)
            else { holds r w.dst with effs := (effect l (.rtkt (a l) byteRing (len l) dst)).effs }))
        ∧ (record → Acts (.rput w) h { nb := 1 } s s1 r m ps (put false) ∧ Acts (.rskp w) h { nb := 1 } s s1 r m ps (put true)))
      ∧ (w.mod.sub ≠ 1 → Agree s h r (opndRegs w.sb 1) → header → Acts (.qbnd w) h { na := 0, nb := 1 } s s1 r m ps fun l =>
          ring l none (effect l (.qbnd (w.imm.toNat % 4) (some (a l - b.spb)))))
      ∧ (w.mod.sub = 1 → acqOwed s1 s.cur (acts s h r) = false → Acts (.qbnd w) h { na := 0 } s s1 r m ps fun l => effect l (.qbnd (w.imm.toNat % 4) none))
      ∧ ((w.mod.sub = 0 → Agree s h r (opndRegs w.sb 1)) →
        Acts (.govh w) h { na := 0, nb := if w.mod.sub = 0 then 1 else 0 } s s1 r m ps gov (whole := true)
          (once := onePath s h r gov (.govh w.mod.sub.toNat (a f))))

/-- R102 and R154 to R157: RDSR answers the register that IMM names, CLOCK setting the latch of each acting lane; WRSR buffers one write for the
path; TIME answers a time base that has moved on; PERF answers a counter of the group. Where the manual leaves a point open it states the model's choice: log 4 and 31. -/
def Obligations.SystemRegisters : Prop :=
  ∀ (w : IW ModS) (s s1 : State) (r : Run) (m : SMap Word) (ps : List Pop),
    let h := hd w
    let q := curG s
    let b := getB s1 q.btag
    let n := w.imm.toNat % 4096
    let clock := sget 0 s1.clock q.clu
    let team := fun k => BitVec.ofNat 32 (sget 0 q.team k)
    let val := fun l : Nat =>
      if n = 0x000 then BitVec.ofNat 32 l else if n = 0x001 then BitVec.ofNat 32 q.gnum else if n = 0x002 then r.exm
      else if n = 0x003 then BitVec.ofNat 32 r.path else if n = 0x004 then BitVec.ofNat 32 r.tix else if n = 0x005 then q.live
      else if 0x008 ≤ n ∧ n ≤ 0x00B then team (n - 8)
      else if n = 0x010 then clock.extractLsb' 0 32 else if n = 0x011 then (sget 0 q.work.clk l).extractLsb' 32 32
      else if n = 0x012 then BitVec.ofNat 32 b.spb else if n = 0x013 then BitVec.ofNat 32 b.sps else if n = 0x014 then BitVec.ofNat 32 (b.spb + b.sps)
      else if n = 0x015 then BitVec.ofNat 32 (sget [] q.link l).length
      else if n = 0x016 then BitVec.ofNat 32 q.core else if n = 0x017 then BitVec.ofNat 32 q.clu else if n = 0x018 then BitVec.ofNat 32 q.trk
      else (sget ({} : Cpb) q.cpb (n - 0x20)).val
    let listed := n ≤ 5 ∨ (8 ≤ n ∧ n ≤ 0x0B) ∨ (0x10 ≤ n ∧ n ≤ 0x18) ∨ (0x20 ≤ n ∧ n ≤ 0x27)
    let uniform := w.u = true → (n = 0 ∨ n = 0x015) → ∀ l j, Acting s h r l → Acting s h r j → val l = val j
    (listed → uniform → Issues s s1 h { na := 0 } r m ps →
      ∃ u, exec (.rdsr w) s = .next (if n = 0x010 then updG u s.cur fun q => { q with work := { q.work with
              clk := (lanesOf (acts s h r)).foldl (fun m l => sset 0 m l clock) q.work.clk } } else u)
        ∧ Did s u h { na := 0 } r (fun l => dstX w.dst (val l)) [] r.sync ps ∧ Quiet s1 u)
    ∧ (listed → ¬ uniform → Issues s s h { na := 0 } r [] [] → s1 = s → PathTraps (.rdsr w) s r 4)
    ∧ (Agree s h r (opndRegs w.sa 1) → 0x20 ≤ n → n ≤ 0x27 →
      Acts (.wrsr w) h {} s s1 r m ps (fun _ => {})
        (once := onePath s h r (fun _ => {}) (.wrsr (n - 0x20) (src (cx s s1 h r m) (firstActing s h r) w.sa))))
    ∧ (opndReg w.dst + 1 < 64 → qOpnd h = none → Issues s s1 h { na := 0 } r m ps → ∃ (u t : State) (k : Nat),
        u = { s with time := s.time + BitVec.ofNat 64 k, free := s.free + 1 } ∧ exec (.time w) s = .next t
        ∧ Did u t h { na := 0 } r (fun _ => dst64 w.dst u.time) [] r.sync ps ∧ Quiet u t)
    ∧ (Does (.perf w) h { na := 0 } s s1 r m ps fun _ => dstX w.dst (sget 0 q.perf (w.imm.toNat % 256)))

/-! ### Copies -/

/-- R297, R301 and R315: the causes of Copy-Handle in their order, what makes a tile descriptor invalid, and the causes of Copy-Bounds. -/
def Parts.CopyChecks : Prop :=
  (∀ (s : State) (ctx h : Nat) (u : HUse), h < 2 ^ 32 →
    let e := hEntry s ctx (h % 2 ^ 20)
    let raw := leNat (memRead s.dmem ((getC s ctx).htab + 32 * (h % 2 ^ 20)) 32)
    let gone := (getC s ctx).nh ≤ h % 2 ^ 20 ∨ raw.testBit 131 = false ∨ field raw 195 192 ≠ 0 ∨ field raw 63 22 ≠ 0 ∨ 2 < field raw 198 196
    let revoked := h / 2 ^ 20 = 0 ∨ h / 2 ^ 20 ≠ field raw 143 132
    let inside := ∀ iv ∈ u.ivs, iv.1 + iv.2 ≤ field raw 191 144
    let shadow := raw.testBit 128 = true
    let isOpen := shadow ∧ (field raw 21 20 = 1 ∨ field raw 21 20 = 2)
    (gone → hCheck s ctx h u = some 0)
    ∧ (¬ gone → revoked → hCheck s ctx h u = some 1)
    ∧ (¬ gone → ¬ revoked → (u.rd = true ∧ raw.testBit 129 = false ∨ u.wr = true ∧ raw.testBit 130 = false) → hCheck s ctx h u = some 2)
    ∧ (¬ gone → ¬ revoked → ¬ shadow → u.rd = true → (∃ iv ∈ u.ivs, ∃ p ∈ e.touched iv, isPeer (plistAt s e.plist p) = true) → hCheck s ctx h u = some 2)
    ∧ (¬ gone → ¬ revoked → ¬ shadow → u.wr = true →
        (∃ iv ∈ u.ivs, ∃ p ∈ e.touched iv, codePage s (plistAt s e.plist p) (pszBytes e.psz) = true) → hCheck s ctx h u = some 2)
    ∧ (¬ gone → ¬ revoked → (u.rd = true → raw.testBit 129 = true) → (u.wr = true → raw.testBit 130 = true) →
        (¬ shadow → ∀ iv ∈ u.ivs, ∀ p ∈ e.touched iv, (u.rd = true → isPeer (plistAt s e.plist p) = false)
          ∧ (u.wr = true → codePage s (plistAt s e.plist p) (pszBytes e.psz) = false)) →
        hCheck s ctx h u = if ¬ inside then some 3 else if u.descBad then some 4
          else if (shadow ∨ u.mustShadow = true) ∧ ¬ isOpen then some 5 else none))
  ∧ (∀ d fmt : Nat, d < 2 ^ 128 → fmt < 16 →
    let kind := field d 74 73
    let rows := field d 79 75 + 1
    let gp := field d 127 96
    let dp := field d 95 80
    let nb := if kind = 0 then 4 else if kind = 1 then 2 else 8
    (descBad fmt d = false ↔ kind ≠ 3 ∧ field d 72 48 = 0 ∧
      (fmt = 0 ∧ 128 ≤ gp ∧ 8 ≤ dp ∨ fmt = 1 ∧ 128 ≤ gp ∧ 9 ≤ dp ∨ fmt = 2 ∧ 128 + nb ≤ gp ∧ 9 ≤ dp
        ∨ 3 ≤ fmt ∧ kind ≠ 2 ∧ rows * (if kind = 0 then 1 else 2) ≤ gp ∧ 8 ≤ dp)))
  ∧ (∀ (b : Batch) (a n : Nat) (dest : Bool), a < 2 ^ 32 →
    let field_ := 192 ≤ a / 2 ^ 18 % 256 ∨ 0x30000 ≤ a % 2 ^ 18 ∨ 2 ^ 26 ≤ a
    let inside := b.spb ≤ a ∧ a + n ≤ b.spb + b.sps
    let dual := ∃ e ∈ b.regions, rgnEn e.2 = true ∧ rgnDual e.2 = true ∧ rgnBase e.2 * 128 < a - b.spb + n ∧ a - b.spb < (rgnBase e.2 + rgnSize e.2) * 128
    boundsCheck b a n dest = if field_ ∨ dest = true ∧ ¬ inside then some 0 else if dest = true ∧ dual then some 1 else if ¬ inside then some 2 else none)

/-- R303, R305, R306, R308 to R310, R312 and R313 at issue: each copy instruction checks its operands in the rule's order; a lane that fails leaves;
CPL, CPLG and CPX buffer a copy for each lane, CPT and CPO one for the path, which names its slot, and where the slot is bound or named
already raise Uniformity; CPX and CPBS make their destinations
scoreboarded, SHOP's waits for a return held to commit, and CPQ's is deferred; PUB asks for its synchronising effect. Where the manual leaves a point open it states the model's choice: log 26, 31, 50 and 108. -/
def Obligations.CopiesAtIssue : Prop :=
  ∀ (w : IW ModC) (s s1 : State) (r : Run) (m : SMap Word) (ps : List Pop), (∀ k, w.sa ≠ .q k) → (∀ k, w.sc ≠ .q k) →
    let h := hd w
    let c := cx s s1 h r m
    let q := curG s
    let b := getB s1 q.btag
    let entry := fun l => hEntry s1 q.ctx (hIdx (src c l w.sa).toNat)
    let hnd := fun l => (src c l w.sa).toNat
    let x := fun l => (src c l w.dst).toNat
    let g := fun l => w.imm.toNat % 2 ^ 48 + (src c l w.sb).toNat
    let bar := fun l => if w.mod.bcnt then some (src c l w.sc).toNat else none
    let nc := if w.mod.bcnt then 1 else 0
    let n := 4 * 2 ^ (w.mod.sub.toNat % 4)
    let tag := 64 * tagHere r
    let put := fun (l : Nat) (e : Eff) => ({ effs := [{ lanes := laneBit l, eff := e, off := r.off }] } : LaneOut)
    let handled := fun (l : Nat) (u : HUse) (o : LaneOut) => match hCheck s1 q.ctx (hnd l) u with | some k => trapped r 0x10 k (hnd l) | none => o
    let bounded := fun (a n : Nat) (dest : Bool) (o : LaneOut) => match boundsCheck b a n dest with | some k => trapped r 0x11 k a | none => o
    let lane := fun (kind : CopyKind) (l : Nat) => counting c (bar l) (handled l { rd := kind = .cpl, wr := kind = .cplg, ivs := [(g l, n)] } (
      if x l % n ≠ 0 then trapped r 0x0A 0 (x l) else if g l % n ≠ 0 then trapped r 0x0A 0 ((entry l).vbase + g l)
      else bounded (x l) n (kind = .cpl) (put l (.copy (CopyReq.bind { kind := kind, lane := l, saddr := x l, goff := g l, len := n, bar := bar l }
        s1 q.ctx (hnd l) [(g l, n)])))))
    let regs := fun l (o : LaneOut) => { o with pend := (opndRegs w.dst (n / 4)).map fun k => (k, 4 * tagHere r + 3) }
    let taking := fun l => w.mod.sub.getLsbD 3 = false ∨ (src c l w.sc).getLsbD l = true
    let near := fun l => if taking l then
        match spadRange b (src c l w.sa).toNat n with
          | some k => trapped r 0x0D k (src c l w.sa).toNat
          | none => if (src c l w.sa).toNat % n ≠ 0 then trapped r 0x0A 0 (src c l w.sa).toNat else regs l (put l (.copy { kind := .cpx, lane := l, saddr := (src c l w.sa).toNat, len := n, dst := tag + opndReg w.dst }))
      else {}
    let far := fun l => if taking l then
        if g l % n ≠ 0 then trapped r 0x0A 0 ((entry l).vbase + g l)
        else handled l { rd := true, ivs := [(g l, n)] } (regs l (put l (.copy (CopyReq.bind { kind := .cpx, lane := l, goff := g l, len := n, dst := tag + opndReg w.dst } s1 q.ctx (hnd l) [(g l, n)]))))
      else {}
    let f := firstActing s h r
    let d := fun l => ((List.range 4).map fun i => (rdX q.work l (opndReg w.sb + i)).toNat * 2 ^ (32 * i)).sum
    let fmt := w.mod.sub.toNat
    let rows := fun l => List.range (field (d l) 79 75 + 1)
    let ivs := fun l => if descBad fmt (d l) then [] else ((rows l).map fun r => (tileSegs fmt (d l) r).map fun e => (e.1, e.2.2)).flatten
    let scales := fun l => if fmt = 1 ∨ fmt = 2 then (match field (d l) 74 73 with | 0 => 4 | 1 => 2 | _ => 8) else 0
    let at_ := fun l i => x l + i * (field (d l) 95 80 * 16)
    let tile := fun (kind : CopyKind) (l : Nat) (o : LaneOut) =>
      handled l { rd := kind = .cpt, wr := kind = .cpo, ivs := ivs l, descBad := descBad fmt (d l) } (
        if x l % 16 ≠ 0 then trapped r 0x0A 0 (x l)
        else match [0, 1, 2].find? fun k => (rows l).any fun i => boundsCheck b (at_ l i) (128 + scales l) (kind = .cpt) = some k with
          | some k => trapped r 0x11 k (x l)
          | none => counting c (bar l) o)
    let req := fun kind => Eff.copy (CopyReq.bind { kind := kind, saddr := x f, desc := d f, fmt := fmt, slot := w.mod.slot.val, bar := bar f }
      s1 q.ctx (hnd f) (ivs f))
    let free := (sget ({} : Cpb) q.cpb w.mod.slot.val).st ≠ .bound ∧ w.mod.slot.val ∉ r.slots
    let settled := acqOwed s1 s.cur (acts s h r) = false ∧ ∀ l o, Acting s h r l → bar l = some o → Settled c l 2 o 16
    let same := Agree s h r (opndRegs w.dst 1 ++ opndRegs w.sa 1 ++ opndRegs w.sb 4 ++ if w.mod.bcnt then opndRegs w.sc 1 else [])
    let taken := fun (kind : CopyKind) (i : Instr) => s1 = s → m = [] → (∃ k, w.sb = .x k ∧ k.val ≤ 60) → ¬ free → acts s h r ≠ 0 →
      (tile kind f {}).leave = none → same → Issues s s h { nb := 4, nc := nc, nd := 1 } r [] [] → PathTraps i s r 4
    let named := fun (kind : CopyKind) (i : Instr) => settled → w.sb ≠ .imm → (∃ k, w.sb = .x k ∧ k.val ≤ 60) → free → debugged s1 q = false → same →
      Issues s s1 h { nb := 4, nc := nc, nd := 1 } r m ps → Room s h r (fun l => tile kind l {}) true →
        ∃ t u, exec i s = .next t ∧ Did s u h { nb := 4, nc := nc, nd := 1 } r (fun l => tile kind l {}) (onePath s h r (fun l => tile kind l {}) (req kind)) r.sync ps
          ∧ SameMem s1 u ∧ t = (if acts s h r = 0 then u else updG u s.cur fun q => { q with run := q.run.map fun x => { x with slots := w.mod.slot.val :: x.slots } })
    let shop := fun l => match hCheck s1 q.ctx (hnd l) { mustShadow := w.mod.sub = 2 } with
      | some k =>
        if w.mod.sub = 2 ∨ k ≤ 1 then trapped r 0x10 k (hnd l)
        else if (entry l).shd = true ∧ (entry l).sst = 3 then trapped r 0x10 5 (hnd l) else holds r w.dst
      | none => holds r w.dst
    let answer := fun l => match w.mod.sub.toNat with
      | 0 => (s1.jobs.filter fun j => j.core = q.clu * 192 + q.core).length + (s1.pubWaits.filter fun p => p.g / 128 = q.clu * 192 + q.core).length
          + (s1.flight.filter fun f => f.g / 128 = q.clu * 192 + q.core && match f.eff with | .shop .. => true | .cpc _ => true | _ => false).length
      | 1 => if (entry l).shd then (entry l).sst else 0
      | k => min 0xFFFFFFFF ((poolRead s1 q.ctx).filter fun e => e % 4 = k - 2).length
    let reply := fun l => ({ wx := [(opndReg w.dst, BitVec.ofNat 32 (answer l))], pend := [(opndReg w.dst, 1)] } : LaneOut)
    let cpq := fun l => if w.mod.sub = 1 then (match hCheck s1 q.ctx (hnd l) {} with
        | some 0 => trapped r 0x10 0 (hnd l)
        | some 1 => trapped r 0x10 1 (hnd l)
        | _ => reply l) else reply l
    let nsc := if w.mod.sub.getLsbD 3 then 1 else 0
    let masks := if w.mod.sub.getLsbD 3 then opndRegs w.sc 1 else []
    (∀ k ∈ opndRegs w.dst (n / 4), k < 64) →
      (w.mod.sub.toNat < 3 → settled → Agree s h r (opndRegs w.sa 1 ++ if w.mod.bcnt then opndRegs w.sc 1 else []) →
        Acts (.cpl w) h { nb := 1, nc := nc, nd := 1 } s s1 r m ps (lane .cpl) ∧ Acts (.cplg w) h { nb := 1, nc := nc, nd := 1 } s s1 r m ps (lane .cplg))
      ∧ (w.mod.sub.getLsbD 2 = false → Agree s h r masks → Acts (.cpx w) h { nb := 0, nc := nsc } s s1 r m ps near)
      ∧ (w.mod.sub.getLsbD 2 = true → Agree s h r (opndRegs w.sa 1 ++ masks) → Acts (.cpx w) h { nb := 1, nc := nsc } s s1 r m ps far)
      ∧ named .cpt (.cpt w) ∧ named .cpo (.cpo w) ∧ taken .cpt (.cpt w) ∧ taken .cpo (.cpo w)
      ∧ Acts (.cpc w) h { na := 0 } s s1 r m ps (fun _ => {}) (whole := true) (once := onePath s h r (fun _ => {}) (.cpc w.mod.slot.val))
      ∧ (let o := fun _ : Nat => ({ pend := (opndRegs w.dst 1).map fun k => (k, 4 * tagHere r + 3) } : LaneOut)
        Acts (.cpbs w) h { na := 0 } s s1 r m ps o (whole := true) (once := onePath s h r o (.cpbs w.mod.slot.val (tag + opndReg w.dst))))
      ∧ (cpbsOwed s1 s.cur (acts s h r) = false → acqOwed s1 s.cur (acts s h r) = false → (w.mod.sub = 1 → Agree s h r (opndRegs w.sa 1)) →
        Acts (.cpq w) h { na := if w.mod.sub = 1 then 1 else 0 } s s1 r m ps cpq)
      ∧ (Agree s h r (opndRegs w.sa 1) →
        Acts (.shop w) h {} s s1 r m ps shop (whole := true) (once := onePath s h r shop (.shop (hnd f) w.mod.sub.toNat (tag + opndReg w.dst)))
        ∧ Acts (.pub w) h {} s s1 r m ps (fun l => handled l { mustShadow := true } {}) (sync := some ⟨acts s h r, 0, .pub (hnd f)⟩))


/-! ### The floe -/

/-- R345 and R359 at issue: a handle is bound as the committed handles stand, but for one that an earlier MREL or MPUB of the trace releases; the
rows of a tile in the scratchpad are checked for alignment, then R253's orders 1 and 2, then for dual regions. -/
def Parts.FloeChecks : Prop :=
  (∀ (c : Ctx1) (h : Nat),
    let v := sget 0 c.q.hnd h
    let released := ∃ b ∈ c.r.bufs, ∃ t, b.eff = .tile t ∧ (t.kind = .mrel ∨ t.kind = .mpub) ∧ t.h = h
    (v = 0 → handleTile c h = none) ∧ (released → handleTile c h = none) ∧ (v ≠ 0 → ¬ released → handleTile c h = some (v % 8)))
  ∧ ∀ (c : Ctx1) (a pitch n : Nat) (al : Bool),
    let b := getB c.s c.q.btag
    let row := fun r => a + 16 * pitch * r
    let out := fun x => 192 ≤ field x 25 18 ∨ 0x30000 ≤ x % 2 ^ 18 ∨ 2 ^ 26 ≤ x ∨ ¬ (b.spb ≤ x ∧ x + n ≤ b.spb + b.sps + b.mbox)
    (al = true → a % 16 ≠ 0 → rowsCheck c a pitch n al = some (trapLane 0x0A 0 a))
    ∧ ((al = true → a % 16 = 0) →
        (∀ r, r < 32 → out (row r) → (∀ j, j < r → ¬ out (row j)) →
          ∃ k, k ≤ 1 ∧ rowsCheck c a pitch n al = some (trapLane 0x0D k (row r)))
        ∧ ((∀ r, r < 32 → ¬ out (row r)) →
          (∀ r, r < 32 → touchesDual b (row r - b.spb) n = true → (∀ j, j < r → touchesDual b (row j - b.spb) n = false) →
            rowsCheck c a pitch n al = some (trapLane 0x0E 0 (row r)))
          ∧ ((∀ r, r < 32 → touchesDual b (row r - b.spb) n = false) → rowsCheck c a pitch n al = none)))

/-- R297, R301 and R315: the causes of Copy-Handle in their order, what makes a tile descriptor invalid, and the causes of Copy-Bounds. R345 and R359 at issue: a handle is bound as the committed handles stand, but for one that an earlier MREL or MPUB of the trace releases; the
rows of a tile in the scratchpad are checked for alignment, then R253's orders 1 and 2, then for dual regions. Where the manual leaves a point open it states the model's choice: log 26, 34 and 109. -/
def Obligations.CopyAndFloeChecks : Prop := Parts.CopyChecks ∧ Parts.FloeChecks

/-- R345, R346, R350 to R352, R356 to R366 and R381 at issue: a floe instruction buffers one effect for the path, with its tiles and its operands, after the
checks of its handles, of its rows and of its lineage; MRD and TSTAT make their destinations scoreboarded, MACQ and MPUB hold theirs to commit,
MQUI and MTOK answer at once, deferred; MSETL asks to wait for its tile. Where the manual leaves a point open it states the model's choice: log 31, 35 and 36. -/
def Obligations.FloeAtIssue : Prop :=
  ∀ (w : IW ModT) (s s1 : State) (r : Run) (m : SMap Word) (ps : List Pop), (∀ k, w.sa ≠ .q k) → (∀ k, w.sb ≠ .q k) → (∀ k, w.sc ≠ .q k) →
    let h := hd w
    let c := cx s s1 h r m
    let q := curG s
    let b := getB s1 q.btag
    let f := firstActing s h r
    let v := fun (l : Nat) (o : Opnd) => (src c l o).toNat
    let tile := fun (o : Opnd) => match o with | .a n => (handleTile c n.val).getD 8 | _ => 8
    let n := w.imm.toNat
    let tid := field n 5 0
    let dst := 64 * tagHere r + opndReg w.dst
    let wait := fun k => (opndRegs w.dst 1).map fun d => (d, 4 * tagHere r + k)
    let owned := fun (hs : List Opnd) (o : LaneOut) => match unbound c hs with | some k => trapped r 0x0D 5 k | none => o
    let rows := fun (a pitch n : Nat) (al : Bool) (o : LaneOut) => match rowsCheck c a pitch n al with
      | some t => { leave := t.leave.map (placed r) }
      | none => o
    let lineage := fun (t : TileReq) (o : LaneOut) => match overflows (opLineage (viewF c) t q.btag 0) false with
      | some k => trapped r 0x12 k 0
      | none => o
    let op := fun (i : Instr) (sh : Shape) (regs : List Nat) (hs : List Opnd) (check : Nat → LaneOut → LaneOut) (pend : List (Nat × Nat))
        (t : Nat → TileReq) =>
      let out := fun l => owned hs (check l (lineage (t l) { pend := pend }))
      Agree s h r regs → Acts i h sh s s1 r m ps out (whole := true) (once := onePath s h r out (.tile (t f)))
    let any := fun (_ : Nat) (o : LaneOut) => o
    let p16 := field n 15 0
    let p12 := field n 27 12
    let size := if w.mod.tya = .q4 then 16 else 32 * (tyBytes w.mod.tya).getD 4
    let dest := fun l o => rows (v l w.dst) p12 size true o
    let rs := w.mod.rnd = .rs
    let q4 := w.mod.tya = .q4
    let fl := getF s1 (floeOf q.clu q.core)
    (∀ d ∈ opndRegs w.dst 1, d < 64) →
      (let o := fun _ : Nat => holds r w.dst;
        Acts (.macq w) h { na := 0 } s s1 r m ps o (whole := true) (once := onePath s h r o (.macq (opndReg w.sa) (w.imm.getLsbD 0) dst)))
      ∧ op (.mrel w) { na := 0 } [] [w.sa] any [] (fun _ => { kind := .mrel, a := tile w.sa, h := opndReg w.sa })
      ∧ op (.mpub w) { na := 0, nb := 1 } (opndRegs w.sb 1) [w.sa] any (wait 2) (fun l =>
          { kind := .mpub, a := tile w.sa, h := opndReg w.sa, grp := v l w.sb, dst := dst })
      ∧ op (.mzer w) { na := 0 } [] [w.dst] any [] (fun _ => { kind := .mzer, d := tile w.dst })
      ∧ op (.mlda w) {} (opndRegs w.sa 1) [w.dst] (fun l o => rows (v l w.sa) p16 128 true o) [] (fun l =>
          { kind := .mlda, d := tile w.dst, addr := v l w.sa, pitch := p16 })
      ∧ op (.msta w) { na := 0, nd := 1 } (opndRegs w.dst 1) [w.sa] (fun l o => rows (v l w.dst) p16 128 true o) [] (fun l =>
          { kind := .msta, a := tile w.sa, addr := v l w.dst, pitch := p16, prov := w.mod.prov })
      ∧ op (.mrd w) { na := 0 } [] [w.sa] any (wait 3) (fun _ => { kind := .mrd, a := tile w.sa, row := field n 4 0, dst := dst, prov := w.mod.prov })
      ∧ op (.tadd w) { na := 0 } [] [w.dst, w.sa, w.sb] any [] (fun _ =>
          { kind := .tadd, d := tile w.dst, a := tile w.sa, b := tile w.sb, tid := tid, rnd := w.mod.rnd })
      ∧ op (.tscl w) { na := 0, nb := 1 } (opndRegs w.sb 1) [w.dst, w.sa] any [] (fun l =>
          { kind := .tscl, d := tile w.dst, a := tile w.sa, k := v l w.sb, tid := tid, rnd := w.mod.rnd })
      ∧ op (.taxpy w) { na := 0, nc := 1 } (opndRegs w.sc 1) [w.dst, w.sa, w.sb] any [] (fun l =>
          { kind := .taxpy, d := tile w.dst, a := tile w.sa, b := tile w.sb, k := v l w.sc, tid := tid, rnd := w.mod.rnd })
      ∧ op (.tmap w) { na := 0, nd := 1 } (opndRegs w.dst 1) [w.sa] dest [] (fun l =>
          { kind := .tmap, a := tile w.sa, addr := v l w.dst, pitch := p12, tid := tid, ty := w.mod.tya, fn := field n 11 8, prov := w.mod.prov })
      ∧ op (.tmul w) { na := 0, nd := 1 } (opndRegs w.dst 1) [w.sa, w.sb] dest [] (fun l =>
          { kind := .tmul, a := tile w.sa, b := tile w.sb, addr := v l w.dst, pitch := p12, tid := tid, ty := w.mod.tya, rnd := w.mod.rnd
            prov := w.mod.prov })
      ∧ op (.tcvt w) { na := 0, nb := if q4 then 1 else 0, nc := if rs then 1 else 0, nd := 1 }
          (opndRegs w.dst 1 ++ (if q4 then opndRegs w.sb 1 else []) ++ if rs then opndRegs w.sc 1 else []) [w.sa]
          (fun l o => dest l (if q4 then rows (v l w.sb) p12 1 false o else o)) [] (fun l =>
            { kind := .tcvt, a := tile w.sa, addr := v l w.dst, saddr := v l w.sb, seed := v l w.sc, pitch := p12, tid := tid, ty := w.mod.tya
              rnd := w.mod.rnd, sat := w.imm.getLsbD 6, ftz := w.imm.getLsbD 7, qk := field n 9 8, prov := w.mod.prov })
      ∧ Acts (.msetl w) h { na := 0 } s s1 r m ps (fun _ => owned [w.sa] {}) (sync := some ⟨acts s h r, 0, .msetl (tile w.sa) 0⟩)
      ∧ (let o := fun _ : Nat => ({ pend := wait 3 } : LaneOut)
        Acts (.tstat w) h { na := 0 } s s1 r m ps o (whole := true)
          (once := onePath s h r o (.tstat (if w.imm.getLsbD 8 then none else some tid) dst)))
      ∧ (let x := 2 ^ 24 * (fl.queue.length % 64) + 2 ^ 16 * (((List.range 8).filter fun t => (tileAt fl t).tst = 0).length % 16)
            + 2 ^ 8 * (((List.range 32).filter fun i => (entAt fl i).st ≠ .free).length % 64) + if quiescent fl then 1 else 0;
        acqOwed s1 s.cur (acts s h r) = false → Acts (.mqui w) h { na := 0 } s s1 r m ps fun _ => { wx := [(opndReg w.dst, BitVec.ofNat 32 x)], pend := [(opndReg w.dst, 1)] })
      ∧ (opndReg w.dst + 1 < 64 → Agree s h r (opndRegs w.sa 1) → acqOwed s1 s.cur (acts s h r) = false →
        (∀ l, Acting s h r l → Settled c l 4 (v l w.sa / 128) 1 ∧ (spadCheck c (v l w.sa) 4 4 .read = none → Settled c l 2 (presentKey b (v l w.sa - b.spb) % 2 ^ 26) 4)) →
        ∃ vread : Nat → List (Nat × Nat × Nat), Acts (.mtok w) h {} s s1 r m ps fun l => locally c (v l w.sa) 4 4 .read {
          wx := [(opndReg w.dst, BitVec.ofNat 32 (leNat ((List.range 4).map fun i => loadByte (lineCtx c fun l => v l w.sa) l .spad (presentKey b (v l w.sa - b.spb) + i)))),
            (opndReg w.dst + 1, if lineEmpty s1 (spadKey q.clu (v l w.sa)) then 0 else 1)]
          pend := [(opndReg w.dst, 1), (opndReg w.dst + 1, 1)], vread := vread l })

/-- R331, R354, R355 and R381 at issue: MPOST forms its record of the control block and its operands, checks it, and buffers it once for the
path with the first register of each snapshot. -/
def Parts.PostsAtIssue : Prop :=
  ∀ (w : IW ModT) (s s1 : State) (r : Run) (m : SMap Word) (ps : List Pop), (∀ k, w.sa ≠ .q k) → (∀ k, w.sb ≠ .q k) →
    (∃ k : Fin 64, w.sc = .x k ∧ k.val ≤ 56) →
    let h := hd w
    let c := cx s s1 h r m
    let q := curG s
    let f := firstActing s h r
    let snapA := w.imm.getLsbD 0
    let snapB := w.imm.getLsbD 1
    let regs := fun (o : Opnd) (snap : Bool) => match o with | .x _ => if snap then 32 else 2 | _ => 0
    let tile := fun (o : Opnd) => match o with | .a n => (handleTile c n.val).getD 8 | _ => 8
    let block := fun l => ((List.range 8).map fun i => (rdX q.work l (opndReg w.sc + i)).toNat * 2 ^ (32 * i)).sum
    let part := fun (l hi lo : Nat) => field (block l) hi lo
    let agrees := fun (o : Opnd) (snap : Bool) (src : Nat) => match o with
      | .x k => decide (src = 0 ∧ snap = false ∧ k.val % 2 = 0 ∨ src = 1 ∧ snap = true)
      | .a _ => decide (src = 2 ∧ snap = false)
      | _ => false
    let operand := fun (l : Nat) (o : Opnd) (snap : Bool) (hdr : Nat) => hdr * 2 ^ 121 + match o with
      | .a _ => tile o
      | .x k => if snap then 0 else (rdX q.work l k.val).toNat + (rdX q.work l (k.val + 1)).toNat * 2 ^ 32
      | _ => 0
    let record := fun l => part l 31 0 * 2 ^ 480 + tile w.dst % 8 * 2 ^ 501 + part l 63 32 * 2 ^ 448
      + operand l w.sa snapA (part l 95 89) * 2 ^ 320 + operand l w.sb snapB (part l 88 82) * 2 ^ 192
      + part l 127 96 * 2 ^ 160 + part l 159 128 * 2 ^ 128 + part l 191 160 * 2 ^ 96 + part l 223 192 * 2 ^ 64 + part l 255 224 * 2 ^ 32
    let lin := fun l => postLineage (viewF c) (record l) 0 q.btag 0
    let extra := fun l => if (lin l).2.1 then rPub (record l) ≠ 0 ∨ rSplit (record l) = true
      else rSplit (record l) = true ∧ oKind (rA (record l)) = 2 ∧ rPub (record l) % 2 = 1
    let out := fun l => match unbound c [w.dst, w.sa, w.sb] with
      | some k => trapped r 0x0D 5 k
      | none =>
        if agrees w.sa snapA (part l 95 94) = false ∨ agrees w.sb snapB (part l 88 87) = false ∨ part l 23 21 ≠ 0 ∨ part l 81 64 ≠ 0 then trapped r 0x0D 4 0
        else match recordCheck (getB s1 q.btag) (record l) with
          | some t => { leave := t.leave.map (placed r) }
          | none => match overflows (lin l) (decide (extra l)) with
            | some k => trapped r 0x12 k 0
            | none => {}
    Agree s h r (opndRegs w.sa (if snapA then 32 else 2) ++ opndRegs w.sb (if snapB then 32 else 2) ++ opndRegs w.sc 8) →
      Acts (.mpost w) h { na := regs w.sa snapA, nb := regs w.sb snapB, nc := 8 } s s1 r m ps out (whole := true)
        (once := onePath s h r out (.post (record f) (if snapA then some (opndReg w.sa) else none) (if snapB then some (opndReg w.sb) else none)))

/-! ### Management instructions -/

/-- R497 to R505 at issue: the management profile's instructions buffer one effect for the path, and their status waits for a return held to
commit; a range that leaves the management SRAM traps. -/
def Parts.ManagementAtIssue : Prop :=
  ∀ (w : IW ModS) (s s1 : State) (r : Run) (m : SMap Word) (ps : List Pop), (∀ k, w.sa ≠ .q k) → (∀ k, w.sb ≠ .q k) →
    let h := hd w
    let c := cx s s1 h r m
    let f := firstActing s h r
    let n := w.imm.toNat
    let a := fun l => (src c l w.sa).toNat
    let len := fun l => (src c l w.sb).toNat
    let dst := 64 * tagHere r + opndReg w.dst
    let ranged := fun (a n : Nat) => if 0x400000 < a + n then trapped r 0x09 0 a else holds r w.dst
    let plain := fun (i : Instr) (e : Eff) => Acts i h { na := 0 } s s1 r m ps (fun _ => holds r w.dst) (whole := true)
      (once := onePath s h r (fun _ => holds r w.dst) e)
    let cryp := fun (i : Instr) (sub k : Nat) => Agree s h r (opndRegs w.sa 1) → Acts i h {} s s1 r m ps (fun l => ranged (a l) k) (whole := true)
      (once := onePath s h r (fun l => ranged (a l) k) (.cryp sub (a f) dst))
    let ext := fun l => if 2 ≤ n % 16 ∧ 1 ≤ len l ∧ len l ≤ 0x400000 then ranged (a l) (len l) else holds r w.dst
    (∀ d ∈ opndRegs w.dst 1, d < 64) →
      plain (.fusr w) (.fusr (n % 256) dst) ∧ plain (.wipe w) (.wipe (n % 32) dst) ∧ plain (.lcst w) (.lcst (n % 4) dst) ∧ plain (.dbgo w) (.dbgo (n % 4) dst)
      ∧ cryp (.crypHash w) 0 64 ∧ cryp (.crypVrfy w) 1 64 ∧ cryp (.crypSign w) 2 64 ∧ cryp (.crypVtok w) 3 1152
      ∧ (Agree s h r (opndRegs w.sa 1 ++ opndRegs w.sb 1) → Acts (.mext w) h { nb := 1 } s s1 r m ps ext (whole := true)
          (once := onePath s h r ext (.mext (n % 16) (a f) (len f) dst)))

/-- R331, R354, R355 and R381 at issue: MPOST forms its record of the control block and its operands, checks it, and buffers it once for the
path with the first register of each snapshot. R497 to R505 at issue: the management profile's instructions buffer one effect for the path, and their status waits for a return held to
commit; a range that leaves the management SRAM traps. Where the manual leaves a point open it states the model's choice: log 33, 34 and 109. -/
def Obligations.PostsAndManagementAtIssue : Prop := Parts.PostsAtIssue ∧ Parts.ManagementAtIssue

/-! ### What holds an instruction back -/

/-- R98 to R101, shown on ADD: a scoreboarded source stalls the instruction; a source deferred or held to commit raises Marker-Violation, and a false claim of
uniform sources raises Uniformity, for every lane of EXM. -/
def Parts.PendingSourcesAndClaims : Prop :=
  ∀ (w : IW ModA) (s : State) (r : Run),
    let h := hd w
    let q := curG s
    let readers := if h.u then r.exm else acts s h r
    let regs := srcRegs h { nb := 1 }
    let some_ := fun (f : Nat → Bool) => ∃ l k, l < 32 ∧ readers.getLsbD l = true ∧ k ∈ regs ∧ f (rdPend q.work l k) = true
    q.run = some r → r.ended = false → (getP q r.path).state = .running → q.step ≠ .inst → q.step ≠ .settle → h.s = false →
      (∀ k ∈ regs, k < 64) →
      (some_ isScored → exec (.add w) s = .next { s with stalled := true })
      ∧ (¬ some_ isScored → some_ (fun p => isLoadPend p || isHeldPend p) → PathTraps (.add w) s r 5)
      ∧ (¬ some_ isScored → ¬ some_ (fun p => isLoadPend p || isHeldPend p) → h.u = true →
          (∃ k ∈ regs, ∃ l j, l < 32 ∧ j < 32 ∧ r.exm.getLsbD l = true ∧ r.exm.getLsbD j = true ∧ rdX q.work l k ≠ rdX q.work j k) →
          PathTraps (.add w) s r 4)

/-- R89: a lane whose buffer holds its 16 entries raises Trace-Overflow in place of another store, and leaves. -/
def Parts.BufferOverflow : Prop :=
  ∀ (w : IW ModM) (s s1 : State) (r : Run) (m : SMap Word) (ps : List Pop),
    let h := hd w
    let c := cx s s1 h r m
    let n := (tyBytes w.mod.ty).getD 1 * 2 ^ w.mod.cnt.toNat
    let nb := 2 ^ w.mod.cnt.toNat * if (tyBytes w.mod.ty).getD 1 = 8 then 2 else 1
    Issues s s1 h { nb := nb } r m ps → debugged s1 (curG s) = false →
      ∃ t r', exec (.sts w) s = .next t ∧ (curG t).run = some r' ∧ SameMem s1 t
        ∧ ∀ l, Acting s h r l → spadCheck c (accAddr w c l) n n .single = none → bufCount r l = 16 →
            sget none r'.leaves l = some (.trap { code := 6, off := r.off, word := r.words.getD r.off 0 })
            ∧ r'.exm.getLsbD l = false ∧ bufCount r' l = 16

/-- R98 to R101, shown on ADD: a scoreboarded source stalls the instruction; a source deferred or held to commit raises Marker-Violation, and a false claim of
uniform sources raises Uniformity, for every lane of EXM. R89: a lane whose buffer holds its 16 entries raises Trace-Overflow in place of another store, and leaves. Where the manual leaves a point open it states the model's choice: log 31 and 32. -/
def Obligations.SourcesClaimsAndBuffers : Prop := Parts.PendingSourcesAndClaims ∧ Parts.BufferOverflow

/-! ### Traces -/

/-- R75, R126 and R248: the checks of a trace's entry, in their order: the index, the fields of its table entry, its words' place, their NX fields, a
poisoned code line, and the first word that fails R125. Where the manual leaves a point open it states the model's choice: log 28, 29, 30 and 44. -/
def Obligations.EntryChecks : Prop :=
  ∀ (s : State) (q : Group) (t : Nat),
    let b := getB s q.btag
    let raw := leNat (ctxRead s b.ctx (b.ttBase + 32 * t) 32)
    let held := fun n => ∃ c ∈ s.code, c.dropped = false ∧ c.core = coreOf q ∧ c.ctx = q.ctx ∧ c.line = n
    let lines := fun (a n : Nat) => ∀ k, a / 128 ≤ k → k * 128 < a + n → held k
    let start := field raw 255 224
    let len := field raw 223 216 + 1
    let sk := field raw 215 213
    let reserved := field raw 201 200 ≠ 0 ∨ field raw 167 160 ≠ 0 ∨ field raw 135 128 ≠ 0 ∨ field raw 63 63 ≠ 0 ∨ field raw 55 0 ≠ 0
    let bad := reserved ∨ 5 < sk ∨ 16 < field raw 206 202 ∨ 192 < field raw 199 192 ∨ (sk ≠ 4 ∧ field raw 212 207 ≠ 0)
      ∨ (sk ≠ 0 ∧ sk ≠ 2 ∧ field raw 191 168 ≠ 0) ∨ (sk ≠ 2 ∧ field raw 159 136 ≠ 0)
    let outside := start % 16 ≠ 0 ∨ b.codeLen < start + 16 * len
    let word := fun i => Decode.wordOfBytes (ctxRead s b.ctx (b.codeBase + start + 16 * i) 16)
    let nx := fun i => field (word i).toNat 117 116
    let ends := (∀ i, i + 1 < len → nx i = 0) ∧ nx (len - 1) ≠ 0
    (b.ttNum ≤ t → entryCheck s q t = .trap { code := 2, cause := 1 })
    ∧ (t < b.ttNum → lines (b.ttBase + 32 * t) 32 →
      (bad → entryCheck s q t = .trap { code := 2, cause := 2 })
      ∧ (¬ bad → outside → entryCheck s q t = .trap { code := 2, cause := 3 })
      ∧ (¬ bad → ¬ outside → lines (b.codeBase + start) (16 * len) →
        (¬ ends → entryCheck s q t = .trap { code := 2, cause := 4 })
        ∧ (ends → ¬ (nx (len - 1) = 2 ↔ sk = 4) → entryCheck s q t = .trap { code := 2, cause := 5 })
        ∧ (ends → (nx (len - 1) = 2 ↔ sk = 4) → ∀ n c, (b.codeBase + start) / 128 ≤ n → n * 128 < b.codeBase + start + 16 * len →
            lineOf s (coreOf q) q.ctx n = some c → c.poison = true →
            (∀ m d, (b.codeBase + start) / 128 ≤ m → m < n → lineOf s (coreOf q) q.ctx m = some d → d.poison = false) →
              entryCheck s q t = .trap { code := 3, addr := n * 128 })
        ∧ (ends → (nx (len - 1) = 2 ↔ sk = 4) → (∀ c ∈ s.code, c.dropped = false → c.core = coreOf q → c.ctx = q.ctx → c.poison = false) →
          (∀ i c, i < len → Decode.decode q.prof (word i) = .error c → (∀ j, j < i → ∃ x, Decode.decode q.prof (word j) = .ok x) →
            entryCheck s q t = .trap { code := 1, cause := c.code, off := i, word := word i })
          ∧ ((∀ i, i < len → ∃ x, Decode.decode q.prof (word i) = .ok x) →
            ∃ e, entryCheck s q t = .ok e ((List.range len).map word) ∧ e.sk = sk ∧ e.succ = field raw 191 168 ∧ e.regs = field raw 199 192
              ∧ e.retix = field raw 159 136 ∧ e.link = field raw 212 207))))

/-- R79, R80 and R83: the scheduler takes the ready entry of smallest index; where its lines are in the core and its registers can be had, the trace
begins with the entry's lanes and the registers as they stand committed; else the entry waits for registers, and begins in its turn. A
fetch brings the lines that an entry misses. Where the manual leaves a point open it states the model's choice: log 37, 41 and 42. -/
def Obligations.TraceEntry : Prop :=
  ∀ (s : State) (g : GKey) (i : Nat), i < 32 →
    let q := getG s g
    let p := getP q i
    q.res = true → q.run = none → q.stopped = false → q.recoveryStop = false → q.evict = false → q.debugStop = false → q.frozen = false → q.step = .off →
    q.rescat = false →
    let next := p.state = .ready ∧ (∀ j, j < 32 → j ≠ i → (getP q j).state = .ready → p.tix < (getP q j).tix)
      ∧ ∀ j, j < 32 → (getP q j).state = .parked ∨ ((getP q j).state = .held ∧ (getP q j).ust = .parked) → p.tix < (getP q j).tix
    (∀ (e : TraceEnt) (ws : List IWord), entryCheck s q p.tix = .ok e ws → footprint q.alloc q.com.uni + e.regs ≤ 192 →
      let begins := fun t : State => t.cur = g ∧ SameMem s t ∧ (∀ j, j ≠ g → getG t j = getG s j)
        ∧ (getG t g).work = q.com ∧ (getG t g).com = q.com ∧ getP (getG t g) i = { tix := p.tix, state := .running, mask := p.mask }
        ∧ (∀ j, j ≠ i → getP (getG t g) j = getP q j)
        ∧ ∃ r, (getG t g).run = some r ∧ r.path = i ∧ r.tix = p.tix ∧ r.entry = p.mask ∧ r.exm = p.mask ∧ r.words = ws ∧ r.off = 0 ∧ r.ended = false
          ∧ r.bufs = [] ∧ r.sync = none ∧ r.regs = e.regs ∧ r.sk = e.sk ∧ r.succ = e.succ ∧ r.retix = e.retix ∧ r.link = e.link
      (next → oldestWait s q = none → e.regs ≤ trackFree s q → ∃ t, exec (.traceEntry g) s = .next t ∧ begins t)
      ∧ (next → (oldestWait s q ≠ none ∨ trackFree s q < e.regs) → ∃ t, exec (.traceEntry g) s = .next t ∧ SameMem s t
          ∧ getG t g = setP q i { p with state := .budgetWait, since := s.serial + 1 })
      ∧ (p.state = .budgetWait → (∃ n, oldestWait s q = some (g, i, n)) → e.regs ≤ trackFree s q →
          ∃ t, exec (.registerBudgetGrant g i) s = .next t ∧ begins t))
    ∧ (∀ ls, entryCheck s q p.tix = .fetch ls →
      (next → exec (.traceEntry g) s = .next (setG s g (setP q i { p with state := .fetchWait })))
      ∧ (p.state = .fetchWait → ∃ t, exec (.traceFetchComplete g i) s = .next t ∧ SameMem s t ∧ (∀ j, j ≠ g → getG t j = getG s j)
          ∧ ∀ n ∈ ls, (lineOf t (coreOf q) q.ctx n).isSome))

/-- R76, R77, R86 and R94 to R97: a trace without effects whose lanes all commit: their registers become the group's, those that last-read bits
name read 0, every other lane's stand; CALL pushes its return index and RET pops it; the lanes stand ready at their successor, and where the
trace ends them, the last lanes of a group end it. -/
def Parts.CommitOfATrace : Prop :=
  ∀ (s : State) (g : GKey) (r : Run) (next : Nat),
    let q := getG s g
    let depth := fun l => sget [] q.link l
    let lanes := fun l => l < 32 ∧ r.exm.getLsbD l = true
    let goes := fun l => match r.sk with
      | 0 => r.succ
      | 1 => r.tix
      | 2 => r.succ
      | _ => (depth l).headD 0
    q.res = true → q.run = some r → r.ended = true → (getP q r.path).state = .running → r.path < 32 → (∀ j, j < 32 → j ≠ r.path → getP q j = noPath) →
    q.prof ≠ .mgmt → q.step = .off → q.frozen = false → r.hold = 0 →
    r.bufs = [] → r.sync = none → r.gath = [] → r.scats = [] → r.sending = none → r.pops = [] → r.leaves = [] → r.vread = [] → r.nx = .stop → r.exm ≠ 0 →
    (∀ l, lanes l → (r.sk = 2 → (depth l).length < 16) ∧ (r.sk = 3 → depth l ≠ [])) →
    s.flight = [] → s.jobs = [] →
    (getB s q.btag).halt = none → (getC s q.ctx).failed = false → (getD s q.clu).stopping = false → (getD s q.clu).stopped = false →
      (r.sk < 4 → (∀ l, lanes l → goes l = next) →
        ∃ t, exec (.traceCommit g) s = .next t ∧ SameMem s t ∧ (getG t g).run = none
          ∧ (∀ l k, l < 32 → k < 64 → rdX (getG t g).com l k =
              if r.exm.getLsbD l then (if sget false r.dyingX (64 * l + k) then 0 else rdX q.work l k) else rdX q.com l k)
          ∧ (∀ l k, l < 32 → k < 7 → rdP (getG t g).com l k =
              if r.exm.getLsbD l then (if sget false r.dyingP (8 * l + k) then false else rdP q.work l k) else rdP q.com l k)
          ∧ getP (getG t g) 0 = { tix := next % 2 ^ 24, state := .ready, mask := r.exm }
          ∧ (∀ j, 0 < j → j < 32 → (getP (getG t g) j).state = .empty)
          ∧ (∀ l, l < 32 → sget [] (getG t g).link l =
              if r.exm.getLsbD l then (if r.sk = 2 then r.retix :: depth l else if r.sk = 3 then (depth l).drop 1 else depth l) else depth l))
      ∧ (r.sk = 5 → r.exm = q.live → ∃ t, exec (.traceCommit g) s = .next t ∧ (getG t g).res = false
          ∧ sget false (getB t q.btag).ended q.gnum = true ∧ ∀ e ∈ (getB t q.btag).groups, e.1 ≠ q.gnum)

/-- R86, R236 and R240 to R243: a trace all of whose lanes left with one trap. No register of the group changes; the lanes stand halted at the trace's index; where
the context can handle it, the batch halts with a record of the trap, its lanes and their entry registers; else the context fails. -/
def Parts.TakingATrap : Prop :=
  ∀ (s : State) (g : GKey) (r : Run) (x : Trap),
    let q := getG s g
    let b := getB s q.btag
    let c := getC s b.ctx
    q.res = true → q.run = some r → r.ended = true → (getP q r.path).state = .running → r.path < 32 → (∀ j, j < 32 → j ≠ r.path → getP q j = noPath) →
    q.prof ≠ .mgmt → q.step = .off → q.frozen = false → r.hold = 0 → b.ctx = q.ctx →
    r.exm = 0 → r.entry ≠ 0 → r.bufs = [] → r.gath = [] → r.scats = [] → r.sending = none → r.pops = [] → r.vread = [] →
    (∀ l, sget none r.leaves l = if l < 32 ∧ r.entry.getLsbD l = true then some (.trap x) else none) →
    s.flight = [] → s.jobs = [] → (getD s q.clu).stopping = false → (getD s q.clu).stopped = false → c.failed = false → b.masked = false →
      let fatal := x.code = 1 ∧ x.cause = 0 ∨ canHandle c = false
      ∃ t, exec (.traceCommit g) s = .next t ∧ (getG t g).run = none ∧ (getG t g).stopped = true
        ∧ (∀ l k, l < 32 → k < 64 → rdX (getG t g).com l k = rdX q.com l k)
        ∧ getP (getG t g) 0 = { tix := r.tix, state := .halted, mask := r.entry }
        ∧ (¬ fatal → ∃ y rec, (getB t q.btag).halt = some y ∧ y.recs = (match b.halt with | some z => z.recs | none => []) ++ [rec]
            ∧ rec.trap = x ∧ rec.lanes = r.entry ∧ rec.exms = r.entry ∧ rec.g = g ∧ rec.path = 0 ∧ rec.tix = r.tix
            ∧ (∀ l k, l < 32 → k < 64 → r.entry.getLsbD l = true → sget 0 rec.regs (64 * l + k) = rdX q.com l k)
            ∧ (b.halt = none → y.seq = c.haltSeq))
        ∧ (fatal → (getC t b.ctx).failed = true ∧ (getC t b.ctx).stoppedQueues = true)

/-- R76, R77, R86 and R94 to R97: a trace without effects whose lanes all commit: their registers become the group's, those that last-read bits
name read 0, every other lane's stand; CALL pushes its return index and RET pops it; the lanes stand ready at their successor, and where the
trace ends them, the last lanes of a group end it. R86, R236 and R240 to R243: a trace all of whose lanes left with one trap. No register of the group changes; the lanes stand halted at the trace's index; where
the context can handle it, the batch halts with a record of the trap, its lanes and their entry registers; else the context fails. Where the manual leaves a point open it states the model's choice: log 37, 38 and 39. -/
def Obligations.EndOfATrace : Prop := Parts.CommitOfATrace ∧ Parts.TakingATrap

/-! ### Halts -/

/-- R239 and R241: the fields of a trap record's header and of a group's entry in the halt table. -/
def Parts.RecordLayouts : Prop :=
  (∀ (h : HaltRec) (halt seq ctx nrec : Nat),
    h.trap.addr < 2 ^ 64 → halt < 2 ^ 64 → h.tix < 2 ^ 24 → h.trap.off < 256 → h.trap.code < 256 → h.trap.cause < 256 → h.trap.tcode < 2 ^ 16 → seq < 2 ^ 32 →
    ctx < 2 ^ 16 → h.gnum < 1024 → h.clu < 8 → h.core < 256 → h.trk < 8 → h.path < 32 → nrec < 256 →
    let n := trapHeader h halt seq ctx nrec
    field n 511 384 = h.trap.word.toNat ∧ field n 383 320 = h.trap.addr ∧ field n 319 256 = halt ∧ field n 255 224 = h.lanes.toNat
      ∧ field n 223 192 = h.exms.toNat ∧ field n 191 168 = h.tix ∧ field n 167 160 = h.trap.off ∧ field n 159 152 = h.trap.code
      ∧ field n 151 144 = h.trap.cause ∧ field n 143 128 = h.trap.tcode ∧ field n 127 96 = seq ∧ field n 95 80 = ctx ∧ field n 79 70 = h.gnum
      ∧ field n 69 67 = h.clu ∧ field n 66 59 = h.core ∧ field n 58 56 = h.trk ∧ field n 55 51 = h.path ∧ field n 50 43 = nrec ∧ field n 42 0 = 0)
  ∧ ∀ q : Group, q.hskid ≤ 2048 →
    let n := haltEntry q
    let waits := fun i => i < 32 ∧ ((getP q i).state = .budgetWait ∨ (getP q i).state = .fetchWait)
    let ready := fun i => i < 32 ∧ ((getP q i).state = .ready ∨ (getP q i).state = .held)
    let shows := fun i => (getP q i).tix < 2 ^ 24 → field n 127 104 = (getP q i).tix ∧ field n 103 100 = (getP q i).state.code
    (q.hdisc = true → q.stopTix < 2 ^ 24 → field n 127 104 = q.stopTix ∧ field n 103 100 = q.stopState.code)
      ∧ (q.hdisc = false →
        (∀ i, waits i → (∀ j, waits j → j ≠ i → (getP q i).tix < (getP q j).tix) → shows i)
        ∧ ((∀ i, ¬ waits i) → (∀ i, ready i → (∀ j, ready j → j ≠ i → (getP q i).tix < (getP q j).tix) → shows i)
            ∧ ((∀ i, ¬ ready i) → field n 127 100 = 0)))
      ∧ field n 99 88 = q.hskid ∧ n.testBit 87 = q.hdisc
      ∧ (n.testBit 86 = true ↔ ∃ i, i < 32 ∧ ((getP q i).state = .halted ∨ (getP q i).state = .held ∧ (getP q i).ust = .halted))
      ∧ (n.testBit 85 = true ↔ q.live ≠ 0) ∧ field n 84 32 = 0 ∧ field n 31 0 = q.live.toNat

/-- R22, R88, R238 and R240 to R242: a trace that stalls traps, and where none runs a hold after version replay ends; when the skid is over, every trace of the batch that has not reached its commit is discarded and its
group stops; each record takes a free slot of the trap area; and once every group has stopped and every record has its slot, the halt table is
written and one handler batch for each record is formed, once what the groups committed is performed and no step of theirs is complete. -/
def Parts.HaltOfABatch : Prop :=
  (∀ (s : State) (g : GKey) (r : Run), (getG s g).run = some r → (getP (getG s g) r.path).state = .running → r.exm ≠ 0 → r.sending = none →
    let off := min r.off (r.words.length - 1)
    ∃ t r', exec (.traceStall g) s = .next t ∧ SameMem s t ∧ (getG t g).run = some r' ∧ r'.exm = 0 ∧ r'.ended = true ∧ r'.bufs = r.bufs
      ∧ ∀ l, l < 32 → sget none r'.leaves l =
          if r.exm.getLsbD l then some (.trap { code := 7, off := off, word := r.words.getD off 0 }) else sget none r.leaves l)
  ∧ (∀ (s : State) (g : GKey), (getG s g).run = none → exec (.traceStall g) s = .next (updG s g fun q => { q with vhold := [] }))
  ∧ (∀ (s : State) (b : BTag) (h : Halt), (getB s b).halt = some h → h.expired = false → (∀ g ∈ residents s b, (getG s g).prof ≠ .mgmt) →
      ∃ t h', exec (.haltSkidExpiry b) s = .next t ∧ (getB t b).halt = some h' ∧ h'.expired = true
        ∧ ∀ g ∈ residents s b, (getG t g).stopped = true ∨ (getG s g).inStep2 = true)
  ∧ (∀ (s : State) (b : BTag) (h : Halt) (i k : Nat) (r : HaltRec), (getB s b).halt = some h → h.recs[i]? = some r → r.slot = none → r.collision = none →
    (∀ j, j < i → ∃ x n, h.recs[j]? = some x ∧ x.slot = some n) →
    let c := getC s (getB s b).ctx
    k < 64 → c.slots.testBit k = false → (∀ j, j < k → c.slots.testBit j = true) → c.slots < 2 ^ 64 →
      ∃ t h' r', exec (.trapRecordWrite b) s = .next t ∧ (getB t b).halt = some h' ∧ h'.recs[i]? = some r' ∧ r' = { r with slot := some k }
        ∧ (∀ j, j ≠ i → h'.recs[j]? = h.recs[j]?) ∧ (getC t (getB s b).ctx).slots = c.slots + 2 ^ k
        ∧ ∃ u : State, u.dmem = s.dmem ∧ u.hmem = s.hmem ∧ (getC u (getB s b).ctx).ptroot = c.ptroot
          ∧ t = ctxWrite u (getB s b).ctx (c.trapa + 0x8000 * k) (slotBytes r' (recHeader u b h' r')))
  ∧ (∀ (s : State) (b : BTag) (h : Halt), (getB s b).halt = some h → h.running = false → h.recs ≠ [] → (getC s (getB s b).ctx).failed = false →
    (∀ r ∈ h.recs, ∃ k, r.slot = some k) → (∀ g ∈ residents s b, (getG s g).stopped = true) →
    (∀ f ∈ s.flight, f.btag ≠ b) → (∀ d ∈ s.sigs, ∀ e, d.g = some e → e.1 ∉ residents s b) → (∀ x ∈ s.saved, x.btag = b → x.scats = []) →
    (∀ e ∈ s.teams, e.2.v = true → e.2.btag = b → e.2.narr = 0 ∨ e.2.narr ≠ e.2.nlive) →
      ∃ t fs, exec (.haltComplete b) s = .next t ∧ (getB t b).halt = some { h with running := true } ∧ t.formed = s.formed ++ fs
        ∧ fs.length = h.recs.length ∧ (∀ (g : GKey), getG t g = getG s g)
        ∧ ∀ i f r, fs[i]? = some f → h.recs[i]? = some r → f.ctx = (getB s b).ctx ∧ f.node = field (getC s (getB s b).ctx).trapn 19 0
            ∧ f.parent = some (b, i) ∧ f.prio = (getB s b).prio ∧ ∃ x, f.recs = [x]
            ∧ x.bytes = leBytes 8 ((getC s (getB s b).ctx).trapa + 0x8000 * r.slot.getD 0) ++ leBytes 4 h.seq ++ leBytes 4 i)

/-- R245: the return from a halt. Where the response of the one record is RETRY or CONTINUE, its lanes take the marked registers and predicates from the
slot and stand ready at the trap's index or at RIX; where it is RETIRE, they are live no more; and the groups of the batch run again; a response that
is FAIL or malformed fails the context. -/
def Parts.ReturnFromAHalt : Prop :=
  ∀ (s : State) (b : BTag) (h : Halt) (r : HaltRec) (k : Nat),
    let bt := getB s b
    let c := getC s bt.ctx
    let q := getG s r.g
    let slot := c.trapa + 0x8000 * k
    let n := leNat (ctxRead s bt.ctx (slot + 0x40) 64)
    let disp := field n 1 0
    let good := field n 511 128 = 0 ∧ field n 32 2 = 0 ∧ disp ≠ 3
    bt.halt = some h → h.running = true → h.recs = [r] → r.ended = true → r.slot = some k → c.failed = false → r.g ∈ residents s b → q.gnum = r.gnum →
    (∀ f ∈ s.faults, f.unres = false) → q.res = true → q.prof ≠ .mgmt → r.lanes ≠ 0 → c.slots.testBit k = true →
    (∃ i, i < 32 ∧ (getP q i).state = .halted ∧ (getP q i).mask = r.lanes ∧ ∀ j, j < 32 → j ≠ i → getP q j = noPath) →
      (good → disp < 2 → ∃ t, exec (.haltResume b) s = .next t ∧ SameMem s t ∧ (getB t b).halt = none ∧ (getC t bt.ctx).slots.testBit k = false
        ∧ (∀ g ∈ residents s b, (getG t g).stopped = false)
        ∧ getP (getG t r.g) 0 = { tix := (if disp = 0 then r.tix else field n 63 40) % 2 ^ 24, state := .ready, mask := r.lanes }
        ∧ (∀ l j, l < 32 → j < 64 → rdX (getG t r.g).com l j = if r.lanes.getLsbD l ∧ (field n 127 64).testBit j
            then BitVec.ofNat 32 (leNat (((ctxRead s bt.ctx (slot + 0x2000 + 128 * j) 128).drop (4 * l)).take 4)) else rdX q.com l j)
        ∧ (∀ l j, l < 32 → j < 7 → rdP (getG t r.g).com l j = if r.lanes.getLsbD l ∧ (field n 39 33).testBit j
            then (leNat (ctxRead s bt.ctx (slot + 0x80 + 4 * j) 4)).testBit l else rdP q.com l j))
      ∧ (good → disp = 2 → q.live &&& ~~~r.lanes ≠ 0 → ∃ t, exec (.haltResume b) s = .next t ∧ (getB t b).halt = none
          ∧ (getG t r.g).live = q.live &&& ~~~r.lanes ∧ (∀ j, j < 32 → (getP (getG t r.g) j).state = .empty))
      ∧ (¬ good → ∃ t, exec (.haltResume b) s = .next t ∧ (getC t bt.ctx).failed = true ∧ (getC t bt.ctx).stoppedQueues = true
          ∧ (getB t b).halt = some h)

/-- R239 and R241: the fields of a trap record's header and of a group's entry in the halt table. R22, R88, R238 and R240 to R242: a trace that stalls traps, and where none runs a hold after version replay ends; when the skid is over, every trace of the batch that has not reached its commit is discarded and its
group stops; each record takes a free slot of the trap area; and once every group has stopped and every record has its slot, the halt table is
written and one handler batch for each record is formed, once what the groups committed is performed and no step of theirs is complete. R245: the return from a halt. Where the response of the one record is RETRY or CONTINUE, its lanes take the marked registers and predicates from the
slot and stand ready at the trap's index or at RIX; where it is RETIRE, they are live no more; and the groups of the batch run again; a response that
is FAIL or malformed fails the context. Where the manual leaves a point open it states the model's choice: log 37 and 61. -/
def Obligations.HaltsAndReturns : Prop := Parts.RecordLayouts ∧ Parts.HaltOfABatch ∧ Parts.ReturnFromAHalt

/-! ### Arrivals -/

/-- R99, R100, R140, R208, R225, R432 and R433: a load's result arrives in the register that waits for it; a gathered element arrives in its register and its bit of the
slot is set; a stalled group gets its turn again; a yield ends; a page walk that is among those its die runs gives the core and its cluster a translation, or the group a fault. Where the manual leaves a point open it states the model's choice: log 22, 24 and 25. -/
def Obligations.Arrivals : Prop :=
  (∀ (s : State) (g : GKey) (l k : Nat), k < 64 → (getG s g).step ≠ .settle → ∃ t, exec (.resultArrival g l k) s = .next t ∧ SameMem s t ∧ t.stalled = false
    ∧ (∀ i j, i < 32 → j < 64 → rdX (getG t g).com i j = rdX (getG s g).com i j ∧ rdX (getG t g).work i j = rdX (getG s g).work i j)
    ∧ (∀ i j, j < 64 → rdPend (getG t g).work i j =
        if i = l ∧ j = k ∧ isLoadPend (rdPend (getG s g).work i j) then 0 else rdPend (getG s g).work i j)
    ∧ (∀ j, j ≠ g → getG t j = getG s j))
  ∧ (∀ (s : State) (g : GKey) (r : Run), (getG s g).run = some r →
      exec (.ldsWake g) s = .next { s with cur := g, stalled := false } ∧ exec (.ringPopGrant g) s = .next { s with cur := g, stalled := false })
  ∧ (∀ (s : State) (g : GKey), exec (.yldTimeout g) s = .next (setG s g { getG s g with yielded := false }))
  ∧ (∀ (s : State) (g : GKey) (slot l d : Nat) (v : Word), l < 32 → (getG s g).step ≠ .settle →
    let q := getG s g
    let cpb := sget ({} : Cpb) q.cpb slot
    q.sbw.filter (fun x => x.1 = 0 && x.2.1 = slot && x.2.2.1 = l) = [(0, slot, l, d, v)] →
    isScored (rdPend q.work l (d % 64)) = true → rdPend q.work l (d % 64) / 4 = d / 64 →
      ∃ t, exec (.gathElementArrival g slot l) s = .next t ∧ SameMem s t ∧ rdX (getG t g).work l (d % 64) = v
        ∧ rdPend (getG t g).work l (d % 64) = 0 ∧ (∀ x ∈ (getG t g).sbw, x ∈ q.sbw ∧ x ≠ (0, slot, l, d, v))
        ∧ sget ({} : Cpb) (getG t g).cpb slot =
            { val := cpb.val ||| laneBit l, st := if cpb.val ||| laneBit l = 0xFFFFFFFF#32 then .done else .bound })
  ∧ ∀ (s : State) (i : Nat) (w : Walk), s.walks[i]? = some w →
      let answered := fun t : State => exec (.pageWalkComplete i) s = .next t ∧ SameMem s t ∧ t.stalled = false ∧ t.walks = s.walks.filter fun x => !w.same x
      (walkRuns s w = false → exec (.pageWalkComplete i) s = .next s)
      ∧ (walkRuns s w = true → (∀ y ∈ s.walks, w.same y = true → y = w) → s.poison = [] → w.g ≠ none →
        (∀ x e, walk s w.clu w.ctx w.va = .leaf x e → (w.wr = true → x.w = true) →
          ∃ t, answered t ∧ x ∈ t.tlb ∧ { x with core := some w.core } ∈ t.tlb ∧ (∀ y ∈ t.tlb, y ∈ s.tlb ∨ y = x ∨ y = { x with core := some w.core })
            ∧ ∀ y ∈ s.tlb, y ∉ t.tlb → tlbSize y.core ≤ (s.tlb.filter fun z => z.clu = y.clu && z.core = y.core).length)
        ∧ (∀ g wr, w.g = some g → (walk s w.clu w.ctx w.va = .bad ∧ wr = false ∨ (∃ x e, walk s w.clu w.ctx w.va = .leaf x e ∧ w.wr = true ∧ x.w = false ∧ wr = true)) →
          ∃ t, answered t ∧ t.tlb = s.tlb ∧ (w.va / 16384, wr) ∈ (getG t g).walkFault))


/-! ### Effects performed -/

/-- R209, R213, R214, R226, R256 and R483: when a committed effect is performed, a store writes its bytes and nothing else; an atomic writes the new value of R214 and its old value
arrives in the register that waits for it, unless the link reports a failure, which fails the context; a scattered element writes its bytes and sets its bit;
FSET and FCLR set and clear the line's bit. In a revision-1 context the stores of a trace are performed as one (R69). Where the manual leaves a point open it states the model's choice: log 17, 21, 58 and 87. -/
def Obligations.StoresAndAtomicsPerformed : Prop :=
  ∀ (s : State) (i : Nat) (f : Flight), s.flight[i]? = some f → NoWaits s f.g →
    let gone := fun t : State => t.flight = s.flight.eraseIdx i
    let l := ((List.range 32).find? fun l => f.lanes.getLsbD l).getD 0
    let ctx := (getB s f.btag).ctx
    let signed := fun (n v : Nat) => if v % 2 ^ n < 2 ^ (n - 1) then ((v % 2 ^ n : Nat) : Int) else (v % 2 ^ n : Nat) - 2 ^ n
    -- the byte that the last store of the trace to it leaves
    let left := fun (sp : Space) (k : Nat) => ((s.flight.filterMap fun x => match x.eff with
      | .store sp' _ p v => if x.g = f.g ∧ sp' = sp ∧ p ≤ k ∧ k < p + v.length then v[k - p]? else none
      | _ => none).getLast?).getD (memGet (memOf s sp) k)
    (rev1 s f = true → restOf s f.g = [] → (∀ x ∈ s.flight, x.g = f.g → x.tno = f.tno ∧ ∃ sp va pa v, x.eff = .store sp va pa v) →
      ∃ t, exec (.effectPerformed i) s = .next t ∧ (∀ x ∈ t.flight, x ∈ s.flight ∧ x.g ≠ f.g) ∧ (∀ x ∈ s.flight, x.g ≠ f.g → x ∈ t.flight)
        ∧ ∀ sp k, memGet (memOf t sp) k = left sp k)
    ∧ (rev1 s f = false → flightReady s i = true →
    (∀ sp va pa v, f.eff = .store sp va pa v → ∃ t, exec (.effectPerformed i) s = .next t ∧ gone t ∧ Stored s t sp pa v)
    ∧ (∀ sp va pa op ty x y dst, f.eff = .atom sp va pa op ty x y dst → ty = .s32 ∨ ty = .n32 ∨ ty = .s64 ∨ ty = .n64 →
        (getK s ctx).replay = [] → poisonAt s sp pa ((tyBytes ty).getD 4) = none →
        let n := (tyBytes ty).getD 4
        let old := leNat ((List.range n).map fun k => memGet (memOf s sp) (pa + k))
        let val := fun v => if ty = .s32 ∨ ty = .s64 then signed (8 * n) v else ((v % 2 ^ (8 * n) : Nat) : Int)
        let new := match op with
          | .add => (old + x) % 2 ^ (8 * n)
          | .min => if val old ≤ val x then old else x
          | .max => if val x ≤ val old then old else x
          | .and => old &&& x
          | .or => old ||| x
          | .xor => old ^^^ x
          | .exch => x
          | .cas => if old = x then y else old
        (sp ≠ .host →
          ∃ t, exec (.effectPerformed i) s = .next t ∧ gone t ∧ Stored s t sp pa ((List.range n).map fun k => BitVec.ofNat 8 (new / 256 ^ k))
            ∧ (rdPend (getG s f.g).com l (dst % 64) = 4 * (dst / 64) + 2 → dst % 64 + 1 < 64 →
              rdX (getG t f.g).com l (dst % 64) = BitVec.ofNat 32 old ∧ rdPend (getG t f.g).com l (dst % 64) = 0
              ∧ (n = 8 → rdPend (getG s f.g).com l (dst % 64 + 1) = 4 * (dst / 64) + 2 →
                  rdX (getG t f.g).com l (dst % 64 + 1) = BitVec.ofNat 32 (old / 2 ^ 32))))
        ∧ (sp = .host → ∃ t, exec (.effectPerformed i) s = .next t ∧ gone t ∧
            (Stored s t sp pa ((List.range n).map fun k => BitVec.ofNat 8 (new / 256 ^ k)) ∨ (getC t ctx).failed = true)))
    ∧ (∀ sp va pa v slot, f.eff = .scat sp va pa v slot → (getG s f.g).rescat = true → scatMoved s f = none →
        exec (.scatElementPerform i) s = .next s)
    ∧ (∀ sp va pa v slot, f.eff = .scat sp va pa v slot → (getG s f.g).rescat = false →
        (∀ j x sp' va' pa' v', j < i → s.flight[j]? = some x → x.g = f.g → x.tno = f.tno → x.eff = .scat sp' va' pa' v' slot → sp' = sp →
          pa' + v'.length ≤ pa ∨ pa + v.length ≤ pa') →
        ∃ t, exec (.scatElementPerform i) s = .next t ∧ gone t ∧ Stored s t sp pa v
          ∧ (sget ({} : Cpb) (getG t f.g).cpb slot).val = (sget ({} : Cpb) (getG s f.g).cpb slot).val ||| f.lanes)
    ∧ (∀ a full, f.eff = .line a full → ∃ t, exec (.effectPerformed i) s = .next t ∧ gone t ∧ SameMem s t
        ∧ ∀ k, lineEmpty t k = if k / 128 = spadKey (gclu f.g) a / 128 then !full else lineEmpty s k))

/-- R263, R265, R271 to R275, R282 and R413 performed: a barrier object is written whole by BARI, its PEND takes BARX's amount, and it opens when its arrivals and PEND ask
for it; RGN answers its status and, with 0, writes the region; a term lands in the next plane as the region's rule says. Where the manual leaves a point open it states the model's choice: log 21, 45, 46 and 85. -/
def Obligations.ScratchpadEffectsPerformed : Prop :=
  ∀ (s : State) (i : Nat) (f : Flight), s.flight[i]? = some f → flightReady s i = true → NoWaits s f.g →
    let clu := gclu f.g
    let b := getB s f.btag
    let q := getG s f.g
    let gone := fun t : State => t.flight = s.flight.eraseIdx i
    let obj := fun (u : State) (a : Nat) => leNat ((List.range 16).map fun k => memGet u.spad (spadKey clu a + k))
    (∀ a slot exp, f.eff = .bari a slot exp → rev1 s f = false → exp ≤ 1024 →
      ∃ t, exec (.effectPerformed i) s = .next t ∧ gone t ∧ (slot = 0 → SameMem s t) ∧ (slot ≠ 0 → Stored s t .spad (spadKey clu a)
        ((List.range 16).map fun k => BitVec.ofNat 8 ((exp * 2 ^ 101 + slot % 256 * 2 ^ 82 + 2 ^ 81) / 256 ^ k))))
    ∧ (∀ a n, f.eff = .barx a n → rev1 s f = false → (∀ g, NoWaits s g) →
      ∃ t, exec (.effectPerformed i) s = .next t ∧ gone t ∧
        let p := (field (obj s a) 47 0 + n) % 2 ^ 48
        let need := if field (obj s a) 111 101 = 0 then (getT s (tkey clu (field (obj s a) 89 82))).nlive else field (obj s a) 111 101
        let opens := field (obj s a) 81 81 = 1 ∧ p = 0 ∧ need ≤ field (obj s a) 100 90
        field (obj t a) 47 0 = p ∧ field (obj t a) 127 112 = (if opens then (field (obj s a) 127 112 + 1) % 65536 else field (obj s a) 127 112)
        ∧ field (obj t a) 100 90 = (if opens then 0 else field (obj s a) 100 90) ∧ field (obj t a) 111 81 = field (obj s a) 111 101 * 2 ^ 20 + field (obj s a) 89 81 + 
            (if opens then 0 else field (obj s a) 100 90 * 2 ^ 9))
    ∧ (∀ slot place config dst, f.eff = .rgn slot place config dst → rev1 s f = false →
      let st := (rgnRun { s with flight := s.flight.eraseIdx i } f.g slot place.toNat config.toNat).1
      let p := place.toNat
      let c := config.toNat
      let ix := field c 31 28
      let en := c.testBit 27 = true
      let dual := c.testBit 26 = true
      let rule := field c 24 23
      let stype := field c 22 21
      let old := sget 0 (getB s q.btag).regions ix
      let one := field p 15 11 ≠ 0 ∨ field p 31 27 ≠ 0 ∨ field c 20 0 ≠ 0 ∨ rule = 3 ∨ (stype ≠ 0 ∧ rule ≠ 1) ∨ (stype = 0 ∧ rule = 1)
        ∨ (¬ dual ∧ (c.testBit 25 = true ∨ rule ≠ 0 ∨ stype ≠ 0))
      let two := en ∧ ((getB s q.btag).sps < (field p 10 0 + field p 26 16) * 128 ∨ field p 26 16 = 0
        ∨ ∃ e ∈ (getB s q.btag).regions, e.1 ≠ ix ∧ rgnEn e.2 = true ∧ rgnBase e.2 < field p 10 0 + field p 26 16 ∧ field p 10 0 < rgnBase e.2 + rgnSize e.2)
      (one → st = 1) ∧ (¬ one → two → st = 2) ∧ (st = 5 → dual ∧ slot = 0)
        ∧ (∃ t, exec (.effectPerformed i) s = .next t ∧ gone t
          ∧ (∀ l, l < 32 → f.lanes.getLsbD l = true → dst % 64 < 64 → rdPend q.com l (dst % 64) = 4 * (dst / 64) + 2 →
              rdX (getG t f.g).com l (dst % 64) = BitVec.ofNat 32 st)
          ∧ (st ≠ 0 → (getB t q.btag).regions = (getB s q.btag).regions ∧ SameMem s t)
          ∧ (st = 0 → let e := sget 0 (getB t q.btag).regions ix
              rgnEn e = decide en ∧ rgnDual e = decide dual ∧ rgnPsel e = 0 ∧ rgnBase e = field p 10 0 ∧ rgnSize e = field p 26 16
              ∧ rgnRule e = rule ∧ rgnStype e = stype ∧ (dual → rgnTmx e = slot % 256)
              ∧ ∀ j, j ≠ ix → sget 0 (getB t q.btag).regions j = sget 0 (getB s q.btag).regions j)
          ∧ (old = 0 → ¬ en → ¬ one → st = 0 ∨ st = 5)))
    ∧ (∀ a ty v, f.eff = .stn a ty [v] → ty = .s32 ∨ ty = .n32 ∨ ty = .f32 → ∀ r, dualAt b (a - b.spb) = some r →
      let off := a - b.spb
      let key := spadKey b.clu (b.spb + planeOff b r (1 - rgnPsel r.2) off)
      let rank := rankOf (getT s (tkey q.clu (rgnTmx r.2))) q.gnum
      let lane := ((List.range 32).find? fun l => f.lanes.getLsbD l).getD 0
      let x := sget ({} : Term) b.terms off
      ∃ t, exec (.stnTermLand i) s = .next t ∧ gone t
        ∧ (rgnRule r.2 = 1 → rgnStype r.2 ≠ 3 → Stored s t .spad key
            ((List.range 4).map fun k => BitVec.ofNat 8 ((leNat ((List.range 4).map fun j => memGet s.spad (key + j)) + v.toNat) % 2 ^ 32 / 256 ^ k)))
        ∧ (rgnRule r.2 = 1 → rgnStype r.2 = 3 → SameMem s t ∧ (sget ({} : Term) (getB t f.btag).terms off).cap = (x.cap || decide (x.n = 2 ^ 32 - 1)))
        ∧ (rgnRule r.2 ≠ 1 → (x.w = false ∨ x.rank < rank ∨ x.rank = rank ∧ x.lane ≤ lane) →
            Stored s t .spad key ((List.range 4).map fun k => BitVec.ofNat 8 (v.toNat / 256 ^ k)))
        ∧ (rgnRule r.2 ≠ 1 → x.w = true → (rank < x.rank ∨ x.rank = rank ∧ lane < x.lane) → SameMem s t)
        ∧ (rgnRule r.2 ≠ 1 → let y := sget ({} : Term) (getB t f.btag).terms off
            y.w = true ∧ y.m = (x.m || (x.w && (x.rank != rank || x.lane != lane)))))

/-- R217, R219 to R221, R267 and R284: a fence ends once the lanes' effects are performed; SEAL and UNSL answer 0 and set or clear SEAL for the range where every check of R219
holds, and else answer 1; a step of a team that has arrived, with no term and no effect of a member on its way and no collision, flips its regions' planes, counts, and wakes
every waiting lane of its groups. Where the manual leaves a point open it states the model's choice: log 39, 40, 87 and 107. -/
def Obligations.FencesSealsSteps : Prop :=
  (∀ (s : State) (g : GKey) (i : Nat) (ord : Ord2) (scope : Scope),
    let p := getP (getG s g) i
    i < 32 → p.state = .syncWait → p.sync = .fence ord scope → p.wakeHold = 0 →
    (∀ j, j < 32 → j ≠ i → (getP (getG s g) j).state ≠ .ready) → (∀ j, j < i → (getP (getG s g) j).state ≠ .empty) →
    (∀ f ∈ s.flight, f.g = g → f.lanes &&& p.mask = 0 ∨ (ord = .acq ∧ ∀ sp va pa op ty b c dst, f.eff ≠ .atom sp va pa op ty b c dst)) → p.mask ≠ 0 →
      ∃ t, exec (.fenceComplete g i) s = .next t ∧ SameMem s t ∧ (getP (getG t g) i).state = .ready ∧ (getP (getG t g) i).mask = p.mask
        ∧ (getP (getG t g) i).tix = p.tix % 2 ^ 24)
  ∧ (∀ (s : State) (i : Nat) (f : Flight) (undo : Bool) (va len dst : Nat), s.flight[i]? = some f → f.eff = .seal undo va len dst →
    flightReady s i = true → NoWaits s f.g →
    let ctx := (getB s f.btag).ctx
    let q := getG s f.g
    let bad := va % 0x4000 ≠ 0 ∨ len % 0x4000 ≠ 0 ∨ len = 0 ∨ 2 ^ 40 < len
    let ev := if undo then Instr.unsealComplete i else .sealComplete i
    let answer := fun (t : State) (n : Nat) => ∀ l, l < 32 → f.lanes.getLsbD l = true → rdPend q.com l (dst % 64) = 4 * (dst / 64) + 2 →
      rdX (getG t f.g).com l (dst % 64) = BitVec.ofNat 32 n
    (bad → ∃ t, exec ev s = .next t ∧ SameMem s t ∧ t.tlb = s.tlb ∧ t.flight = s.flight.eraseIdx i ∧ answer t 1)
    ∧ (¬ bad → sealRange s ctx va len = none → ∃ t, exec ev s = .next t ∧ SameMem s t ∧ t.tlb = s.tlb ∧ t.flight = s.flight.eraseIdx i ∧ answer t 1)
    ∧ (∀ ls, ¬ bad → sealRange s ctx va len = some ls → undo = true → (∃ e ∈ ls, e.1.sealed = false) →
        ∃ t, exec ev s = .next t ∧ SameMem s t ∧ t.tlb = s.tlb ∧ t.flight = s.flight.eraseIdx i ∧ answer t 1)
    ∧ (∀ ls, ¬ bad → sealRange s ctx va len = some ls → (undo = true → ∀ e ∈ ls, e.1.sealed = true) → (undo = false → rangeOwed s ctx va len = false) →
        ∃ t, exec ev s = .next t ∧ t.flight = s.flight.eraseIdx i ∧ answer t 0 ∧ t.hmem = s.hmem ∧ t.spad = s.spad
          ∧ ∀ x ∈ t.tlb, x.ctx = ctx → x.vpage < va + len → va < x.vpage + x.size → x.sealed = !undo))
  ∧ ∀ (s : State) (k : Nat),
    let t0 := getT s k
    let b := getB s t0.btag
    let mine := fun e : Nat => rgnEn e = true ∧ rgnDual e = true ∧ rgnTmx e = k % 256
    t0.v = true → t0.narr ≠ 0 → t0.narr = t0.nlive → swf 0 none b.regions = true →
    (∀ f ∈ s.flight, f.btag = t0.btag → t0.members.testBit f.gnum = false ∧ ∀ a ty d, f.eff ≠ .stn a ty d) → b.terms = [] →
    (∀ e ∈ s.groups, e.2.vhold = []) → (∀ x ∈ s.saved, x.btag = t0.btag → ∀ f ∈ x.scats, t0.members.testBit f.gnum = false) →
      ∃ t, exec (.stepComplete k) s = .next t ∧ (getT t k).narr = 0 ∧ (getT t k).steps = (t0.steps + 1) % 2 ^ 32 ∧ (getT t k).arrived = 0
        ∧ t.dmem = s.dmem ∧ t.hmem = s.hmem
        ∧ (∀ ix, mine (sget 0 b.regions ix) → rgnPsel (sget 0 (getB t t0.btag).regions ix) = 1 - rgnPsel (sget 0 b.regions ix)
            ∧ mine (sget 0 (getB t t0.btag).regions ix))
        ∧ (∀ ix, ¬ mine (sget 0 b.regions ix) → sget 0 (getB t t0.btag).regions ix = sget 0 b.regions ix)
        ∧ (getB t t0.btag).halt = b.halt
        ∧ ∀ e ∈ s.groups, e.2.res = true → e.2.btag = t0.btag → t0.members.testBit e.2.gnum = true → getG s e.1 = e.2 →
            ∀ i, i < 32 → ∀ tix off w, (getP (getG t e.1) i).sync = .step (k % 256) tix off w → (getP (getG t e.1) i).state ≠ .syncWait


/-- R498, R499 and R501 to R504 performed: FUSR answers a fuse word; WIPE zeroes what its mask selects unless a context is bound; MEXT extends a measurement; LCST moves the life
cycle as its table and its conditions say, and answers once every store is wiped; DBGO opens ports in Debug-Open; every CRYP clears VTOK, and `.hash` writes the digest. Where the manual leaves a point open it states the model's choice: log 8, 12, 17, 27 and 73. -/
def Obligations.ManagementEffects : Prop :=
  ∀ (s : State) (i : Nat) (f : Flight), s.flight[i]? = some f → flightReady s i = true → rev1 s f = false → NoWaits s f.g → (getG s f.g).prof = .mgmt →
    let m := s.mg
    let bound := ∃ e ∈ s.ctxs, e.2.bound = true
    let runs := fun (dst n : Nat) (p : State → Prop) => ∃ t, exec (.effectPerformed i) s = .next t ∧ t.flight = s.flight.eraseIdx i ∧ p t
      ∧ ∀ l, l < 32 → f.lanes.getLsbD l = true → rdPend (getG s f.g).com l (dst % 64) = 4 * (dst / 64) + 2 →
          rdX (getG t f.g).com l (dst % 64) = BitVec.ofNat 32 n
    (∀ n dst, f.eff = .fusr n dst →
      runs dst (if n = 8 ∨ n = 9 then sget 0 m.fuses n
        else if 0x30 ≤ n ∧ n ≤ 0x3F then BitVec.ofNat 32 (leNat (((sha512 attestModulus).drop (4 * (n - 0x30))).take 4))
        else if n ≤ 7 ∨ 0x10 ≤ n ∧ n ≤ 0x2F then Config.fusedWord n else 0xFFFFFFFF#32).toNat
        fun t => SameMem s t ∧ t.mg = m)
    ∧ (∀ mask dst, f.eff = .wipe mask dst →
        (mask / 2 % 8 ≠ 0 → bound → runs dst 2 fun t => SameMem s t ∧ t.mg = m)
        ∧ ((mask / 2 % 8 = 0 ∨ ¬ bound) → runs dst 0 fun t => (mask.testBit 0 = true → t.mg.keys = []) ∧ (mask.testBit 1 = true → t.spad = [])
            ∧ (mask.testBit 3 = true → t.dmem = [] ∧ t.saved = []) ∧ (mask.testBit 0 = false → t.mg = m) ∧ (mask.testBit 1 = false → t.spad = s.spad)
            ∧ (mask.testBit 3 = false → t.dmem = s.dmem) ∧ (mask.testBit 4 = false → t.sram = s.sram) ∧ t.hmem = s.hmem
            ∧ (mask.testBit 4 = true → ∀ a, Config.firmwareArea a = false → (a < m.mcmd.toNat ∨ m.mcmd.toNat + 4096 ≤ a) → memGet t.sram a = 0)))
    ∧ (∀ k a len dst, f.eff = .mext k a len dst →
        let old := match sget [] m.meas k with | [] => List.replicate 64 0 | v => v
        (2 ≤ k ∧ k ≤ 15 ∧ 1 ≤ len ∧ len ≤ 0x400000 → runs dst 0 fun t => t.mg = { m with meas := sset [] m.meas k (sha512 (old ++ sha512 (memRead s.sram a len))) })
        ∧ (¬ (2 ≤ k ∧ k ≤ 15 ∧ 1 ≤ len ∧ len ≤ 0x400000) → runs dst 1 fun t => t.mg = m))
    ∧ (∀ mask dst, f.eff = .dbgo mask dst →
        (m.lcs = 2 → runs dst 0 fun t => t.mg = { m with ports := mask }) ∧ (m.lcs ≠ 2 → runs dst 1 fun t => t.mg = m))
    ∧ (∀ nxt dst, f.eff = .lcst nxt dst →
        let holds_ := fun n => ∃ x, m.vtok = some (n, x)
        let listed := m.lcs = 0 ∧ nxt = 1 ∨ (m.lcs = 0 ∨ m.lcs = 1 ∨ m.lcs = 2) ∧ nxt = 3 ∨ m.lcs = 1 ∧ nxt = 2 ∨ m.lcs = 2 ∧ nxt = 1
        let busy := bound ∨ m.testing ≠ []
        let token := (nxt = 3 → holds_ 3) ∧ (m.lcs = 1 → nxt = 2 → holds_ 2)
        let same := fun t : State => t.mg = m ∧ SameMem s t
        (¬ listed → runs dst 1 same) ∧ (listed → busy → runs dst 2 same) ∧ (listed → ¬ busy → ¬ token → runs dst 3 same)
        ∧ (listed → ¬ busy → token → m.lcs = 1 → nxt = 2 → m.keys ≠ [] → runs dst 4 same)
        ∧ (listed → ¬ busy → token → (m.lcs = 1 → nxt = 2 → m.keys = []) → (nxt = 2 ∨ m.lcs = 2 ∧ nxt = 1 ∨ Config.fuseFails s.free = false) →
            ∃ t, exec (.effectPerformed i) s = .next t ∧ t.mg.wiping = true ∧ t.flight = s.flight.eraseIdx i ++ [{ f with eff := .lcstWipe dst }] ∧ SameMem s t
              ∧ t.mg.lcs = nxt ∧ t.mg.vtok = none ∧ t.mg.chal = none ∧ t.mg.ports = 0
              ∧ (nxt = 3 → (sget 0 t.mg.fuses 8).getLsbD 1 = true) ∧ (m.lcs = 0 → nxt = 1 → (sget 0 t.mg.fuses 8).getLsbD 0 = true)))
    ∧ (∀ dst, f.eff = .lcstWipe dst → runs dst 0 fun t => t.mg.wiping = false ∧ t.mg.lcs = m.lcs ∧ t.mg.keys = [] ∧ t.dmem = [] ∧ t.spad = [])
    ∧ (∀ a dst, f.eff = .cryp 0 a dst →
        let word := fun o => leNat (memRead s.sram (a + o) 8)
        word 8 ≠ 0 → word 8 ≤ 0x400000 → word 0x18 = 0 → leNat (memRead s.sram (a + 0x28) 24) = 0 → word 0 + word 8 ≤ 0x400000 → word 0x20 + 64 ≤ 0x400000 →
          runs dst 0 fun t => t.mg.vtok = none ∧ t.sram = memWrite s.sram (word 0x20) (sha512 (memRead s.sram (word 0) (word 8))))


/-! ### Queues, packets and signals -/

/-- R387 to R393, R298, R396 and R399: a doorbell takes WIDX; a quantum makes the enabled queues with a packet to parse resident and reports a malformed one once for its context; the packet at which
a queue stands starts in its lane's turn of a parse step as BAR and its state allow, RIDX moves on, and its operation is done; a malformed one stops its queue; a WAIT ends when its condition holds; a
decrement subtracts from VALUE, and sends its vector where that moves it to 0. Where the manual leaves a point open it states the model's choice: log 16, 54, 55 and 110. -/
def Obligations.QueuesAndPackets : Prop :=
  ∀ (s : State) (q : Nat),
    let k := getQ s q
    let ctx := k.ctx
    let c := getC s ctx
    let bs := ctxRead s ctx (k.rbase + 64 * (k.ridx % k.rsize)) 64
    let by_ := fun a n => leNat ((bs.drop a).take n)
    let op := by_ 0 1
    let runs := k.resident = true ∧ k.stopped = false ∧ k.waiting = false ∧ c.bound = true ∧ c.failed = false ∧ c.stoppedQueues = false ∧ c.unbinding = false
      ∧ (getK s ctx).cutting = false ∧ k.ridx < k.widx
    let starts := runs ∧ parseTurn s = some q ∧ ((by_ 0 8).testBit 8 = true → k.inProg = []) ∧ pktBad s ctx bs = false ∧ ∀ p ∈ k.inProg, p.idx ≠ k.ridx
    let next := (k.ridx + 1) % 2 ^ 64
    let mine := fun (t : State) => (getQ t q).ridx = next ∧ (getQ t q).ctx = ctx ∧ ∀ j, j ≠ q → getQ t j = getQ s j
    let open_ := (⟨k.ridx, op, bs, (parseTake s).parseNo⟩ : Packet)
    let u := updQ (putRidx (parseTake s) q next) q fun x => { x with inProg := x.inProg ++ [open_] }
    (q < s.regs.qtn.toNat → exec (.queueDoorbell q) s = .next (setQ s q { k with widx := leNat (memRead s.dmem (s.regs.qtbase.toNat + 64 * q + 0x18) 8) }))
    ∧ (s.regs.qtn.toNat ≤ 32 → ∃ t, exec .queueQuantumExpiry s = .next t ∧ SameMem s t ∧ ∀ j, j < s.regs.qtn.toNat →
        let d := queueRead s j
        d.enabled = true →
          (queueDescBad (leNat (memRead s.dmem (queueDesc s j) 64)) = true →
            (getQ t j).bad = some d.ctx ∧ ((getQ s j).bad ≠ some d.ctx → Report.queueMalformed j ∈ t.reports))
          ∧ (queueDescBad (leNat (memRead s.dmem (queueDesc s j) 64)) = false → d.stopped = false → (getC s d.ctx).bound = true →
              (getC s d.ctx).stoppedQueues = false → d.waiting = false → d.ridx < d.widx →
              (getQ t j).resident = true ∧ (getQ t j).ridx = d.ridx ∧ (getQ t j).widx = d.widx ∧ (getQ t j).rbase = d.rbase ∧ (getQ t j).prio = d.prio))
    ∧ (starts → op = 0 → ∃ t, exec (.pktNop q) s = .next t ∧ mine t ∧ (getQ t q).inProg = k.inProg)
    ∧ (starts → op = 1 → ∃ t, exec (.pktDispatch q) s = .next t ∧ mine t ∧ (getQ t q).inProg = k.inProg ++ [open_]
        ∧ t.dispatches = s.dispatches ++ [{ id := s.serial + 1, ctx := ctx, q := q, node := by_ 20 4, addr := by_ 8 8, count := by_ 16 4
                                            signal := by_ 24 8, pkt := k.ridx, prio := k.prio }])
    ∧ (starts → op = 2 → ∀ x e, walk u 0 ctx (by_ 8 8) = .leaf x e → ∃ t, exec (.pktSignal q) s = .next t ∧ mine t ∧ (getQ t q).inProg = k.inProg ++ [open_]
        ∧ t.sigs = s.sigs ++ [{ ctx := ctx, sp := (x.place (by_ 8 8)).1, addr := (x.place (by_ 8 8)).2, amount := by_ 16 8, pkt := some (q, k.ridx) }])
    ∧ (starts → op = 3 → ∃ t, exec (.pktWait q) s = .next t ∧ mine t ∧ (getQ t q).waiting = true ∧ (getQ t q).inProg = k.inProg ++ [open_])
    ∧ (starts → op = 4 → by_ 24 8 = 0 → ∃ t, exec (.pktHinval q) s = .next t ∧ mine t ∧ (getQ t q).inProg = k.inProg)
    ∧ (starts → op = 5 → freeNums c ≠ [] →
        (Config.parsePackage (by_ 8 8) (ctxRead u ctx (by_ 8 8) (by_ 16 8)) = none → ∃ t, exec (.pktLoad q) s = .next t ∧ mine t ∧ (getC t ctx).pkgs = c.pkgs)
        ∧ (∀ img, Config.parsePackage (by_ 8 8) (ctxRead u ctx (by_ 8 8) (by_ 16 8)) = some img → img.rev = 1 ∨ img.rev = 2 → img.nodes.any nodeBad = false →
            img.nodes.any (edgeBad u ctx) = false → Config.binAreaSmall c.bina (binBytes ((c.pkgs.map Package.nodes).flatten ++ img.nodes)) = false →
            ∃ t p, exec (.pktLoad q) s = .next t ∧ mine t ∧ (getC t ctx).pkgs = c.pkgs ++ [p] ∧ p.nodes = img.nodes ∧ p.num < 256 ∧ ∀ o ∈ c.pkgs, o.num ≠ p.num))
    ∧ (starts → op = 6 → (∃ p ∈ c.pkgs, p.num = by_ 8 4) → ∃ t, exec (.pktUnload q) s = .next t ∧ mine t
        ∧ (getC t ctx).pkgs = if pkgBusy u ctx (by_ 8 4) then c.pkgs else c.pkgs.filter fun p => p.num != by_ 8 4)
    ∧ (runs → parseTurn s = some q → ((by_ 0 8).testBit 8 = true → k.inProg = []) → pktBad s ctx bs = true → op = 0 ∨ 6 < op →
        ∃ t, exec (.pktNop q) s = .next t ∧ (getQ t q).stopped = true ∧ t.reports = s.reports ++ [.packetMalformed q k.ridx])
    ∧ (∀ p, k.resident = true → k.waiting = true → c.failed = false → k.inProg = [p] → p.op = 3 →
        (∀ e ∈ s.queues, ∀ y ∈ e.2.inProg, y.op = 2 → y.step ≠ p.step) →
        let x := leNat (ctxRead s ctx (pkt p.bytes 8 8) 8)
        let v := pkt p.bytes 16 8
        (match pkt p.bytes 24 1 with | 0 => x = v | 1 => x ≠ v | 2 => x < v | _ => v ≤ x) →
          exec (.waitSatisfied q) s = .next (setQ s q { k with waiting := false, inProg := [] }))
    ∧ ∀ i d, s.sigs[i]? = some d → d.g = none → d.pkt = none → poisonAt s d.sp d.addr 16 = none →
        let old := leNat (spaceRead s d.sp d.addr 16)
        let v := old % 2 ^ 64
        let new := (v + (2 ^ 64 - d.amount % 2 ^ 64)) % 2 ^ 64
        ∃ t, exec (.signalDecrement i) s = .next t ∧ t.sigs = s.sigs.eraseIdx i ∧ leNat (spaceRead t d.sp d.addr 8) = new
          ∧ (d.irq = false → t.msix = s.msix ++ if old.testBit 127 = true ∧ v ≠ 0 ∧ new = 0 then [field old 106 96] else [])

/-! ### Dispatches, bins and batches -/

/-- R398 to R403: a record of a DISPATCH enters its bin, which forms a batch of its oldest C when it holds C, or of every record when its timer has run; a DISPATCH with all its work done decrements its signal;
a formed batch is placed where there is room, with its allocation cleared, its groups ready at the entry trace and its records in the mailbox; a batch that owes
nothing ends. Where the manual leaves a point open it states the model's choice: log 43, 52, 54, 56, 81, 103 and 110. -/
def Obligations.DispatchToBatchEnd : Prop :=
  (∀ (s : State) (x : Dispatch) (n : Node), findDispatch s x.id = some x → findNode (getC s x.ctx) x.node = some n → (getC s x.ctx).failed = false →
    (getC s x.ctx).bound = true →
    let bin := getBin s x.ctx x.node
    x.entered < x.count → bin.recs.length < 2 * n.coalesce → (getK s x.ctx).cutting = false →
    let rec_ : Rec := { bytes := ctxRead s x.ctx (x.addr + x.entered * n.record) n.record, origins := [x.id], prio := x.prio }
    ∃ t, exec (.dispatchRecordEntry x.id) s = .next t ∧ SameMem s t ∧ findDispatch t x.id = some { x with entered := x.entered + 1 }
      ∧ (bin.recs.length + 1 < n.coalesce → (getBin t x.ctx x.node).recs = bin.recs ++ [rec_] ∧ t.formed = s.formed)
      ∧ (n.coalesce ≤ bin.recs.length + 1 → (getBin t x.ctx x.node).recs = (bin.recs ++ [rec_]).drop n.coalesce
          ∧ ∃ f, t.formed = s.formed ++ [f] ∧ f.ctx = x.ctx ∧ f.node = x.node ∧ f.recs = (bin.recs ++ [rec_]).take n.coalesce))
  ∧ (∀ (s : State) (x : Dispatch), findDispatch s x.id = some x → x.count ≤ x.entered → dispatchLive s x.id = false → x.signal = 0 →
    (getC s x.ctx).bound = true →
    ∃ t, exec (.dispatchComplete x.id) s = .next t ∧ SameMem s t ∧ findDispatch t x.id = none
      ∧ (x.away = false → ∀ p ∈ (getQ t x.q).inProg, p.idx ≠ x.pkt) ∧ (x.away = true → getQ t x.q = getQ s x.q))
  ∧ (∀ (s : State) (ctx node : Nat), let bin := getBin s ctx node
    bin.recs ≠ [] → (getC s ctx).failed = false → (getC s ctx).bound = true → (getK s ctx).cutting = false → (getK s ctx).replay = [] →
    ∃ t f, exec (.binTimerExpiry ctx node) s = .next t ∧ SameMem s t ∧ t.formed = s.formed ++ [f] ∧ f.ctx = ctx ∧ f.node = node ∧ f.recs = bin.recs
      ∧ (getBin t ctx node).recs = [] ∧ (∀ r ∈ bin.recs, r.prio ≤ f.prio))
  ∧ (∀ (s : State) (i clu core : Nat) (slots : List GKey) (f : Formed) (n : Node), nextFormed s = some i → s.formed[i]? = some f →
    findNode (getC s f.ctx) f.node = some n → slots.length = n.groups →
    hasRoom s clu core (allocBytes n) (settleNeed (nodeRegions n)) n.teams.length (traceEntOf (leNat (ctxRead s f.ctx (n.ttBase + 32 * n.entry) 32))).regs slots = true →
    ∃ t tag, exec (.batchPlacement clu core slots) s = .next t ∧ t.formed = s.formed.eraseIdx i
      ∧ (let b := getB t tag
        b.res = true ∧ b.ctx = f.ctx ∧ b.node = f.node ∧ b.prio = f.prio ∧ b.corr = f.corr ∧ b.clu = clu ∧ b.core = core ∧ b.spb / 2 ^ 18 = core
        ∧ b.spb % 2 ^ 18 + allocBytes n ≤ 0x2F000 ∧ b.sps = n.spad ∧ b.parent = f.parent ∧ b.masked = f.parent.isSome ∧ b.codeBase = n.codeBase
        ∧ b.ttBase = n.ttBase ∧ b.ttNum = n.ttNum ∧ b.groups = (List.range slots.length).zip slots)
      ∧ ∀ j g, slots[j]? = some g → let q := getG t g
          q.res = true ∧ q.btag = tag ∧ q.gnum = j ∧ q.live = 0xFFFFFFFF#32 ∧ q.run = none ∧ q.com.x = [] ∧ q.com.p = []
          ∧ getP q 0 = { tix := n.entry, state := .ready, mask := 0xFFFFFFFF#32 } ∧ ∀ p, 0 < p → p < 32 → (getP q p).state = .empty)
  ∧ ∀ (s : State) (b : BTag), (getB s b).res = true → batchOwed s b = false → statFloes s (getB s b).ctx = [] → statSaved s (getB s b).ctx = [] →
    (getB s b).parent = none →
    ∃ t, exec (.batchEnd b) s = .next t ∧ getB t b = noBatch ∧ (∀ e ∈ t.teams, ¬ (e.1 / 256 = (getB s b).clu ∧ e.2.btag = b))
      ∧ ∀ j, j ≠ b → getB t j = getB s j

/-- R405, R406, R412, R416 and R417: an emitted record enters its bin; a withdrawal takes the oldest records that fit and answers; a ticket in room gets its record's header
and address; the governor moves the highest unpinned group as its table asks, on a cluster that is not stopped. Where the manual leaves a point open it states the model's choice: log 55, 57 and 110. -/
def Obligations.WorkOfARunningBatch : Prop :=
  (∀ (s : State) (g : GKey) (a : Nat) (lane : Nat) (e : Emit) (n : Node), s.emits = [e] → e.g = g → e.items = [(lane, a)] →
    findNode (getC s e.ctx) e.node = some n → effectsDone s g e.tno = true → (getBin s e.ctx e.node).recs.length + 1 < n.coalesce → NoWaits s g →
    ∃ t, exec (.emitRecordEntry 0) s = .next t ∧ SameMem s t ∧ t.emits = []
      ∧ (getBin t e.ctx e.node).recs = (getBin s e.ctx e.node).recs ++ [{ bytes := spadLoad s (getB s e.btag) a n.record, origins := (getB s e.btag).origins
                                                                          prio := (getB s e.btag).prio }])
  ∧ (∀ (s : State) (i j : Nat) (f : Fwk) (x : Formed) (n : Node), s.fwks[i]? = some f → findNode (getC s f.ctx) f.node = some n → 128 + n.record ≤ f.cap →
    fwkFormed s f = some j → s.formed[j]? = some x → (getK s f.ctx).replay = [] → 0 < n.record →
    let k := min (min n.coalesce ((f.cap - 128) / n.record)) x.recs.length
    ∃ t, exec (.fwkResponse i) s = .next t ∧ t.fwks = s.fwks.eraseIdx i ∧ (getC t f.ctx).fwkSeq = ((getC s f.ctx).fwkSeq + 1) % 2 ^ 32
      ∧ t.formed = (if x.recs.length ≤ k then s.formed.eraseIdx j else s.formed.set j { x with recs := x.recs.drop k })
      ∧ lineEmpty t (spadKey f.clu f.addr) = false)
  ∧ (∀ (s : State) (i : Nat) (f : Fwk) (n : Node), s.fwks[i]? = some f → findNode (getC s f.ctx) f.node = some n → f.cap < 128 + n.record →
    ∃ t, exec (.fwkResponse i) s = .next t ∧ t.fwks = s.fwks.eraseIdx i ∧ t.formed = s.formed ∧ lineEmpty t (spadKey f.clu f.addr) = false)
  ∧ (∀ (s : State) (i : Nat) (k : Ticket), s.tickets[i]? = some k → (getG s k.g).step ≠ .settle →
    let b := getB s k.btag
    let h := ringHdr s b (b.spb + k.hdr)
    ticketReady h k = true → rdPend (getG s k.g).com k.lane (k.dst % 64) = 4 * (k.dst / 64) + 2 →
    ∃ t, exec (.rtktGrant i) s = .next t ∧ t.tickets = s.tickets.eraseIdx i ∧ t.dmem = s.dmem
      ∧ rdX (getG t k.g).com k.lane (k.dst % 64) = BitVec.ofNat 32 (b.spb + k.value)
      ∧ memRead t.spad (spadKey b.clu (recAddr b h k.t)) 8 = leBytes 8 (mkRec (k.t % 2 ^ 32) (if k.pad then 3 else 1) k.len))
  ∧ ∀ (s : State) (tag : BTag) (o : Nat),
    let b := getB s tag
    let a := b.spb + o
    let w := leNat (spadLoad s b a 4)
    let ngrp := leNat (spadLoad s b (a + 4) 4)
    let clu := getD s b.clu
    b.res = true → b.gov = some o →
      (clu.stopping = true ∨ clu.stopped = true → exec (.governorTick tag) s = .next s) ∧ (clu.stopping = false → clu.stopped = false →
      (field w 30 4 ≠ 0 → ∃ t, exec (.governorTick tag) s = .next t ∧ SameMem s t ∧ (getB t tag).gov = none)
      ∧ (field w 30 4 = 0 → w.testBit 31 = true → 1 ≤ field w 3 0 → field w 3 0 ≤ 8 → 1 ≤ ngrp → ngrp ≤ 1024 → (getK s b.ctx).replay = [] →
        (govMove s b a = none → exec (.governorTick tag) s = .next s)
        ∧ (∀ g st vis, govMove s b a = some (g, st, vis) → ∃ t, exec (.governorTick tag) s = .next t
            ∧ Stored s t .spad (spadKey b.clu (a + 0x90 + g)) [BitVec.ofNat 8 ((memGet s.spad (spadKey b.clu (a + 0x90 + g))).toNat / 8 * 8 + st % 8)])))


/-! ### Pre-emption and contexts -/

/-- R83, R104, R105 and R419 to R423: pre-emption asks its victims to stop, their running traces discarded; a group that goes keeps its paths, its lanes and the registers that liveness marks, the others
reading 0; a batch that goes takes its allocation with it; what was saved resumes in new slots with the registers and lanes it had; a track whose
entries all wait for registers loses the group that waited last. Where the manual leaves a point open it states the model's choice: log 58, 59 and 60. -/
def Obligations.PreemptionAndResume : Prop :=
  (∀ (s : State) (vs : List GKey) (i : Nat) (f : Formed) (n : Node), nextFormed s = some i → s.formed[i]? = some f → findNode (getC s f.ctx) f.node = some n →
    victimsOk s f n (traceEntOf (leNat (ctxRead s f.ctx (n.ttBase + 32 * n.entry) 32))).regs vs = true →
      ∃ t, exec (.preemptionStart vs) s = .next t ∧ ∀ g ∈ vs, (getG t g).evict = true ∧ ((getG t g).run = none ∨ (getG s g).inStep2 = true))
  ∧ (∀ (s : State) (g : GKey),
    let q := getG s g
    let b := getB s q.btag
    let livx := fun l => match pathOfLane q l with | some i => (traceEnt s b (getP q i).tix).livx | none => 0
    q.res = true → q.evict = true → q.run = none → q.step = .off → q.frozen = false → wholeOf s [g] = [] → partReady s g = true →
    (∀ i, i < 32 → (getP q i).state ≠ .budgetWait ∧ (getP q i).state ≠ .fetchWait) →
      ∃ t x r, exec (.eviction [g]) s = .next t ∧ (getG t g).res = false ∧ t.saved = s.saved ++ [x] ∧ x.btag = q.btag ∧ x.batch = none ∧ x.groups = [r]
        ∧ r.live = q.live ∧ r.gnum = q.gnum ∧ (∀ i, i < 32 → getP r i = getP q i) ∧ r.com.p = q.com.p
        ∧ ∀ l k, l < 32 → k < 64 → rdX r.com l k = if (livx l).testBit k then rdX q.com l k else 0)
  ∧ (∀ (s : State) (b : BTag) (g : GKey), (getB s b).res = true → residents s b = [g] → (getG s g).res = true → (getG s g).evict = true → (getG s g).run = none → (getG s g).step = .off →
    evictReady s [g] [b] = true → (∀ e ∈ s.teams, e.2.btag ≠ b) → (∀ j ∈ s.jobs, j.btag ≠ b) → (∀ x ∈ s.saved, x.btag ≠ b) → b = (getG s g).btag → b < 65536 →
      ∃ t x, exec (.eviction [g]) s = .next t ∧ (getG t g).res = false ∧ getB t b = noBatch ∧ t.saved = s.saved ++ [x] ∧ x.btag = b
        ∧ x.batch = some (getB s b) ∧ x.groups.length = 1
        ∧ let bt := getB s b
          x.bytes = (s.spad.filter fun e => decide (spadKey bt.clu bt.spb ≤ e.1) && decide (e.1 < spadKey bt.clu bt.spb + (bt.sps + bt.mbox + bt.planes))).map
            fun e => (e.1 - spadKey bt.clu bt.spb, e.2))
  ∧ (∀ (s : State) (ctx i clu core : Nat) (slots : List GKey) (x : Saved), s.saved[i]? = some x → x.ctx = ctx → (getC s ctx).bound = true →
    (getC s ctx).failed = false → (getC s ctx).unbinding = false → (getK s ctx).cutting = false →
    (∀ q ∈ x.groups, ∀ p, p < 32 → waitsSync (getP q p) = false) → (∀ f ∈ s.faults, f.unres = false) →
    (∀ q ∈ x.groups, q.frozen = false ∧ q.step = .off) → (∀ e ∈ s.groups, e.2.btag = x.btag → e.2.step = .off) →
    let restored := fun t : State => ∀ (j : Nat) (q : Group) (g : GKey), x.groups[j]? = some q → slots[j]? = some g →
      (getG t g).com = q.com ∧ (getG t g).live = q.live ∧ (getG t g).gnum = q.gnum ∧ (getG t g).clu = gclu g ∧ (getG t g).core = gcore g ∧ (getG t g).link = q.link
      ∧ ∀ p, p < 32 → (getP (getG t g) p).state = (getP q p).state ∧ (getP (getG t g) p).mask = (getP q p).mask ∧ (getP (getG t g) p).tix = (getP q p).tix
    (x.batch = none → partFits s x slots = true → ∃ t, exec (.batchResume ctx i clu core slots) s = .next t ∧ t.saved = s.saved.eraseIdx i ∧ restored t)
    ∧ (∀ b, x.batch = some b → wholeFits s x b clu core slots = true →
        ∃ t, exec (.batchResume ctx i clu core slots) s = .next t ∧ t.saved = s.saved.eraseIdx i ∧ restored t
          ∧ (getB t x.btag).clu = clu ∧ (getB t x.btag).core = core ∧ (getB t x.btag).node = b.node ∧ (getB t x.btag).spb / 2 ^ 18 = core))
  ∧ ∀ (s : State) (trk : Nat) (g : GKey), (getG s g).res = true → (getG s g).run = none → (∃ i, i < 32 ∧ (getP (getG s g) i).state = .budgetWait) →
    g / 16 = trk → (∀ h, h / 16 = trk → h ≠ g → (getG s h).res = false) → evictReady s [g] (wholeOf s [g]) = true →
      ∃ t, exec (.budgetDeadlockEviction trk) s = .next t ∧ (getG t g).res = false

/-- R129, R394, R424 and R481: a bind takes the context's fields from its descriptor and drops its code lines, and what another context left under its number is gone, answering 1 where the descriptor is malformed, 2 while the wipe of an LCST runs and 3 where the context is bound; an
unbind starts the evictions and stays BUSY, and ends when every batch is saved. Where the manual leaves a point open it states the model's choice: log 62, 73 and 89. -/
def Obligations.BindAndUnbind : Prop :=
  ∀ (s : State) (ctx : Nat), ctx < 2 ^ 16 →
    let busy := s.regs.ctxcmd.getLsbD 31
    let c := getC s ctx
    let d := leNat (memRead s.dmem (s.regs.ctbase.toNat + 128 * ctx) 128)
    let bad := field d 15 0 ≠ ctx ∨ field d 31 18 ≠ 0 ∨ field d 254 244 ≠ 0 ∨ field d 1023 768 ≠ 0
    let tells := fun (t : State) (stat : Nat) (b : Bool) => t.regs.ctxcmd = BitVec.ofNat 64 (stat * 2 ^ 28 + (if b then 2 ^ 31 else 0) + ctx)
    let word := fun (o n : Nat) => field d (8 * (o + n) - 1) (8 * o)
    let other := c ≠ noCtx ∧ (c.ptroot ≠ word 8 8 ∨ c.savea ≠ word 0x40 8 ∨ c.bina ≠ word 0x50 8)
    (busy = false → s.mg.noFw = false → s.mg.wiping = false → c.bound = false → ¬ bad → ∃ t, exec (.ctxBind ctx) s = .next t ∧ SameMem s t ∧ tells t 0 false
      ∧ (∀ l ∈ t.code, l.ctx ≠ ctx)
      ∧ let e := getC t ctx
        e.bound = true ∧ e.failed = false ∧ e.stoppedQueues = false ∧ e.rev1 = d.testBit 16 ∧ e.recov = d.testBit 17 ∧ e.nh = word 4 4 ∧ e.ptroot = word 8 8
        ∧ e.htab = word 0x10 8 ∧ e.shdw = word 0x18 4 ∧ e.trapn = word 0x1C 4 ∧ e.rime = word 0x20 8 ∧ e.trapa = word 0x28 8 ∧ e.cola = word 0x30 8
        ∧ e.stata = word 0x38 8 ∧ e.savea = word 0x40 8 ∧ e.savel = word 0x48 8 ∧ e.bina = word 0x50 8 ∧ e.faila = word 0x58 8
        ∧ (other → e.pkgs = [] ∧ e.bins = [] ∧ e.shadows = [] ∧ (∀ x ∈ t.saved, x.ctx ≠ ctx) ∧ (∀ x ∈ t.formed, x.ctx ≠ ctx) ∧ (∀ x ∈ t.faults, x.ctx ≠ ctx)
          ∧ (∀ x ∈ t.sigs, x.ctx ≠ ctx) ∧ (∀ x ∈ t.pubWaits, x.ctx ≠ ctx) ∧ (∀ x ∈ t.jobs, x.ctx ≠ ctx) ∧ ∀ x ∈ t.safe, x.ctx ≠ ctx)
        ∧ (¬ other → e.pkgs = c.pkgs ∧ e.bins = c.bins ∧ e.shadows = c.shadows ∧ t.saved = s.saved))
    ∧ (busy = false → s.mg.noFw = false → s.mg.wiping = false → c.bound = false → bad → ∃ t, exec (.ctxBind ctx) s = .next t ∧ tells t 1 false ∧ getC t ctx = c
        ∧ t.reports = s.reports ++ [.bindRefused ctx])
    ∧ (busy = false → s.mg.noFw = false → s.mg.wiping = false → c.bound = true → ∃ t, exec (.ctxBind ctx) s = .next t ∧ tells t 3 false ∧ getC t ctx = c)
    ∧ (busy = false → s.mg.noFw = false → s.mg.wiping = true → ∃ t, exec (.ctxBind ctx) s = .next t ∧ tells t 2 false ∧ getC t ctx = c)
    ∧ (busy = false → c.bound = false → ∃ t, exec (.ctxUnbind ctx) s = .next t ∧ tells t 3 false ∧ getC t ctx = c)
    ∧ (busy = false → c.bound = true → c.failed = false → ∃ t, exec (.ctxUnbind ctx) s = .next t ∧ tells t 0 true ∧ (getC t ctx).unbinding = true
        ∧ (∀ g, (g, getG s g) ∈ s.groups → (getG s g).res = true → (getG s g).ctx = ctx → (getG s g).prof = .trace → (getG t g).evict = true))
    ∧ (busy = true → c.unbinding = true → evictReady s (ctxGroups s ctx) (batchesOf s ctx) = true → drainsOwed s ctx = false →
        ∃ t, exec (.ctxUnbind ctx) s = .next t ∧ tells t 0 false ∧ (getC t ctx).bound = false ∧ (getC t ctx).unbinding = false
          ∧ (∀ x ∈ t.tlb, x.ctx ≠ ctx) ∧ ∀ l ∈ t.code, l.ctx ≠ ctx)


/-! ### Faults, translations, banks and errors -/

/-- R232, R233 and R436: the oldest record that waits goes to its place in the ring; a serviced entry becomes ready at its index with its page's translation dropped everywhere; an
unresolvable one raises Translation with the record's address in ADDR; a retained one stays. -/
def Parts.FaultRecordsAndAnswers : Prop :=
  (∀ (s : State) (i : Nat) (f : FaultRec), s.faults.findIdx? (fun x => x.idx.isNone && !x.mgmt) = some i → s.faults[i]? = some f →
    (s.faults.filter fun x => x.idx.isSome).length < 4096 → (∀ x ∈ s.faults, x.idx ≠ some (s.regs.frwr.toNat % 4096)) →
    f.va < 2 ^ 57 → f.tix < 2 ^ 24 → f.rcnt < 256 → f.ctx < 2 ^ 16 → f.gnum < 1024 → f.clu < 8 → f.core < 256 → f.trk < 8 → f.path < 32 →
      ∃ t, exec .faultRecordWrite s = .next t ∧ t.regs.frwr = s.regs.frwr + 1 ∧ t.faults[i]? = some { f with idx := some (s.regs.frwr.toNat % 4096) }
        ∧ (∀ k, k < s.regs.frbase.toNat + 32 * (s.regs.frwr.toNat % 4096) ∨ s.regs.frbase.toNat + 32 * (s.regs.frwr.toNat % 4096) + 32 ≤ k → memGet t.hmem k = memGet s.hmem k)
        ∧ let r := leNat (memRead t.hmem (s.regs.frbase.toNat + 32 * (s.regs.frwr.toNat % 4096)) 32)
          field r 255 199 = f.va ∧ field r 198 196 = (match f.kind with | .load => 0 | .store => 1 | .atomic => 2 | .gath => 3 | .scat => 4)
          ∧ field r 195 195 = (if f.wr then 1 else 0) ∧ field r 191 168 = f.tix ∧ field r 167 160 = f.rcnt ∧ field r 159 128 = f.lanes.toNat
          ∧ field r 127 112 = f.ctx ∧ field r 111 102 = f.gnum ∧ field r 101 99 = f.clu ∧ field r 98 91 = f.core ∧ field r 90 88 = f.trk ∧ field r 87 83 = f.path)
  ∧ (∀ (s : State) (i : Nat), (∀ f ∈ s.faults, f.idx ≠ some i) → exec (.faultAnswerServiced i) s = .next s ∧ exec (.faultAnswerUnresolvable i) s = .next s
      ∧ exec (.faultAnswerRetained i) s = .next s)
  ∧ ∀ (s : State) (i : Nat) (f : FaultRec), i < 4096 → (∀ x ∈ s.faults, x.idx = some i ↔ x = f) → f ∈ s.faults → f.unres = false →
    (getG s f.g).res = true → (getG s f.g).btag = f.btag → (getG s f.g).gnum = f.gnum → f.path < 32 →
    (∀ e ∈ s.groups, e.2.res = true → e.2.btag = f.btag → e.2.gnum = f.gnum → e.1 = f.g) → (s.groups.map Prod.fst).Nodup →
    let p := getP (getG s f.g) f.path
    let told := fun (t : State) (code : Nat) => t.regs.fans = BitVec.ofNat 64 (code * 4096 + i)
    (p.state = .replay → p.wakeHold = 0 → p.tix < 2 ^ 24 →
      ∃ t, exec (.faultAnswerServiced i) s = .next t ∧ told t 0 ∧ t.faults = s.faults.filter (fun x => x != f) ∧ SameMem s t
        ∧ (∀ x ∈ t.tlb, x.ctx = f.ctx → x.vpage + x.size ≤ f.va / 0x4000 * 0x4000 ∨ f.va / 0x4000 * 0x4000 + 0x4000 ≤ x.vpage)
        ∧ ∀ l, l < 32 → p.mask.getLsbD l = true → ∃ j, j < 32 ∧ (getP (getG t f.g) j).state = .ready ∧ (getP (getG t f.g) j).tix = p.tix
            ∧ (getP (getG t f.g) j).mask.getLsbD l = true)
    ∧ (p.state = .replay → (getB s f.btag).res = true → (∀ h, (getB s f.btag).halt = some h → h.running = false) → (getB s f.btag).masked = false →
      canHandle (getC s (getB s f.btag).ctx) = true →
      ∃ t, exec (.faultAnswerUnresolvable i) s = .next t ∧ told t 1 ∧ t.faults = s.faults.filter (fun x => x != f) ∧ SameMem s t
        ∧ (getP (getG t f.g) f.path).state = .halted ∧ (getP (getG t f.g) f.path).mask = p.mask ∧ (getP (getG t f.g) f.path).tix = p.tix
        ∧ ∃ h r, (getB t f.btag).halt = some h ∧ r ∈ h.recs ∧ r.lanes = f.lanes ∧ r.exms = f.lanes ∧ r.tix = f.tix ∧ r.trap.code = 0x0B
          ∧ r.trap.addr = s.regs.frbase.toNat + 32 * i ∧ r.trap.off = 0 ∧ r.trap.word = 0 ∧ r.path = f.path)
    ∧ exec (.faultAnswerRetained i) s = .next { s with regs := { s.regs with fans := BitVec.ofNat 64 (2 * 4096 + i) } }

/-- R435, R438: an invalidation drops a context's translations that overlap its range, or all of them, and stays busy until every access that used one is performed. -/
def Parts.Invalidation : Prop :=
  ∀ (s : State) (ctx : Nat), ctx < 2 ^ 16 →
    (s.inval ≠ none → ∀ va len, exec (.tlbInvalidateRange ctx va len) s = .next s ∧ exec (.tlbInvalidateAll ctx) s = .next s)
    ∧ (s.inval = none → ∃ t, exec (.tlbInvalidateAll ctx) s = .next t ∧ SameMem s t ∧ t.inval = some (ctx, none)
        ∧ t.tlb = s.tlb.filter (fun x => x.ctx != ctx) ∧ t.dropped = s.tlb.filter (fun x => x.ctx == ctx) ∧ t.regs.tlbictl = BitVec.ofNat 64 (ctx * 65536 + 4))
    ∧ (∀ va len, va < 2 ^ 57 → va % 2 ^ 14 = 0 → len % 2 ^ 14 = 0 → 0 < len → len < 2 ^ 57 → s.inval = none →
        ∃ t, exec (.tlbInvalidateRange ctx va len) s = .next t ∧ SameMem s t ∧ t.inval = some (ctx, some (va, len))
        ∧ (∀ x, x ∈ t.tlb ↔ x ∈ s.tlb ∧ ¬ (x.ctx = ctx ∧ x.vpage < va + len ∧ va < x.vpage + x.size))
        ∧ t.regs.tlbiva.toNat = va ∧ t.regs.tlbilen.toNat = len ∧ t.regs.tlbictl = BitVec.ofNat 64 (ctx * 65536))
    ∧ (∀ r, s.inval = some (ctx, r) → (∀ f ∈ s.flight, (getB s f.btag).ctx ≠ ctx) → (∀ d ∈ s.sigs, d.ctx ≠ ctx) →
      (∀ e ∈ s.groups, e.2.ctx = ctx → e.2.run = none) →
        exec .tlbInvalidateDone s = .next { s with inval := none, dropped := [], stale := viewCut (fun e => if inDropped s e then e.lanes else 0) s.stale })
    ∧ (∀ r d x, s.inval = some (ctx, r) → d ∈ s.sigs → d.g ≠ none → d.ctx = ctx → d.sp = .dev → x ∈ s.dropped → x.host = false → x.ppage ≤ d.addr →
        d.addr < x.ppage + x.size → exec .tlbInvalidateDone s = .next s)
    ∧ ∀ r (f : Flight) (va pa : Nat) (v : List Byte), s.inval = some (ctx, r) → f ∈ s.flight → (getB s f.btag).ctx = ctx → f.eff = .store .dev va pa v → v ≠ [] →
        (∀ a len, r = some (a, len) → a < va + v.length ∧ va < a + len) → exec .tlbInvalidateDone s = .next s

/-- R232, R233 and R436: the oldest record that waits goes to its place in the ring; a serviced entry becomes ready at its index with its page's translation dropped everywhere; an
unresolvable one raises Translation with the record's address in ADDR; a retained one stays. R435, R438: an invalidation drops a context's translations that overlap its range, or all of them, and stays busy until every access that used one is performed. Where the manual leaves a point open it states the model's choice: log 24 and 61. -/
def Obligations.FaultsAndInvalidation : Prop := Parts.FaultRecordsAndAnswers ∧ Parts.Invalidation

/-- R429, R441 to R443, R446: a request for a row that is not open opens it and adds 1 to its counter; at RTH an alert sends a command to each neighbour, sets the counter to 0 and puts
the bank in back-off; a refresh sets a counter to 0, or makes the command due for that row stand for it; the configuration takes only values in range, and so do the thresholds of R447. A request that finds the bank's queue full waits in the fabric (R429). -/
def Parts.BanksAndRowCounters : Prop :=
  (∀ (s : State) (b : BankId) (row : Nat) (rest : List Nat),
    let k := getBank s b
    let count := fun (t : State) (r : Nat) => sget 0 t.actCount (rowKey b r)
    let limit := field (sget 0x1000430A00000000#64 s.actCfg b.stack).toNat 63 48
    let blast := field (sget 0x1000430A00000000#64 s.actCfg b.stack).toNat 47 46
    let served := { k with queue := rest ++ k.fabric.take 1, fabric := k.fabric.tail }
    let only := fun (t : State) => SameMem s t ∧ ∀ c, bankKey c ≠ bankKey b → getBank t c = getBank s c
    k.queue = row :: rest → k.rfm = [] → row < 98304 →
      (k.opened = some row → ∃ t, exec (.bankRequestService b) s = .next t ∧ only t ∧ getBank t b = served ∧ ∀ r, count t r = count s r)
      ∧ (k.opened ≠ some row → count s row + 1 < limit → ∃ t, exec (.bankRequestService b) s = .next t ∧ only t ∧ getBank t b = { served with opened := some row }
          ∧ count t row = count s row + 1 ∧ ∀ r, r < 98304 → r ≠ row → count t r = count s r)
      ∧ (k.opened ≠ some row → limit ≤ count s row + 1 → blast = 1 ∨ blast = 2 → ∃ t, exec (.bankRequestService b) s = .next t ∧ only t
          ∧ (getBank t b).queue = served.queue ∧ (getBank t b).fabric = served.fabric ∧ (getBank t b).opened = none ∧ (getBank t b).backoff = true ∧ count t row = 0
          ∧ (∀ r, r < 98304 → r ≠ row → count t r = count s r)
          ∧ (getBank t b).rfm = ((if blast = 1 then [(row : Int) - 1, row + 1] else [(row : Int) - 2, row - 1, row + 1, row + 2]).filterMap fun r : Int =>
              if 0 ≤ r ∧ r < 98304 then some (r.toNat, false) else none)
          ∧ ∃ r ∈ t.mg.log, field r 171 168 = 9 ∧ field r 113 97 = row ∧ field r 127 124 = b.stack % 16
            ∧ (field r 175 172 = 5 ∨ ∃ o ∈ s.mg.log, field o 171 168 = 9 ∧ field o 159 0 = field r 159 0 ∧ field o 175 172 = field r 175 172)))
  ∧ (∀ (s : State) (b : BankId),
    let k := getBank s b
    (k.queue = [] → ∃ t, exec (.bankRequestService b) s = .next t ∧ getBank t b = k)
    ∧ (k.queue = [] → exec (.bankIdleClose b) s = .next (setBank s b { k with opened := none })) ∧ (k.queue ≠ [] → exec (.bankIdleClose b) s = .next s)
    ∧ (k.rfm = [] → exec (.backoffExpiry b) s = .next (setBank s b { k with backoff := false })) ∧ (k.rfm ≠ [] → exec (.backoffExpiry b) s = .next s)
    ∧ (∀ row both rest, k.rfm = (row, both) :: rest → ∃ t, exec (.rfmCommandDone b) s = .next t ∧ getBank t b = { k with rfm := rest }
        ∧ ∀ j, sget 0 t.actCount j = if both = true ∧ j = rowKey b row then 0 else sget 0 s.actCount j)
    ∧ (∀ row, (∀ e ∈ k.rfm, e.1 ≠ row) → ∃ t, exec (.periodicRefresh b row) s = .next t ∧ getBank t b = k
        ∧ ∀ j, sget 0 t.actCount j = if j = rowKey b row then 0 else sget 0 s.actCount j)
    ∧ ∀ row rest, k.rfm = (row, false) :: rest → (∀ e ∈ rest, e.1 ≠ row) → ∃ t, exec (.periodicRefresh b row) s = .next t ∧ getBank t b = { k with rfm := (row, true) :: rest }
        ∧ ∀ j, sget 0 t.actCount j = sget 0 s.actCount j)
  ∧ ∀ (s : State) (stack : Nat) (v : DWord),
    let inside := 8 ≤ field v.toNat 63 48 ∧ (field v.toNat 47 46 = 1 ∨ field v.toNat 47 46 = 2) ∧ 10 ≤ field v.toNat 36 30 ∧ field v.toNat 36 30 ≤ 100
    let sets := fun (k : Nat) (lo hi : Nat) (m : Mgmt) => stack = k →
      exec (.rowCounterConfig stack v) s = .next (if lo ≤ v.toNat ∧ v.toNat ≤ hi then { s with mg := m } else s)
    (¬ inside → stack < 12 → exec (.rowCounterConfig stack v) s = .next s)
    ∧ sets 12 1 255 { s.mg with thRow := v.toNat } ∧ sets 13 0 (2 ^ 32 - 1) { s.mg with thReplay := v.toNat }
    ∧ sets 14 0 (2 ^ 32 - 1) { s.mg with thRetry := v.toNat } ∧ sets 15 0 255 { s.mg with thMargin := v.toNat }
    ∧ (inside → stack < 12 → ∃ t, exec (.rowCounterConfig stack v) s = .next t ∧ SameMem s t
        ∧ (let w := (sget 0x1000430A00000000#64 t.actCfg stack).toNat; field w 63 48 = field v.toNat 63 48 ∧ field w 47 46 = field v.toNat 47 46 ∧ field w 45 40 = field v.toNat 45 40
            ∧ field w 39 37 = 0 ∧ field w 36 30 = field v.toNat 36 30 ∧ field w 29 0 = 0)
        ∧ ∀ j, j ≠ stack → sget 0x1000430A00000000#64 t.actCfg j = sget 0x1000430A00000000#64 s.actCfg j)

/-- R438, R447: a corrected error is logged and counted for its row, with a predictive record at the threshold; a scrub's error poisons its burst; a delivered or owned error fails its context;
an error that nothing owns fences its unit, once no batch runs on it or its cluster is stopped; scrubbing leaves memory as it is, but for a
poisoned burst that a management scrub may rewrite. An event joins the open record of its unit and location (R439). -/
def Parts.MemoryErrors : Prop :=
  ∀ (s : State) (e : MemErr),
    let logs := fun (t : State) (sev : Nat) => ∃ r ∈ t.mg.log, field r 171 168 = unitCode e.unit ∧ (field r 175 172 = sev
      ∨ ∃ o ∈ s.mg.log, field o 171 168 = field r 171 168 ∧ field o 159 0 = field r 159 0 ∧ field o 175 172 = field r 175 172 ∧ field r 175 172 ≠ 4)
    let others := fun (t : State) => SameMem s t ∧ t.groups = s.groups ∧ t.ctxs = s.ctxs
    (e.kind = .corrected ∧ e.unit ≠ .stack ∨ e.kind = .cleanCacheLine → ∃ t, exec (.memoryError e) s = .next t ∧ others t ∧ logs t 0 ∧ t.tlb = s.tlb ∧ t.poison = s.poison
      ∧ t.mg.fenced = s.mg.fenced)
    ∧ (e.kind = .corrected → e.unit = .stack → s.mg.rowErrs = [] → s.mg.thRow ≠ 1 → 1 ≤ s.mg.thRow → ∃ t, exec (.memoryError e) s = .next t ∧ others t ∧ logs t 0
        ∧ t.mg.rowErrs = [(e.stack, rowKey { stack := e.stack, chan := e.chan, bg := e.bg, bank := e.hbk } e.row, 1)])
    ∧ (e.kind = .corrected → e.unit = .stack → s.mg.rowErrs = [] → s.mg.thRow = 1 → ∃ t, exec (.memoryError e) s = .next t ∧ others t
        ∧ (∃ r ∈ t.mg.log, field r 175 172 = 4))
    ∧ (e.kind = .tlbParity → ∃ t, exec (.memoryError e) s = .next t ∧ others t ∧ logs t 0 ∧ ∀ x ∈ t.tlb, x ∈ s.tlb ∧ x.clu ≠ e.clu)
    ∧ (e.kind = .scrubPoison → ∃ t, exec (.memoryError e) s = .next t ∧ others t ∧ logs t 1 ∧ sget false t.poison (e.paddr / 64) = true
        ∧ ∀ j, j ≠ e.paddr / 64 → sget false t.poison j = sget false s.poison j)
    ∧ (∀ c, e.kind = .delivered ∨ e.kind = .ownedStore → e.ctx = some c → (getC s c).bound = true → (getC s c).failed = false →
        ∃ t, exec (.memoryError e) s = .next t ∧ (getC t c).failed = true ∧ logs t 2)
    ∧ (e.kind = .codeLine → ∃ t, exec (.memoryError e) s = .next t ∧ others t ∧ logs t 1
        ∧ ∀ l ∈ t.code, l.core = e.clu * 192 + e.core → l.line = e.paddr / 128 → (e.ctx = none ∨ e.ctx = some l.ctx) → l.poison = true)
    ∧ (e.kind = .unowned → ∃ t, exec (.memoryError e) s = .next t ∧ others t ∧ logs t 3
        ∧ (s.mg.fencing = [] → (∀ u, fenceUnit (.unit e) = some u → unitOpen s u = true) → t.mg.fenced = s.mg.fenced ++ [.unit e] ∧ t.mg.fencing = [])
        ∧ (s.mg.fencing = [] → (∃ u, fenceUnit (.unit e) = some u ∧ unitOpen s u = false) → t.mg.fenced = s.mg.fenced ∧ t.mg.fencing = [.unit e]))
    ∧ (∀ pa, sget false s.poison (pa / 64) = false → ∃ t, exec (.patrolScrub pa) s = .next t ∧ others t ∧ t.mg.log = s.mg.log ∧ t.poison = s.poison
        ∧ let k := getBank s (bankOf pa)
          getBank t (bankOf pa) = if k.queue.length < 64 ∧ k.fabric = [] then { k with queue := k.queue ++ [rowOf pa] } else { k with fabric := k.fabric ++ [rowOf pa] })
    ∧ ∀ pa, sget false s.poison (pa / 64) = true → ∃ t, exec (.patrolScrub pa) s = .next t ∧ t.groups = s.groups ∧ t.ctxs = s.ctxs ∧ t.mg = s.mg
        ∧ (t.dmem = s.dmem ∧ t.poison = s.poison ∨ sget false t.poison (pa / 64) = false ∧ ∀ k, k / 64 ≠ pa / 64 → memGet t.dmem k = memGet s.dmem k)

/-- R429, R441 to R443, R446: a request for a row that is not open opens it and adds 1 to its counter; at RTH an alert sends a command to each neighbour, sets the counter to 0 and puts
the bank in back-off; a refresh sets a counter to 0, or makes the command due for that row stand for it; the configuration takes only values in range, and so do the thresholds of R447. A request that finds the bank's queue full waits in the fabric (R429). R438, R447: a corrected error is logged and counted for its row, with a predictive record at the threshold; a scrub's error poisons its burst; a delivered or owned error fails its context;
an error that nothing owns fences its unit, once no batch runs on it or its cluster is stopped; scrubbing leaves memory as it is, but for a
poisoned burst that a management scrub may rewrite. An event joins the open record of its unit and location (R439). Where the manual leaves a point open it states the model's choice: log 7, 23, 76, 78, 83, 90 and 111. -/
def Obligations.BanksAndErrors : Prop := Parts.BanksAndRowCounters ∧ Parts.MemoryErrors

/-! ### Copies land, shadows are published -/

/-- R303 to R307, R309 and R313: a row of a copy lands once it may: its bytes stand at their destination, its lines are full, its slot's bit is set, and the entry ends with its last row; CPBS answers
with the bitmap once the slot is not bound; a publish swaps the page of the buffer, drops the old mappings and gives the old page back. Where the manual leaves a point open it states the model's choice: log 45, 49, 51 and 108. -/
def Obligations.CopiesLandAndPublish : Prop :=
  (∀ (s : State) (i r : Nat) (j : Job) (c : CopyReq) (off a n : Nat), s.jobs[i]? = some j → j.item r = some c → c.segs r = [(off, a, n)] →
    let clu := j.core / 192
    let all := j.rows.all fun x => x = r ∨ j.landed.getLsbD x = true
    let from_ := fun k => pageByte (sget 0 c.pages ((c.ofs + off + k) / c.psize)) ((c.ofs + off + k) % c.psize)
    let ended := fun t : State => if all then t.jobs = s.jobs.eraseIdx i else ∃ x, t.jobs[i]? = some x ∧ x.landed = (j.landed ||| (1#32 <<< r)) ∧ x.items = j.items
    let slotted := fun t : State => c.isTile = true → (getCpb (getG t j.g) c.slot).val = ((getCpb (getG s j.g) c.slot).val ||| (1#32 <<< r))
    (rowReady s i j r = false → exec (.copyLineLand i r) s = .next s)
    ∧ (rowReady s i j r = true → rowPeer c r = false → rowAbsent s j c r = false → c.bar = none → c.shadow = false → c.handle ≠ none → s.poison = [] → r < 32 →
      standsAt s j.g j.btag j.gnum = true →
      (c.kind = .cpl ∨ c.kind = .cpt →
        ∃ t, exec (.copyLineLand i r) s = .next t ∧ ended t ∧ slotted t ∧ Stored s t .spad (spadKey clu a) ((List.range n).map fun k => memGet (memOf s (from_ k).1) (from_ k).2)
          ∧ ∀ ln, a / 128 ≤ ln → 128 * ln < a + n → (∀ x ∈ j.rows, x ≠ r → j.landed.getLsbD x = false → ∀ y ∈ j.dest x, y.1 + y.2 ≤ 128 * ln ∨ 128 * ln + 128 ≤ y.1) →
              lineEmpty t (spadKey clu (128 * ln)) = false)
      ∧ (c.kind = .cplg ∨ c.kind = .cpo → c.ofs + off + n ≤ ((c.ofs + off) / c.psize + 1) * c.psize → 0 < n → (getB s j.btag).regions = [] →
        ∃ t, exec (.copyLineLand i r) s = .next t ∧ ended t ∧ slotted t
          ∧ Stored s t (from_ 0).1 (from_ 0).2 ((List.range n).map fun k => memGet s.spad (presentKey (getB s j.btag) (a + k - (getB s j.btag).spb))))
      ∧ (c.kind = .cpx → n = 4 → rdPend (getG s j.g).com c.lane (c.dst % 64) = 4 * (c.dst / 64) + 2 →
        ∃ t, exec (.copyLineLand i r) s = .next t ∧ ended t ∧ SameMem s t ∧ rdPend (getG t j.g).com c.lane (c.dst % 64) = 0
          ∧ rdX (getG t j.g).com c.lane (c.dst % 64) = BitVec.ofNat 32 (leNat ((List.range 4).map fun k => memGet (memOf s (from_ k).1) (from_ k).2)))))
  ∧ (∀ (s : State) (i : Nat) (j : Job) (slot dst : Nat), s.jobs[i]? = some j → j.cpbs = some (slot, dst) →
    let x := getCpb (getG s j.g) slot
    standsAt s j.g j.btag j.gnum = true → (x.st = .bound → exec (.cpbsArrival i) s = .next s)
    ∧ (x.st ≠ .bound → (∀ f ∈ s.flight, f.g ≠ j.g) → ∃ t, exec (.cpbsArrival i) s = .next t ∧ SameMem s t ∧ t.jobs = s.jobs.eraseIdx i ∧ ∀ l, l < 32 → j.lanes.getLsbD l = true →
        rdPend (getG s j.g).com l (dst % 64) = 4 * (dst / 64) + 2 → rdX (getG t j.g).com l (dst % 64) = x.val ∧ rdPend (getG t j.g).com l (dst % 64) = 0))
  ∧ ∀ (s : State) (i : Nat) (w : PubWait), s.pubWaits[i]? = some w →
    let idx := hIdx w.handle
    let e := hEntry s w.ctx idx
    (copiesOwed s w.ctx idx = true ∨ effectsDone s w.g w.tno = false → exec (.pubComplete i) s = .next s)
    ∧ ∀ (x : Shadow) (leaf : Tlb) (pte raw rime : Nat), effectsDone s w.g w.tno = true → copiesOwed s w.ctx idx = false → oldOwed s w.ctx idx = false →
        pubHeld s w.ctx e.vbase e.len = false → pubPageHeld s w.ctx idx = false → (getG s w.g).evict = false → s.saved = [] →
        shadowOf (getC s w.ctx) idx = some x → e.pages = 1 → x.written = [0] → x.rime = [rime] → rime < 2 ^ 57 → rime % 1024 = 0 →
        let buf := hEntry s w.ctx e.sbuf
        walk s 0 w.ctx e.vbase = .leaf leaf pte → leaf.size = pszBytes e.psz → pte + 8 ≤ buf.plist ∨ buf.plist + 8 ≤ pte → raw = leNat (memRead s.dmem buf.plist 8) →
        ∃ u t, exec (.pubComplete i) s = .next t ∧ t.pubWaits = s.pubWaits.eraseIdx i ∧ leNat (memRead u.dmem buf.plist 8) = rime
          ∧ field (leNat (memRead u.dmem pte 8)) 56 10 = rime / 1024 ∧ (∀ k, k < pte ∨ pte + 8 ≤ k → k < buf.plist ∨ buf.plist + 8 ≤ k → memGet u.dmem k = memGet s.dmem k)
          ∧ u.hmem = s.hmem ∧ u.spad = s.spad ∧ (∀ y ∈ t.tlb, y.ctx = w.ctx → y.vpage + y.size ≤ e.vbase ∨ e.vbase + e.len ≤ y.vpage)
          ∧ t.dmem = (hPut (poolReturn u w.ctx [raw] e.psz) w.ctx idx 131 1 0).dmem ∧ shadowOf (getC t w.ctx) idx = none ∧ t.pubs = s.pubs ++ [(w.ctx, e.vbase, e.len)]
          ∧ ∀ p, p < 32 → waitsSync (getP (getG s w.g) p) = true → (getP (getG s w.g) p).tno = w.tno → waitsSync (getP (getG t w.g) p) = false

/-! ### The floe's events -/

/-- R174, R323, R328, R339 to R342: with no pass in flight, no churn that could start and nothing to hold it, the floe grants a pass to the eligible entry of highest effective priority, and of those to the smallest serial,
among those whose posting lanes have no effect of the posting trace or an earlier one left; a pass
folds its operands into the accumulator and raises DONE; the last writes TVAL and fills its line. -/
def Parts.FloePasses : Prop :=
  ∀ (s : State) (k : FKey),
    let f := getF s k
    let held := f.quiesce = true ∨ (getD s (k / 48)).stopping = true ∨ (getD s (k / 48)).stopped = true
    let prio := fun x : Ent => min 3 (field x.recd 508 507 + (x.age + ((sget 0 s.clock (k / 48)).toNat - x.born)) / 65536)
    let due := fun x : Ent => x.st = .eligible ∧ ∀ y ∈ s.flight ++ (restOf s x.g).filter (fun b => !b.eff.taken), y.g = x.g → y.lanes &&& x.lanes ≠ 0 → x.tno < y.tno
    (∀ e ∈ f.ents, e.2.st ≠ .waiting) → (f.ents.map Prod.fst).Nodup → f.serial < 2 ^ 32 →
    (∀ e ∈ f.ents, e.2.serial < 2 ^ 32 ∧ (f.serial + 2 ^ 32 - e.2.serial) % 2 ^ 32 ≤ 2 ^ 30) →
      (f.inFlight ≠ none ∨ f.churn ≠ none ∨ held ∨ (∃ e ∈ f.lins, churnReady f e.1 = true) → ∃ t, exec (.floePassGrant k) s = .next t ∧ getF t k = f)
      ∧ ((∀ e ∈ f.ents, ¬ due e.2) → ∃ t, exec (.floePassGrant k) s = .next t ∧ getF t k = f)
      ∧ (f.inFlight = none → f.churn = none → ¬ held → (∀ e ∈ f.lins, churnReady f e.1 = false) → (∃ e ∈ f.ents, due e.2) →
        ∃ t, exec (.floePassGrant k) s = .next t ∧ SameMem s t ∧ t.groups = s.groups ∧ (∀ j, j ≠ k → getF t j = getF s j) ∧
          ∃ e ∈ f.ents, due e.2 ∧ (getF t k).inFlight = some e.1 ∧ entAt (getF t k) e.1 = { e.2 with st := .running } ∧ (getF t k).tiles = f.tiles
            ∧ ∀ o ∈ f.ents, due o.2 → o.1 ≠ e.1 → prio o.2 < prio e.2 ∨ prio o.2 = prio e.2 ∧ serLt o.2.serial e.2.serial = false)
      ∧ (f.inFlight = none → exec (.floePassComplete k) s = .next (floeSweep s k))
      ∧ ∀ i, f.inFlight = some i → i < 32 →
        let x := entAt f i
        let r := x.recd
        let tile := field r 503 501
        let last := x.done + 1 = field r 500 493 + 1
        let tok := spadKey (k / 48) (field r 57 32)
        let rows := entRows s k x x.done none
        x.st = .running → x.lin = none → x.derived = false → x.snapA = none → x.snapB = none → r.testBit 506 = false → field r 505 504 = 0 →
          ∃ t, exec (.floePassComplete k) s = .next t ∧ (getF t k).inFlight = none
            ∧ (∀ e, e < 1024 → tileVals (getF t k) tile e = dotFold (rowVals (rA r) (rows.1.getD (e / 32) [])) (rowVals (rB r) (rows.2.getD (e % 32) []))
                (if x.done = 0 ∧ field r 511 509 = 1 then 0 else tileVals f tile e))
            ∧ (∀ n e, n < 8 → n ≠ tile → tileVals (getF t k) n e = tileVals f n e)
            ∧ (¬ last → (entAt (getF t k) i).done = x.done + 1 ∧ (entAt (getF t k) i).st = .eligible ∧ SameMem s t)
            ∧ (last → entAt (getF t k) i = noEnt ∧ Stored s t .spad tok ((List.range 4).map fun n => BitVec.ofNat 8 (field r 159 128 / 256 ^ n)) ∧ lineEmpty t tok = false)

/-- R347 to R361: a tile operation is performed once those before it are, and the effects of its lanes up to its trace: MZER zeroes, MLDA loads, MRD reads a row to the lanes, MSTA writes, MPUB hands over, MREL frees; TADD, TSCL and TAXPY write the
rounded result; TMAP, TMUL and TCVT write converted codes. -/
def Parts.FloeTileOps : Prop :=
  ∀ (s : State) (k : FKey) (i : Nat) (o : TileOp),
    let f := getF s k
    let q := o.req
    let clu := k / 48
    let v := fun (n e : Nat) => tileVals f n e
    let row := fun r => spadKey clu (q.addr + 16 * q.pitch * r)
    f.queue[i]? = some o → (∀ e ∈ f.ents, e.2.st ≠ .waiting) → (∀ g, NoWaits s g) →
      let due := tileOpReady f o = true ∧ ∀ y ∈ s.flight ++ (restOf s o.g).filter (fun b => !b.eff.taken), y.g = o.g → y.lanes &&& o.com ≠ 0 → o.tno < y.tno
      (¬ due → exec (.floeTileOpPerform k i) s = .next (floeSweep s k))
      ∧ (due →
        ∃ t, exec (.floeTileOpPerform k i) s = .next t ∧ (getF t k).queue = f.queue.eraseIdx i
          ∧ (q.kind = .mzer → q.d < 8 → SameMem s t ∧ ∀ e, tileVals (getF t k) q.d e = 0)
          ∧ (q.kind = .mlda → q.d < 8 → SameMem s t ∧ ∀ e, e < 1024 → tileVals (getF t k) q.d e = BitVec.ofNat 32 (leNat (memRead s.spad (row (e / 32) + 4 * (e % 32)) 4)))
          ∧ (q.kind = .mrel → q.a < 8 → SameMem s t ∧ (tileAt (getF t k) q.a).v = false)
          ∧ (q.kind = .mpub → q.a < 8 → SameMem s t ∧ (tileAt (getF t k) q.a).group = q.grp ∧ ∀ e, tileVals (getF t k) q.a e = v q.a e)
          ∧ (q.kind = .mrd → SameMem s t ∧ ∀ l, l < 32 → o.lanes.getLsbD l = true → rdPend (getG s o.g).com l (q.dst % 64) = 4 * (q.dst / 64) + 2 →
              rdX (getG t o.g).com l (q.dst % 64) = v q.a (32 * q.row + l) ∧ rdPend (getG t o.g).com l (q.dst % 64) = 0)
          ∧ (q.kind = .msta → 8 ≤ q.pitch → q.addr % 16 = 0 → q.addr + 16 * q.pitch * 31 + 128 ≤ 2 ^ 26 → ∀ r c n, r < 32 → c < 32 → n < 4 →
              memGet t.spad (row r + 4 * c + n) = (v q.a (32 * r + c)).extractLsb' (8 * n) 8 ∧ lineEmpty t (row r + 4 * c) = false)
          ∧ (q.kind = .tadd → q.d < 8 → q.rnd ≠ .rs → o.lin = none → ∀ e, e < 1024 →
              SumIs fmtF32 q.rnd (fDecode fmtF32 (v q.a e).toNat) (fDecode fmtF32 (v q.b e).toNat) (tileVals (getF t k) q.d e).toNat)
          ∧ (q.kind = .tscl → q.d < 8 → ∀ e, e < 1024 → (tileVals (getF t k) q.d e).toNat = fMul fmtF32 q.rnd q.k (v q.a e).toNat)
          ∧ (q.kind = .taxpy → q.d < 8 → ∀ e, e < 1024 →
              (tileVals (getF t k) q.d e).toNat = fEnc fmtF32 q.rnd (fvAdd q.rnd (fvMul (fDecode fmtF32 q.k) (fDecode fmtF32 (v q.a e).toNat)) (fDecode fmtF32 (v q.b e).toNat)))
          ∧ (q.kind = .tmul ∨ q.kind = .tcvt ∧ q.ty ≠ .q4 → fmtBits (fmtOf q.ty) / 8 * 32 ≤ 16 * q.pitch → q.addr + 16 * q.pitch * 31 + 128 ≤ 2 ^ 26 → ∀ r c, r < 32 → c < 32 →
              let n := fmtBits (fmtOf q.ty) / 8
              let x := fDecode fmtF32 (v q.a (32 * r + c)).toNat
              let y := if q.kind = .tmul then fvMul x (fDecode fmtF32 (v q.b (32 * r + c)).toNat) else x
              leNat (memRead t.spad (row r + n * c) n) = (fRound (fmtOf q.ty) q.rnd q.sat q.ftz (if q.rnd = .rs then rsHash q.seed r c else 0) y).code % 256 ^ n
              ∧ lineEmpty t (row r + n * c) = false))

/-- R174, R323, R328, R339 to R342: with no pass in flight, no churn that could start and nothing to hold it, the floe grants a pass to the eligible entry of highest effective priority, and of those to the smallest serial,
among those whose posting lanes have no effect of the posting trace or an earlier one left; a pass
folds its operands into the accumulator and raises DONE; the last writes TVAL and fills its line. R347 to R361: a tile operation is performed once those before it are, and the effects of its lanes up to its trace: MZER zeroes, MLDA loads, MRD reads a row to the lanes, MSTA writes, MPUB hands over, MREL frees; TADD, TSCL and TAXPY write the
rounded result; TMAP, TMUL and TCVT write converted codes. Where the manual leaves a point open it states the model's choice: log 19, 81 and 109. -/
def Obligations.FloePassesAndTileOps : Prop := Parts.FloePasses ∧ Parts.FloeTileOps

/-- R375, R376, R378, R179, R321, R342: a churn starts on a closed lineage that nothing holds back, settles one entry at a step, and writes the tokens when all are settled; a count that reaches 2^31 is drained, and
a drain writes its counts to the floe's reserved area and adds them to the context's; a floe with no pass in flight comes to its quiescent point. Where the manual leaves a point open it states the model's choice: log 81. -/
def Obligations.ChurnsDrainsQuiescence : Prop :=
  ∀ (s : State) (k : FKey),
    let f := getF s k
    let held := f.quiesce = true ∨ (getD s (k / 48)).stopping = true ∨ (getD s (k / 48)).stopped = true
    (∀ root, f.inFlight ≠ none ∨ f.churn ≠ none ∨ held ∨ (linAt f root).cls = false → exec (.churnStart k root) s = .next s)
    ∧ (∀ root, f.inFlight = none → f.churn = none → ¬ held → f.queue = [] → f.ents = [] → (linAt f root).v = true → (linAt f root).cls = true → (linAt f root).root = root →
        (∀ e ∈ f.lins, e.2.kind = 1 ∨ e.2.kind = 2 ∨ e.2.kind = 3 ∨ e.2.whc = true) → exec (.churnStart k root) s = .next (setF s k { f with churn := some root }))
    ∧ (∀ root i, f.churn = some root → f.inFlight = none → ¬ held → linOrder f root = [root] → (linAt f root).stl = false → (linAt f root).kind = 0 → (linAt f root).ghost = false →
        (linAt f root).v = true → (linAt f root).tile < 8 → f.ents = [(i, entAt f i)] → (entAt f i).lin = some root → (entAt f i).st = .settling → f.statCtx = ctxOfTag s (linAt f root).btag →
        let tile := (linAt f root).tile
        let tok := spadKey (k / 48) (field (entAt f i).recd 57 32)
        ∃ t, exec (.churnStep k) s = .next t ∧ (getF t k).churn = none ∧ (linAt (getF t k) root).v = false ∧ entAt (getF t k) i = noEnt
          ∧ (∀ e, e < 1024 → (tileVals (getF t k) tile e).toNat = fAdd fmtF32 .rne (tileVals f tile e).toNat (sget 0 (linAt f root).whey e).toNat)
          ∧ (tileAt (getF t k) tile).tst ≠ 3 ∧ leNat (memRead t.spad tok 4) = field (entAt f i).recd 159 128 ∧ lineEmpty t tok = false)
    ∧ (held → exec (.churnStep k) s = .next (floeSweep s k))
    ∧ (∀ tid e, e ∈ f.stats → e.1 / 3 = tid → 2 ^ 31 ≤ e.2 → ∃ t, exec (.statsCountOverflow k tid) s = .next t ∧ SameMem s t
        ∧ (∀ x, x ∈ (getF t k).stats ↔ x ∈ f.stats ∧ x.1 / 3 ≠ tid)
        ∧ ∃ d, (getF t k).drains = f.drains ++ [d] ∧ d.ctx = f.statCtx ∧ d.g = none ∧ ∀ x, x ∈ d.counts ↔ x ∈ f.stats ∧ x.1 / 3 = tid)
    ∧ (∀ tid, (∀ e ∈ f.stats, e.2 < 2 ^ 31) → exec (.statsCountOverflow k tid) s = .next s)
    ∧ (∀ d rest, f.drains = d :: rest →
        let area := fun (c : Nat) => coreByte (homeCore s k) (0x2F800 + 12 * (c / 3) + 4 * (c % 3))
        (∃ t, exec (.statsDrainDone k) s = .next t ∧ (getF t k).drains = rest ∧ (getF t k).tiles = f.tiles
          ∧ ((getC s d.ctx).stata = 0 → SameMem s t ∧ t.spad = s.spad)
          ∧ (∀ g m dst, d.g = some (g, m, dst) → ∀ l, l < 32 → m.getLsbD l = true → rdPend (getG s g).com l (dst % 64) = 4 * (dst / 64) + 2 →
              rdX (getG t g).com l (dst % 64) = 0 ∧ rdPend (getG t g).com l (dst % 64) = 0))
        ∧ ∀ c n leaf pte, d.counts = [(c, n)] → (getC s d.ctx).stata ≠ 0 →
            let a := (getC s d.ctx).stata + 32 * (c / 3) + 8 * (c % 3)
            (∀ j, j < 8 → walk s 0 d.ctx (a + j) = .leaf leaf pte) → leaf.host = true →
            let b := (leaf.place a).2
            ∃ t, exec (.statsDrainDone k) s = .next t ∧ t.dmem = s.dmem ∧ t.sram = s.sram
              ∧ (∀ j, memGet t.hmem j = if b ≤ j ∧ j < b + 8 then BitVec.ofNat 8 ((leNat (memRead s.hmem b 8) + n) / 256 ^ (j - b)) else memGet s.hmem j)
              ∧ ∀ j, memGet t.spad j = if area c ≤ j ∧ j < area c + 4 then BitVec.ofNat 8 (n / 256 ^ (j - area c)) else memGet s.spad j)
    ∧ (held → f.inFlight = none → exec (.floeQuiescent k) s = .next (setF s k { f with quiet := true })) ∧ (f.inFlight ≠ none ∨ ¬ held → exec (.floeQuiescent k) s = .next s)

/-! ### The debug block -/

/-- R449, R451, R455 and R456: a stop holds every entry of the groups that stand with CAUSE 4 under its state, and a running trace that does not commit in time is discarded; the stop is complete, and its table
written, once all have stopped and the floes are quiescent; a resume lets the entries of CAUSE 4 go; a write of DCTL acts as its fields say. -/
def Parts.StopTheCluster : Prop :=
  ∀ (s : State) (clu : Nat),
    let d := getD s clu
    let in_ := fun q : Group => q.res = true ∧ q.clu = clu
    let opened := s.mg.lcs ≠ 3 ∧ d.en = true
    (s.groups.map Prod.fst).Nodup →
    (¬ opened → exec (.debugStopRequest clu) s = .next s ∧ exec (.debugResume clu) s = .next s)
    ∧ (s.mg.lcs = 3 → ∀ v, exec (.debugContextChange clu v) s = .next s)
    ∧ (opened → d.stopping = true ∨ d.stopped = true → exec (.debugStopRequest clu) s = .next s)
    ∧ (opened → d.stopping = false → d.stopped = false → ∃ t, exec (.debugStopRequest clu) s = .next t ∧ SameMem s t ∧ (getD t clu).stopping = true
        ∧ (∀ g, ¬ in_ (getG s g) → getG t g = getG s g)
        ∧ ∀ e ∈ s.groups, in_ e.2 → e.2.run = none → (getG t e.1).debugStop = true ∧ (getG t e.1).skid = 0 ∧ ∀ i, i < 32 →
            let p := getP e.2 i
            getP (getG t e.1) i = if p.state = .held ∨ p.state = .empty ∨ p.state = .running then p else { p with state := .held, ust := p.state, cause := 4 })
    ∧ (d.stopping = true → ∃ t, exec (.stopSkidExpiry clu) s = .next t ∧ ∀ e ∈ s.groups, in_ e.2 → e.2.debugStop = false → atRest e.2 = false → e.2.inStep2 = false →
        (getG t e.1).debugStop = true ∧ (getG t e.1).run = none ∧ (getG t e.1).skid = 2048 ∧ (getG t e.1).disc = true)
    ∧ (d.stopping = false → (∀ e ∈ s.groups, e.2.frozen = false) → exec (.stopSkidExpiry clu) s = .next s)
    ∧ (d.stopping = false → exec (.clusterStopped clu) s = .next s)
    ∧ (d.stopping = true → (∃ e ∈ s.groups, in_ e.2 ∧ e.2.debugStop = false) → exec (.clusterStopped clu) s = .next s)
    ∧ (d.stopping = true → (∀ e ∈ s.groups, in_ e.2 → e.2.debugStop = true) → (∀ f ∈ s.floes, f.1 / 48 = clu → f.2.inFlight = none) →
        ∃ t, exec (.clusterStopped clu) s = .next t ∧ (getD t clu).stopped = true ∧ (getD t clu).stopping = false ∧ t.groups = s.groups ∧ t.hmem = s.hmem ∧ t.spad = s.spad
          ∧ (d.area.getLsbD 0 = false → t.dmem = s.dmem)
          ∧ (d.area.getLsbD 0 = true → ∀ core k slot, core < 192 → k < 8 → slot < 16 → clu < 8 →
              let q := getG s (gkey clu core k slot)
              let r := leNat (memRead t.dmem (d.area.toNat / 2 ^ 20 * 2 ^ 20 + 32 * (128 * core + 16 * k + slot)) 32)
              (q.res = false → r = 0)
              ∧ (in_ q → q.core = core → q.trk = k → q.slot = slot → q.ctx < 2 ^ 16 →
                  field r 204 202 = clu ∧ field r 201 194 = core ∧ field r 193 191 = k ∧ field r 190 187 = slot ∧ (r.testBit 184 = decide (q.ctx ≠ d.ctx))
                  ∧ (q.ctx ≠ d.ctx → field r 255 205 = 0 ∧ field r 186 185 = 0 ∧ field r 183 0 = 0)
                  ∧ (q.ctx = d.ctx → q.btag < 2 ^ 16 → q.gnum < 1024 → field r 255 240 = q.ctx ∧ field r 239 224 = q.btag ∧ field r 223 214 = q.gnum ∧ field r 63 32 = q.live.toNat))))
    ∧ (opened → d.stopped = false → exec (.debugResume clu) s = .next s)
    ∧ (opened → d.stopped = true → d.stopping = false → ∃ t, exec (.debugResume clu) s = .next t ∧ SameMem s t ∧ (getD t clu).stopped = false
        ∧ (∀ g, ¬ in_ (getG s g) → getG t g = getG s g)
        ∧ ∀ e ∈ s.groups, in_ e.2 → (getG t e.1).debugStop = false ∧ (e.2.frozen = false → (∀ i, i < 32 → (getP e.2 i).state = .empty ∨ (getP e.2 i).mid = false) →
            (∀ i, i < 32 → (getP e.2 i).tix < 2 ^ 24) →
            ∀ i l, i < 32 → l < 32 → (getP e.2 i).mask.getLsbD l = true → (getP e.2 i).state = .held → (getP e.2 i).cause = 4 → (getP e.2 i).ust = .ready →
              (∀ j, j < 32 → j ≠ i → (getP e.2 j).mask.getLsbD l = false) →
              ∃ j, j < 32 ∧ (getP (getG t e.1) j).mask.getLsbD l = true ∧ (getP (getG t e.1) j).state = .ready ∧ (getP (getG t e.1) j).tix = (getP e.2 i).tix))
    ∧ ∀ v : DWord, s.mg.lcs ≠ 3 →
        let n := v.toNat
        (field n 4 3 = 3 ∨ (n.testBit 7 = true ∧ n.testBit 6 = true) → exec (.debugContextChange clu v) s = .next s)
        ∧ (d.en = false → field n 63 48 = d.ctx → field n 4 3 ≠ 3 → n.testBit 7 = false → n.testBit 6 = false →
            exec (.debugContextChange clu v) s = .next (updD s clu fun x => { x with ctx := field n 63 48, en := n.testBit 0, istep := n.testBit 2, bkact := field n 4 3 }))
        ∧ (d.en = false → field n 63 48 ≠ d.ctx → field n 4 3 ≠ 3 → n.testBit 7 = false → n.testBit 6 = false → d.stopped = false → d.stopping = false →
            ∃ t, exec (.debugContextChange clu v) s = .next t ∧ SameMem s t ∧ (getD t clu).ctx = field n 63 48 ∧ (getD t clu).en = n.testBit 0
              ∧ ∀ e ∈ s.groups, (e.2.res = true → e.2.clu = clu → e.2.ctx ≠ d.ctx) → e ∈ t.groups)

/-- R458 to R460: the commands of the debug block on the entry that DSEL names, with what each is refused for, and a write of a lane's committed register. -/
def Parts.DebugCommands : Prop :=
  ∀ (s : State) (clu : Nat),
    let d := getD s clu
    let n := d.sel.toNat
    let g := gkey clu (field n 31 24) (field n 23 21) (field n 20 17)
    let i := field n 16 12
    let q := getG s g
    let p := getP q i
    let taken := s.mg.lcs ≠ 3 ∧ d.en = true ∧ d.busy = false
    let named := field n 31 24 < 192 ∧ q.res = true ∧ q.ctx = d.ctx ∧ p.state ≠ .empty
    let refused := fun (c : Instr) (e : Nat) => exec c s = .next (updD s clu fun x => { x with err := e, done := false })
    let accepted := fun t : State => (getD t clu).err = 0 ∧ (getD t clu).done = false ∧ SameMem s t ∧ ∀ h, (getG s h).btag ≠ q.btag → getG t h = getG s h
    (∀ b w, let all := [Instr.dcmdHold clu, .dcmdRelease clu b w, .dcmdTstep clu b w, .dcmdIstep clu b w, .dcmdRun clu, .dcmdAbort clu]
      (¬ taken → ∀ c ∈ all, exec c s = .next s) ∧ (taken → ¬ named → ∀ c ∈ all, refused c 1))
    ∧ (taken → named →
      (p.state = .held → refused (.dcmdHold clu) 2)
      ∧ (p.state = .running → ∀ r, q.run = some r → q.step = .off → ∃ t, exec (.dcmdHold clu) s = .next t ∧ accepted t ∧ (getG t g).run = some { r with hold := 1 })
      ∧ (p.state ≠ .held → p.state ≠ .running → ∃ t, exec (.dcmdHold clu) s = .next t ∧ accepted t ∧ getP (getG t g) i = { p with state := .held, ust := p.state, cause := 1 })
      ∧ (∀ b w, p.state ≠ .held ∨ p.mid = true → refused (.dcmdRelease clu b w) 2)
      ∧ (∀ b w, p.state = .held → p.mid = false → p.ust = .ready → q.frozen = false → q.debugStop = false → d.stopping = false → d.stopped = false →
          (∀ j, j < 32 → (getP q j).state = .ready → (getP q j).tix ≠ p.tix) → p.mask ≠ 0 → p.tix < 2 ^ 24 →
          ∃ t j, exec (.dcmdRelease clu b w) s = .next t ∧ accepted t ∧ j < 32 ∧
            let e := getP (getG t g) j
            e.state = .ready ∧ e.mask = p.mask ∧ e.tix = p.tix ∧ e.skipB = b ∧ e.skipW = w)
      ∧ (∀ b w, p.state ≠ .held → refused (.dcmdTstep clu b w) 2) ∧ (∀ b w, d.istep = false → refused (.dcmdIstep clu b w) 3)
      ∧ (∀ b w, d.istep = true → p.state ≠ .held → refused (.dcmdIstep clu b w) 2)
      ∧ (∀ b w, p.state = .held → p.mid = false → p.ust = .ready → q.run = none → q.stopped = false → q.evict = false → (s.groups.map Prod.fst).Nodup →
          (∀ h, (getG s h).btag = q.btag → h ≠ g → (getG s h).res = false) → q.frozen = false →
          ∀ m c, (m = StepMode.trace ∧ c = Instr.dcmdTstep clu b w) ∨ (m = .inst ∧ c = .dcmdIstep clu b w ∧ d.istep = true) →
            ∃ t, exec c s = .next t ∧ accepted t ∧ (getD t clu).busy = true ∧ (getG t g).step = m ∧ (getG t g).stepPath = i
              ∧ (getP (getG t g) i).state = .ready ∧ (getP (getG t g) i).tix = p.tix ∧ (getP (getG t g) i).mask = p.mask ∧ (getP (getG t g) i).skipB = b ∧ (getP (getG t g) i).skipW = w)
      ∧ (q.step = .off → refused (.dcmdRun clu) 2)
      ∧ (q.step ≠ .off → q.res = true → q.frozen = false → q.debugStop = false → d.stopping = false → d.stopped = false →
          (∀ h, (getG s h).btag = q.btag → h ≠ g → (getG s h).res = false) → ∃ t, exec (.dcmdRun clu) s = .next t ∧ accepted t ∧ (getG t g).step = .off
            ∧ (getG t g).live = q.live ∧ (getG t g).com = q.com)
      ∧ (p.state ≠ .held ∨ p.mid = false → refused (.dcmdAbort clu) 2)
      ∧ (∀ r, p.state = .held → p.mid = true → q.run = some r → r.path = i → r.leaves = [] → r.pops = [] → r.sending = none → r.entry ≠ 0 →
          ∃ t, exec (.dcmdAbort clu) s = .next t ∧ (getG t g).run = none ∧ (getG t g).com.x = q.com.x ∧ SameMem s t
            ∧ ((getP (getG t g) i).state = .held ∧ (getP (getG t g) i).mid = false ∧ (getP (getG t g) i).off = 0 ∧ (getP (getG t g) i).tix = r.tix ∧ (getP (getG t g) i).mask = r.entry)))
    ∧ ∀ v : DWord,
      let code := field d.drsel.toNat 15 9
      let l := field d.drsel.toNat 8 4
      let may := field n 31 24 < 192 ∧ q.res = true ∧ q.ctx = d.ctx ∧ p.state = .held ∧ p.mask.getLsbD l = true ∧ code ≤ 70 ∧ ∀ j, j < 32 → (getP q j).mid = false
      (s.mg.lcs = 3 ∨ d.en = false → exec (.drdataWrite clu v) s = .next s)
      ∧ (s.mg.lcs ≠ 3 → d.en = true → ¬ may → exec (.drdataWrite clu v) s = .next (updD s clu fun x => { x with err := 2 }))
      ∧ (s.mg.lcs ≠ 3 → d.en = true → may → ∃ t, exec (.drdataWrite clu v) s = .next t ∧ SameMem s t ∧ (∀ h, h ≠ g → getG t h = getG s h)
          ∧ (code < 64 → rdX (getG t g).com l code = v.setWidth 32 ∧ (∀ j k, j < 32 → k < 64 → (j, k) ≠ (l, code) → rdX (getG t g).com j k = rdX q.com j k) ∧ (getG t g).com.p = q.com.p)
          ∧ (64 ≤ code → rdP (getG t g).com l (code - 64) = v.getLsbD 0 ∧ (getG t g).com.x = q.com.x))

/-- R449, R451, R455 and R456: a stop holds every entry of the groups that stand with CAUSE 4 under its state, and a running trace that does not commit in time is discarded; the stop is complete, and its table
written, once all have stopped and the floes are quiescent; a resume lets the entries of CAUSE 4 go; a write of DCTL acts as its fields say. R458 to R460: the commands of the debug block on the entry that DSEL names, with what each is refused for, and a write of a lane's committed register. Where the manual leaves a point open it states the model's choice: log 63, 64, 65 and 111. -/
def Obligations.DebugBlock : Prop := Parts.StopTheCluster ∧ Parts.DebugCommands

/-! ### Samples, checkpoints and replay -/

/-- R464, R465, R468 to R471: a memory sample is written once its accesses have finished; a group sample of the core's next slot, with its status; a power sample every microsecond. -/
def Parts.Samples : Prop :=
  (∀ (s : State) (i : Nat) (x : Sample) (lat qsp qtlb qfab qmsc qbank src last : Nat), s.samples[i]? = some x →
    (sampleDone s x = false → exec (.memorySample i lat qsp qtlb qfab qmsc qbank src last) s = .next s)
    ∧ (sampleDone s x = true → src < 6 → last < 32 → x.act.getLsbD last = true → StreamRoom s 64 → x.corr < 2 ^ 32 → x.ctx < 2 ^ 16 → x.gnum < 1024 → x.opc < 1024 → x.off < 256 →
      (x.disc = false ∨ x.store = false) →
      ∃ t body, exec (.memorySample i lat qsp qtlb qfab qmsc qbank src last) s = .next t ∧ t.samples = s.samples.eraseIdx i ∧ Streamed s t (gclu x.g) 1 body ∧ body.length = 48
        ∧ let b := leNat body
          field b 383 352 = x.corr ∧ field b 351 336 = x.ctx ∧ field b 335 326 = x.gnum ∧ field b 282 275 = x.off ∧ field b 274 265 = x.opc ∧ field b 264 233 = x.act.toNat
          ∧ field b 200 196 = last ∧ field b 195 193 = src ∧ field b 192 192 = (if x.disc then 1 else 0) ∧ field b 191 176 = min 0xFFFF lat ∧ field b 175 160 = min 0xFFFF qsp
          ∧ field b 159 144 = min 0xFFFF qtlb ∧ field b 143 128 = min 0xFFFF qfab ∧ field b 127 112 = min 0xFFFF qmsc ∧ field b 111 96 = min 0xFFFF qbank ∧ field b 95 0 = 0))
  ∧ (∀ (s : State) (c : CKey),
    let clu := c / 192
    let ctl := (sget 0 s.sctl clu).toNat
    let k := sget 0 s.cursor c
    let g := c * 128 + k
    let q := getG s g
    let moved := fun t : State => sget 0 t.cursor c = (k + 1) % 128
    (ctl.testBit 1 = false ∨ (getD s clu).stopped = true → exec (.groupSample c) s = .next s)
    ∧ (c < 1536 → ctl.testBit 1 = true → (getD s clu).stopped = false →
      (q.res = true → q.ctx ≠ field ctl 63 48 → ∃ t, exec (.groupSample c) s = .next t ∧ SameMem s t ∧ moved t ∧ t.tsSeq = s.tsSeq)
      ∧ (q.res = false → sget 0 s.slotLast g = 0 → StreamRoom s 64 → ∃ t body, exec (.groupSample c) s = .next t ∧ moved t ∧ Streamed s t clu 2 body ∧ body.length = 48
          ∧ field (leNat body) 95 92 = 7 ∧ field (leNat body) 91 68 = 0 ∧ field (leNat body) 383 96 = 0)
      ∧ (q.res = true → q.ctx = field ctl 63 48 → StreamRoom s 64 → (getB s q.btag).corr < 2 ^ 32 → (∀ i, i < 32 → (getP q i).tix < 2 ^ 24) →
          ∃ t body, exec (.groupSample c) s = .next t ∧ moved t ∧ Streamed s t clu 2 body ∧ body.length = 48 ∧ field (leNat body) 127 96 = (getB s q.btag).corr
          ∧ field (leNat body) 383 368 = q.ctx
          ∧ (∀ i, i < 32 → q.run = none → (getP q i).state = .fetchWait → (∀ j, j < 32 → j ≠ i → (getP q j).state ≠ .fetchWait) →
              field (leNat body) 95 92 = 1 ∧ field (leNat body) 91 68 = (getP q i).tix)
          ∧ (∀ i, i < 32 → q.run = none → (getP q i).state = .budgetWait → (∀ j, j < 32 → (getP q j).state ≠ .fetchWait ∧ (j ≠ i → (getP q j).state ≠ .budgetWait)) →
              field (leNat body) 95 92 = 3 ∧ field (leNat body) 91 68 = (getP q i).tix))))
  ∧ ∀ (s : State) (rails : List Nat), StreamRoom s 128 → ∃ t body, exec (.powerSample rails) s = .next t ∧ Streamed s t 0 3 body ∧ body.length = 112
      ∧ (∀ r, r < 26 → leNat ((body.drop (2 * r)).take 2) = min 0xFFFF (rails.getD r 0))
      ∧ (∀ c, c < 8 → leNat ((body.drop (52 + c)).take 1) = min 255 (s.batches.filter fun e => e.2.res && e.2.clu = c).length) ∧ body.drop 92 = List.replicate 20 0

/-- R472 to R477: a checkpoint begins when its time or the log asks for it, stops the batches, cuts and holds the pages; each copied page is released, and the last completes it; a failed copy leaves
its pages as written; a restore puts an image back with the handle table and the later logs, its bytes in pages of the rime pool that take the places of the old ones; a replay that diverges stops the context. -/
def Parts.Checkpoints : Prop :=
  (∀ (s : State) (ctx : Nat),
    let k := getK s ctx
    let gs := ctxGroups s ctx
    let bs := batchesOf s ctx
    (k.en = false ∨ k.running = true ∨ (getC s ctx).unbinding = true → exec (.checkpointTimerExpiry ctx) s = .next s)
    ∧ (k.log = false ∨ k.buffer = [] → exec (.checkpointLogThreshold ctx) s = .next s)
    ∧ (k.log = true → k.buffer ≠ [] → exec (.checkpointLogThreshold ctx) s = exec (.checkpointTimerExpiry ctx) s)
    ∧ (k.en = true → k.running = false → (getC s ctx).unbinding = false → (∃ g ∈ gs, (getG s g).res = true ∧ (getG s g).run = none ∧ partReady s g = false ∧ (getG s g).btag ∉ bs) →
        k.cutting = true → exec (.checkpointTimerExpiry ctx) s = .next s)
    ∧ (k.en = true → k.running = false → k.cutting = false → (getC s ctx).unbinding = false → gs ≠ [] →
        ∃ t, exec (.checkpointTimerExpiry ctx) s = .next t ∧ ((getK t ctx).cutting = true ∨ (getK t ctx).next = k.next + 1))
    ∧ (k.en = true → k.running = false → k.cutting = false → (getC s ctx).unbinding = false → gs = [] → bs = [] → s.floes = [] → (getC s ctx).bins = [] → ckptHeld s ctx ≠ [] → drainsOwed s ctx = false → (∀ d ∈ s.sigs, d.ctx ≠ ctx) →
        ∃ t img, exec (.checkpointTimerExpiry ctx) s = .next t ∧ SameMem s t ∧ (getK t ctx).running = true ∧ (getK t ctx).cutting = false ∧ (getK t ctx).next = k.next + 1
          ∧ (getK t ctx).held = ckptHeld s ctx ∧ (getK t ctx).base = s.dmem ∧ (getK t ctx).buffer = [] ∧ (getK t ctx).cutTime = t.time ∧ (getK t ctx).image = some img
          ∧ img.ctx = ctx ∧ img.k = k.next ∧ img.logs = k.buffer ∧ (∀ x, x ∈ img.saved ↔ x ∈ s.saved ∧ x.ctx = ctx)
          ∧ (∀ w, w ∈ img.pubWaits ↔ w ∈ s.pubWaits ∧ w.ctx = ctx) ∧ (∀ f, f ∈ img.faults ↔ f ∈ s.faults ∧ f.ctx = ctx)
          ∧ (memWf s.dmem = true → ∀ o, o < htabBytes (getC s ctx) → memGet img.htab o = memGet s.dmem ((getC s ctx).htab + o))
          ∧ ∀ e ∈ ctxPages s ctx, (k.next = 0 → e.2 ∈ ckptHeld s ctx) ∧ ((e.1, pageBytes s.dmem e.2) ∈ img.mem ∨ pageBytes s.dmem e.2 = []))
    ∧ ∀ page, (k.running = false ∨ page ∉ k.held ∨ reservedUp s = false → exec (.checkpointPageCopied ctx page) s = .next s)
        ∧ (k.running = true → reservedUp s = true → ∀ rest, rest ≠ [] → k.held = page :: rest → ∃ t, exec (.checkpointPageCopied ctx page) s = .next t ∧ SameMem s t ∧ (getK t ctx).held = rest
            ∧ (getK t ctx).running = true ∧ t.safe = s.safe)
        ∧ (∀ img, k.running = true → reservedUp s = true → k.held = [page] → k.image = some img → StreamRoom s 32 → img.k < 2 ^ 32 → ctx < 2 ^ 16 →
            ∃ t body, exec (.checkpointPageCopied ctx page) s = .next t
              ∧ (∀ x, x ∈ t.safe ↔ x = img ∨ x ∈ s.safe ∧ (x.ctx ≠ img.ctx ∨ x.run = img.run ∧ x.k ≠ img.k)) ∧ (getK t ctx).running = false ∧ (getK t ctx).held = [] ∧ Streamed s t 0 6 body
              ∧ body.length = 16 ∧ field (leNat body) 127 96 = img.k ∧ field (leNat body) 95 80 = ctx ∧ field (leNat body) 63 0 = k.cutTime.toNat)
        ∧ (∀ img, k.image = some img → ∃ t, exec (.safeTierCopyFailure ctx) s = .next t ∧ SameMem s t ∧ t.safe = s.safe ∧ (getK t ctx).running = false ∧ (getK t ctx).held = []
            ∧ (getK t ctx).image = none ∧ (∀ p, p ∈ (getK t ctx).redo ↔ p ∈ k.redo ∨ p ∈ k.cut) ∧ (getK t ctx).buffer = img.logs ++ k.buffer)
        ∧ (k.image = none → exec (.safeTierCopyFailure ctx) s = .next s))
  ∧ (∀ (s : State) (ctx n : Nat),
    ((∀ i ∈ s.safe, i.ctx = ctx → i.k ≠ n) ∨ (getC s ctx).bound = true ∨ reservedUp s = false → exec (.checkpointRestore ctx n) s = .next s)
    ∧ ∀ img, s.safe.reverse.find? (fun i => decide (i.ctx = ctx) && decide (i.k = n)) = some img → (getC s ctx).bound = false → reservedUp s = true →
        let c := { ctxOfDesc img.cx (leNat (memRead s.dmem (s.regs.ctbase.toNat + 128 * ctx) 128)) with bound := false }
        let u := setC (ctxForget s ctx) ctx c
        let ps := leafPages u ptLevels c.ptroot 0
        (restoreRoom u img ps = false ∨ restoreClash u img = true → exec (.checkpointRestore ctx n) s = .next s)
        ∧ (restoreRoom u img ps = true → restoreClash u img = false → img.cx.shadows = [] → img.cx.bins = [] → img.queues = [] →
          ∃ t, exec (.checkpointRestore ctx n) s = .next t ∧ t.hmem = s.hmem ∧ t.spad = s.spad
            ∧ (∀ x, x ∈ t.saved ↔ (x ∈ s.saved ∧ x.ctx ≠ ctx) ∨ x ∈ img.saved)
            ∧ (∀ x, x ∈ t.formed ↔ (x ∈ s.formed ∧ x.ctx ≠ ctx) ∨ x ∈ img.formed)
            ∧ (∀ x, x ∈ t.dispatches ↔ (x ∈ s.dispatches ∧ x.ctx ≠ ctx) ∨ x ∈ img.dispatches)
            ∧ (getC t ctx).bound = false
            ∧ (getC t ctx).pkgs.map Package.nodes = img.cx.pkgs.map Package.nodes
            ∧ (∀ p ∈ (getC t ctx).pkgs, ∀ a, a ∈ p.pages ↔ ∃ x ∈ p.nodes, a ∈ codePages t ctx x)
            ∧ (∀ w, w ∈ t.pubWaits ↔ (w ∈ s.pubWaits ∧ w.ctx ≠ ctx) ∨ w ∈ img.pubWaits)
            ∧ (getK t ctx).replay = ((s.safe.filter fun i => decide (i.ctx = ctx) && decide (i.run = img.run) && decide (n < i.k)).map Image.logs).flatten
            ∧ ∀ v pa m e leaf pte, ps = [(v, 0x4000, pa)] → img.mem = [(v, m)] → memWf m = true → (∀ x ∈ m, x.1 < 0x4000) → c.nh = 0 →
                let r := restoreTable u img
                poolRead r ctx = [e] → poolSize e = 0 → pte + 8 ≤ c.rime ∨ c.rime + 16 ≤ pte → memWf img.htab = true → (∀ x ∈ img.htab, x.1 < htabBytes c) →
                let new := poolPage e
                walk (poolWrite { r with dmem := imagePut r.dmem new 0x4000 v img.mem } ctx []) 0 ctx v = .leaf leaf pte → leaf.size = 0x4000 →
                  (∀ k, k < c.rime ∨ c.rime + 16 ≤ k → k < pte ∨ pte + 8 ≤ k →
                    memGet t.dmem k = if new ≤ k ∧ k < new + 0x4000 then memGet m (k - new)
                      else if c.htab ≤ k ∧ k < c.htab + htabBytes c then memGet img.htab (k - c.htab) else memGet s.dmem k)
                  ∧ field (leNat (memRead t.dmem pte 8)) 56 10 = new / 1024
                  ∧ leNat (memRead t.dmem c.rime 8) = 1 ∧ field (leNat (memRead t.dmem (c.rime + 8) 8)) 56 14 = pa / 0x4000))
  ∧ ∀ (s : State) (ctx : Nat),
    ((getK s ctx).replay = [] ∨ (getC s ctx).bound = false → exec (.replayDivergenceTimeout ctx) s = .next s)
    ∧ ∀ e rest, (getK s ctx).replay = e :: rest → (getC s ctx).bound = true → ∃ t, exec (.replayDivergenceTimeout ctx) s = .next t ∧ SameMem s t ∧ (getC t ctx).failed = true
        ∧ (getC t ctx).stoppedQueues = true ∧ t.reports = s.reports ++ [.replayDiverged ctx (some e)]

/-- R464, R465, R468 to R471: a memory sample is written once its accesses have finished; a group sample of the core's next slot, with its status; a power sample every microsecond. R472 to R477: a checkpoint begins when its time or the log asks for it, stops the batches, cuts and holds the pages; each copied page is released, and the last completes it; a failed copy leaves
its pages as written; a restore puts an image back with the handle table and the later logs, its bytes in pages of the rime pool that take the places of the old ones; a replay that diverges stops the context. Where the manual leaves a point open it states the model's choice: log 6, 67, 68, 69, 70, 84 and 112. -/
def Obligations.SamplesAndCheckpoints : Prop := Parts.Samples ∧ Parts.Checkpoints

/-! ### Sweso Link -/

/-- R447, R486 to R490: a flit that fails counts a replay; after 8 failures in a row the port retrains, and the third retrain that fails within a second takes it
down, which cancels and reports the copies with a row to it; a row to a peer is performed at its acknowledgement, never on a reserved port or one that is down, and its copy is cancelled and reported where it is refused; an arm checks its entry; an incoming row is written into the rime and counted; a close ends the window. Where the manual leaves a point open it states the model's choice: log 18, 74, 75, 76 and 113. -/
def Obligations.LinksAndWindows : Prop :=
  (∀ (s : State) (port : Nat),
    let down := sget false s.mg.portDown port
    (16 ≤ port ∨ down = true → exec (.flitCrcFail port) s = .next s ∧ ∀ ok m, exec (.linkRetrain port ok m) s = .next s)
    ∧ (port < 16 → down = false → ∃ t, exec (.flitCrcFail port) s = .next t ∧ SameMem s t ∧ sget 0 t.mg.replays port = sget 0 s.mg.replays port + 1
        
        ∧ (sget 0 t.mg.failRun port = sget 0 s.mg.failRun port + 1 ∨ sget 0 t.mg.failRun port = 1) ∧ t.mg.portDown = s.mg.portDown)
    ∧ (∀ ok m, sget 0 s.mg.failRun port < 8 → exec (.linkRetrain port ok m) s = .next s)
    ∧ (∀ m, port < 16 → down = false → 8 ≤ sget 0 s.mg.failRun port → ∃ t, exec (.linkRetrain port true m) s = .next t ∧ SameMem s t ∧ sget 0 t.mg.retries port = sget 0 s.mg.retries port + 1
        ∧ sget 0 t.mg.failRun port = 0 ∧ t.mg.portDown = s.mg.portDown ∧ t.mg.failed = s.mg.failed
        ∧ ∀ i, i < m.length → i < 256 → sget none t.mg.margins (256 * port + i) = some (min 255 (m.getD i 0)))
    ∧ (port < 16 → down = false → 8 ≤ sget 0 s.mg.failRun port → s.mg.thRetry ≠ (winAt (timeNow s) port).retries + 1 →
        let now := (timeNow s).time.toNat
        let before := (sget [] s.mg.failed port).filter fun x => decide (now ≤ x + 1000000000)
        ∃ t, exec (.linkRetrain port false []) s = .next t ∧ sget 0 t.mg.retries port = sget 0 s.mg.retries port + 1 ∧ sget [] t.mg.failed port = now :: before
          ∧ (before.length < 2 → t.mg.portDown = s.mg.portDown ∧ t.jobs = s.jobs ∧ SameMem s t)
          ∧ (2 ≤ before.length → sget false t.mg.portDown port = true ∧ t.jobs = s.jobs.filter (fun j => !(jobPorts j).contains port)
              ∧ (∀ j ∈ s.jobs, port ∈ jobPorts j → Report.linkDown j.ctx (jobHandle j) port ∈ t.reports)
              ∧ ∃ r ∈ t.mg.log, field r 171 168 = 8 ∧ field r 92 89 = port ∧ (s.mg.log = [] → field r 175 172 = 2))))
  ∧ (∀ (s : State) (i : Nat) (j : Job), s.jobs[i]? = some j →
    (∀ r c, j.item r = some c → rowPort c r = none ∨ rowReady s i j r = false → exec (.peerRowAck i r) s = .next s)
    ∧ (∀ r c p, j.item r = some c → rowPort c r = some p → s.mg.reserved.testBit p = true ∨ sget false s.mg.portDown p = true → exec (.peerRowAck i r) s = .next s)
    ∧ (∀ r c p, r < 32 → j.item r = some c → rowPort c r = some p → rowReady s i j r = true → c.bar = none → s.mg.reserved.testBit p = false → sget false s.mg.portDown p = false →
        ∃ t, exec (.peerRowAck i r) s = .next t ∧ SameMem s t
          ∧ ((∀ x ∈ j.rows, x = r ∨ j.landed.getLsbD x = true) → t.jobs = s.jobs.eraseIdx i)
          ∧ (c.isTile = true → standsAt s j.g j.btag j.gnum = true → (getCpb (getG t j.g) c.slot).val = ((getCpb (getG s j.g) c.slot).val ||| (1#32 <<< r))))
    ∧ ((∀ p ∈ jobPorts j, sget false s.mg.portDown p = false) → exec (.peerRowRefused i true) s = .next s) ∧ (jobPorts j = [] → exec (.peerRowRefused i false) s = .next s)
    ∧ ∀ d p, (jobPorts j).find? (fun x => !d || sget false s.mg.portDown x) = some p → (∀ c ∈ j.items, c.bar = none ∧ c.toSpad = false) → j.items ≠ [] →
        ∃ t, exec (.peerRowRefused i d) s = .next t ∧ SameMem s t ∧ t.jobs = s.jobs.eraseIdx i
          ∧ t.reports = s.reports ++ [if d then .linkDown j.ctx (jobHandle j) p else .linkRefused j.ctx (jobHandle j) p]
          ∧ ∀ c, j.items.head? = some c → c.isTile = true → standsAt s j.g j.btag j.gnum = true → (getCpb (getG t j.g) c.slot).st = .preset)
  ∧ ∀ (s : State) (w : Nat), w < 256 →
    let a := s.regs.lwbase.toNat + 32 * w
    let e := leNat (memRead s.dmem a 32)
    let ctx := field e 198 183
    let idx := field e 182 163
    let h := hEntry s ctx idx
    let bad := field e 162 144 ≠ 0 ∨ field e 47 1 ≠ 0 ∨ field e 143 96 = 0 ∨ (getC s ctx).bound = false ∨ (getC s ctx).nh ≤ idx ∨ h.v = false ∨ h.isOpen = false
    let entry := fun t : State => leNat (memRead t.dmem a 32)
    let only := fun t : State => t.hmem = s.hmem ∧ t.spad = s.spad ∧ ∀ k, k < a ∨ a + 32 ≤ k → memGet t.dmem k = memGet s.dmem k
    (bad → ∃ t, exec (.linkWindowArm w) s = .next t ∧ only t ∧ entry t = e - e % 2 ∧ t.reports = s.reports ++ [.windowRefused w])
    ∧ (¬ bad → ∃ t, exec (.linkWindowArm w) s = .next t ∧ only t ∧ t.reports = s.reports ∧ field (entry t) 95 48 = 0 ∧ (entry t).testBit 0 = true ∧ field (entry t) 255 96 = field e 255 96)
    ∧ (h.isOpen = false → (hEntry (winWrite s w (e - e % 2)) ctx idx).isOpen = false →
        ∃ t, exec (.linkWindowClose w) s = .next t ∧ only t ∧ entry t = e - e % 2)
    ∧ ∀ port off bytes,
        let n := bytes.length
        let refused := s.mg.reserved.testBit port = true ∨ e.testBit 0 = false ∨ h.len < off + n ∨ field e 143 96 < field e 95 48 + n
        (port < 16 → refused ∨ sget false s.mg.portDown port = true → exec (.linkRowReceive port w off bytes) s = .next s)
        ∧ (∀ x rime, port < 16 → sget false s.mg.portDown port = false → ¬ refused → (∀ y ∈ s.ckpts, y.2.held = []) → field e 95 48 + n < field e 143 96 →
            shadowOf (getC s ctx) idx = some x → x.written = [0] → x.rime = [rime] → h.vbase % pszBytes h.psz = 0 → off + n ≤ pszBytes h.psz → a + 32 ≤ rime ∨ rime + pszBytes h.psz ≤ a →
            ∃ t, exec (.linkRowReceive port w off bytes) s = .next t ∧ t.hmem = s.hmem ∧ t.spad = s.spad ∧ field (entry t) 95 48 = field e 95 48 + n ∧ field (entry t) 255 96 = field e 255 96
              ∧ (entry t).testBit 0 = true ∧ (∀ k, k < n → memGet t.dmem (rime + off + k) = bytes.getD k 0)
              ∧ ∀ k, (k < a ∨ a + 32 ≤ k) → (k < rime + off ∨ rime + off + n ≤ k) → memGet t.dmem k = memGet s.dmem k)

/-! ### The mailbox -/

/-- R439, R472, R490, R492 to R494, R496, R500, R502, R503, R505 to R508, R513: a listed command's batch answers in its block, once; DONE then copies the block back; a code that is not listed answers
0xFFFF_FFFE; each command acts as its rule says, and answers 0, or says why not. Where the manual leaves a point open it states the model's choice: log 72, 73 and 113. -/
def Obligations.MailboxCommands : Prop :=
  ∀ (s : State),
    let a := s.mg.mcmd.toNat
    let busy := s.regs.mbsts.getLsbD 0
    let word := fun o : Nat => leNat (memRead s.sram (a + 64 + o) 4)
    let answers := fun (t : State) (v : Nat) => t.mg.ran = true ∧ leNat (memRead t.sram (a + 4) 4) = v % 2 ^ 32 ∧ t.regs = s.regs
    let same := fun t : State => t.dmem = s.dmem ∧ t.hmem = s.hmem ∧ t.spad = s.spad
    let payload := fun (t : State) (b : List Byte) => memRead t.sram (a + 64) b.length = b
    let pages := fun (t : State) => ∀ k, k < 4096 → memGet t.mg.mailbox k = memGet s.sram (a + k)
    let token := (vtokRun (updM s fun m => { m with vtok := none }) (memRead s.sram (a + 64) 1152)).1
    let all := [Instr.cmdLogrd, .cmdCntrd, .cmdRecov, .cmdRelpark, .cmdTsched, .cmdLnkrsv, .cmdCkctl, .cmdChal, .cmdUnlock, .cmdRelock, .cmdRtn, .cmdQuote, .cmdKeyload, .cmdUpdate]
    let now := fun c : Nat => busy = true ∧ s.mg.cmd = some c ∧ s.mg.ran = false
    (∀ i ∈ all, busy = false ∨ s.mg.cmd = none ∨ s.mg.ran = true → exec i s = .next s)
    ∧ (busy = false ∨ s.mg.ran = false → exec .mgmtCommandDone s = .next s)
    ∧ (busy = true → s.mg.ran = true → ∃ t, exec .mgmtCommandDone s = .next t ∧ same t ∧ t.sram = s.sram ∧ t.regs.mbsts = 2#64 ∧ t.mg.cmd = none ∧ pages t)
    ∧ (∀ c, now c → 1 ≤ c → c ≤ 15 → exec .mailboxDoorbellUnknown s = .next s)
    ∧ (∀ c, now c → c = 0 ∨ 15 < c → ∃ t, exec .mailboxDoorbellUnknown s = .next t ∧ same t ∧ t.regs.mbsts = 2#64 ∧ t.mg.cmd = none ∧ leNat (memRead t.mg.mailbox 4 4) = 0xFFFFFFFE)
    ∧ (now 1 → ∃ t, exec .cmdLogrd s = .next t ∧ same t ∧ answers t (min 126 (s.mg.log.length - word 0)) ∧ payload t (((s.mg.log.drop (word 0)).take 126).map (leBytes 32)).flatten)
    ∧ (now 2 → ∃ t, exec .cmdCntrd s = .next t ∧ same t ∧ answers t 0)
    ∧ (∀ temps volts, now 3 → ∃ t, exec (.cmdSense temps volts) s = .next t ∧ same t ∧ answers t 0 ∧ (∀ d, d < 17 → leNat (memRead t.sram (a + 64 + 4 * d) 4) = temps.getD d 0 % 2 ^ 32)
        ∧ ∀ r, r < 26 → leNat (memRead t.sram (a + 132 + 4 * r) 4) = volts.getD r 0 % 2 ^ 32)
    ∧ (now 4 → word 0 < 2 ^ 16 → word 4 ≤ 1 → ∃ t, exec .cmdRecov s = .next t ∧ answers t 0 ∧ (getC t (word 0)).recov = decide (word 4 = 1)
        ∧ (memGet t.dmem (s.regs.ctbase.toNat + 128 * word 0 + 2)).getLsbD 1 = decide (word 4 = 1)
        ∧ ∀ k, k ≠ s.regs.ctbase.toNat + 128 * word 0 + 2 → memGet t.dmem k = memGet s.dmem k)
    ∧ (now 4 → 2 ^ 16 ≤ word 0 ∨ 1 < word 4 → ∃ t, exec .cmdRecov s = .next t ∧ same t ∧ answers t 1 ∧ t.ctxs = s.ctxs)
    ∧ (now 5 → groupNamed s (word 0) (word 4) (word 8) = none → savedNamed s (word 0) (word 4) (word 8) = true → exec .cmdRelpark s = .next s)
    ∧ (now 5 → groupNamed s (word 0) (word 4) (word 8) = none → savedNamed s (word 0) (word 4) (word 8) = false → ∃ t, exec .cmdRelpark s = .next t ∧ same t ∧ answers t 1 ∧ t.groups = s.groups)
    ∧ (∀ g, now 5 → groupNamed s (word 0) (word 4) (word 8) = some g →
        let p := getP (getG s g) (word 12)
        (p.state ≠ .parked → p.state ≠ .held → ∃ t, exec .cmdRelpark s = .next t ∧ same t ∧ answers t 1 ∧ t.groups = s.groups)
        ∧ (word 12 < 32 → p.state = .parked → p.wakeHold = 0 → p.tix < 2 ^ 24 → word 16 = 0 → ∃ t, exec .cmdRelpark s = .next t ∧ same t ∧ answers t 0 ∧ ∀ l, l < 32 → p.mask.getLsbD l = true →
            ∃ j, j < 32 ∧ (getP (getG t g) j).state = .ready ∧ (getP (getG t g) j).tix = p.tix ∧ (getP (getG t g) j).mask.getLsbD l = true))
    ∧ (now 6 → ∃ t, exec .cmdTsched s = .next t ∧ same t
        ∧ (1 ≤ word 0 ∧ word 0 ≤ 1440 ∧ word 4 < 8 → answers t 0 ∧ t.mg.test = (word 0, word 4)) ∧ (¬ (1 ≤ word 0 ∧ word 0 ≤ 1440 ∧ word 4 < 8) → answers t 1 ∧ t.mg.test = s.mg.test))
    ∧ (now 7 → ∃ t, exec .cmdLnkrsv s = .next t ∧ same t
        ∧ (word 0 < 2 ^ 16 → (∀ c ∈ s.ctxs, c.2.bound = false) → answers t 0 ∧ t.mg.reserved = word 0) ∧ ((∃ c ∈ s.ctxs, c.2.bound = true) → answers t 1 ∧ t.mg.reserved = s.mg.reserved))
    ∧ (now 8 → let v := leNat (memRead s.sram (a + 64) 8)
        (field v 31 19 < 50 ∨ 5000 < field v 31 19 → ∃ t, exec .cmdCkctl s = .next t ∧ same t ∧ answers t 1 ∧ t.ckpts = s.ckpts)
        ∧ (50 ≤ field v 31 19 → field v 31 19 ≤ 5000 → v.testBit 0 = false → (getK s (field v 63 48)).cutting = false → ∃ t, exec .cmdCkctl s = .next t ∧ same t ∧ answers t 0
            ∧ (getK t (field v 63 48)).en = false ∧ (getK t (field v 63 48)).log = v.testBit 1 ∧ (getK t (field v 63 48)).tms = field v 31 19))
    ∧ (now 9 → ∃ t b, exec .cmdChal s = .next t ∧ same t ∧ answers t 0 ∧ b.length = 64 ∧ t.mg.chal = some b ∧ t.mg.vtok = none ∧ payload t b)
    ∧ (let k := s.mg.stage
       let free := ∀ c ∈ s.ctxs, c.2.bound = false
       let bound := ∃ c ∈ s.ctxs, c.2.bound = true
       let holds := fun (t : State) (n : Nat) => ∃ d, t.mg.vtok = some (n, d)
       let onto := fun t : State => t.mg.stage = k + 1 ∧ t.mg.ran = false ∧ t.mg.cmd = s.mg.cmd ∧ t.regs = s.regs
       let moved := fun (t : State) (n : Nat) => onto t ∧ t.mg.lcs = n ∧ t.mg.ports = 0 ∧ t.mg.vtok = none ∧ t.mg.chal = none ∧ t.mg.wiping = true ∧ same t
       let wiped := fun t : State => onto t ∧ t.mg.lcs = s.mg.lcs ∧ t.mg.wiping = false ∧ t.dmem = [] ∧ t.spad = [] ∧ t.mg.keys = [] ∧ t.saved = []
       let nxt := field (leNat (memRead s.sram (a + 64) 1152)) 319 288
       let measured := fun (t : State) (b : List Byte) => answers t 0 ∧ same t ∧ measOf t 3 = sha512 (measOf s 3 ++ sha512 b)
       (now 10 →
          (k = 0 → token ≠ 0 → ∃ t, exec .cmdUnlock s = .next t ∧ answers t 1 ∧ same t ∧ t.mg.lcs = s.mg.lcs ∧ t.mg.keys = s.mg.keys ∧ t.mg.vtok = none)
          ∧ (k = 0 → token = 0 → ∃ t, exec .cmdUnlock s = .next t ∧ onto t ∧ same t ∧ holds t nxt ∧ t.mg.lcs = s.mg.lcs)
          ∧ (k = 1 → ∃ t, exec .cmdUnlock s = .next t ∧ onto t ∧ same t ∧ t.mg.keys = [] ∧ t.mg.lcs = s.mg.lcs ∧ t.mg.vtok = s.mg.vtok)
          ∧ (k = 2 → bound ∨ s.mg.testing ≠ [] ∨ s.mg.lcs ≠ 1 ∨ s.mg.keys ≠ [] ∨ ¬ holds s 2 → ∃ t, exec .cmdUnlock s = .next t ∧ answers t 1 ∧ same t ∧ t.mg.lcs = s.mg.lcs)
          ∧ (k = 2 → free → s.mg.testing = [] → s.mg.lcs = 1 → s.mg.keys = [] → holds s 2 → ∃ t, exec .cmdUnlock s = .next t ∧ moved t 2)
          ∧ (k = 3 → ∃ t, exec .cmdUnlock s = .next t ∧ wiped t)
          ∧ (k = 4 → s.mg.lcs = 2 → ∃ t, exec .cmdUnlock s = .next t ∧ onto t ∧ same t ∧ t.mg.ports = 3)
          ∧ (k = 4 → s.mg.lcs ≠ 2 → ∃ t, exec .cmdUnlock s = .next t ∧ answers t 1 ∧ same t ∧ t.mg.ports = s.mg.ports)
          ∧ (5 ≤ k → ∃ t, exec .cmdUnlock s = .next t ∧ measured t (memRead s.sram (a + 64) 128)))
       ∧ (now 11 →
          (k = 0 → s.mg.lcs = 1 ∨ s.mg.lcs = 3 → ∃ t, exec .cmdRelock s = .next t ∧ answers t 0x201 ∧ t.mg.lcs = s.mg.lcs ∧ same t)
          ∧ (k = 0 → s.mg.lcs = 2 → bound ∨ s.mg.testing ≠ [] → ∃ t, exec .cmdRelock s = .next t ∧ answers t 0x202 ∧ t.mg.lcs = s.mg.lcs ∧ same t)
          ∧ (k = 0 → s.mg.lcs = 2 → free → s.mg.testing = [] → ∃ t, exec .cmdRelock s = .next t ∧ moved t 1)
          ∧ (k = 1 → ∃ t, exec .cmdRelock s = .next t ∧ wiped t)
          ∧ (2 ≤ k → ∃ t, exec .cmdRelock s = .next t ∧ measured t (fuseBytes s 0 8 ++ leBytes 4 s.mg.from_ ++ leBytes 4 1 ++ List.replicate 88 0)))
       ∧ (now 12 →
          (k = 0 → token ≠ 0 → ∃ t, exec .cmdRtn s = .next t ∧ same t ∧ answers t (0x100 + token) ∧ t.mg.lcs = s.mg.lcs)
          ∧ (k = 0 → token = 0 → ∃ t, exec .cmdRtn s = .next t ∧ onto t ∧ same t ∧ holds t nxt ∧ t.mg.lcs = s.mg.lcs)
          ∧ (k = 1 → s.mg.lcs < 3 → bound ∨ s.mg.testing ≠ [] → ∃ t, exec .cmdRtn s = .next t ∧ answers t 0x202 ∧ t.mg.lcs = s.mg.lcs ∧ same t)
          ∧ (k = 1 → s.mg.lcs < 3 → free → s.mg.testing = [] → ¬ holds s 3 → ∃ t, exec .cmdRtn s = .next t ∧ answers t 0x203 ∧ t.mg.lcs = s.mg.lcs ∧ same t)
          ∧ (k = 1 → s.mg.lcs < 3 → free → s.mg.testing = [] → holds s 3 → ∃ t, exec .cmdRtn s = .next t
              ∧ (moved t 3 ∧ (fuseWord t 8).getLsbD 1 = true ∨ answers t 0x205 ∧ t.mg.lcs = s.mg.lcs ∧ same t))
          ∧ (k = 2 → ∃ t, exec .cmdRtn s = .next t ∧ wiped t)
          ∧ (3 ≤ k → ∃ t, exec .cmdRtn s = .next t ∧ measured t (memRead s.sram (a + 64) 128))))
    ∧ (now 13 → ∃ t, exec .cmdQuote s = .next t ∧ same t ∧ answers t 0 ∧ payload t (fuseBytes s 0 8 ++ leBytes 4 s.mg.lcs ++ leBytes 4 s.mg.ports ++ leBytes 4 (fwVersion s) ++ List.replicate 20 0
        ++ memRead s.sram (a + 64) 64 ++ ((List.range 16).map (measOf s)).flatten))
    ∧ (now 14 → ∃ t, exec .cmdKeyload s = .next t ∧ same t ∧ ((answers t 0 ∧ word 0 < 64) ∨ (answers t 1 ∧ t.mg.keys = s.mg.keys)) ∧ ∀ j, j ≠ word 0 → sget [] t.mg.keys j = sget [] s.mg.keys j)
    ∧ (now 15 → word 4 ≤ 4020 → word 8 = 0 → ∃ t b, exec .cmdUpdate s = .next t ∧ same t ∧ answers t 0 ∧ t.mg.next = s.mg.next ∧ sget none t.mg.slots (1 - s.mg.active) = some b
        ∧ (∀ k, k < word 4 → b.getD (word 0 + k) 0 = memGet s.sram (a + 76 + k)) ∧ ∀ j, j ≠ 1 - s.mg.active → sget none t.mg.slots j = sget none s.mg.slots j)
    ∧ (now 15 → 4020 < word 4 ∨ 1 < word 8 → ∃ t, exec .cmdUpdate s = .next t ∧ same t ∧ answers t 1 ∧ t.mg.slots = s.mg.slots)
    ∧ (now 15 → word 4 ≤ 4020 → word 8 = 1 → ∃ t, exec .cmdUpdate s = .next t ∧ same t ∧ (t.mg.next ≠ s.mg.next → answers t 0 ∧ t.mg.next = 1 - s.mg.active
        ∧ ∃ f, fwOf t (1 - s.mg.active) = some f ∧ antiRollback s ≤ f.version))

/-! ### Host registers, the aperture, device reset, tests and limits -/

/-- R129, R434, R436, R448, R464, R480 to R482, R488, R493: what a write of each register of the window does, which writes are ignored whole, and what a host access through the aperture reads or writes. Where the manual leaves a point open it states the model's choice: log 5, 66, 79 and 80. -/
def Obligations.HostWindowAndAperture : Prop :=
  (∀ (s : State) (v : DWord),
    let n := v.toNat
    let write := fun (o : Nat) => exec (.registerWrite o 8 v) s
    let ok := fun (o : Nat) (r : HostRegs) => write o = .next { s with regs := r }
    (∀ o len, ¬ (len = 8 ∧ o % 8 = 0) → ¬ (len = 4 ∧ o % 4 = 0) → exec (.registerWrite o len v) s = .next s)
    ∧ (∀ q, q < 4096 → write (8 * q) = exec (.queueDoorbell q) s)
    ∧ (n % 64 = 0 ∧ n < 0x12000000000 → ok 0x8000 { s.regs with qtbase := v }) ∧ (n % 64 ≠ 0 ∨ 0x12000000000 ≤ n → write 0x8000 = .next s)
    ∧ (1 ≤ n ∧ n ≤ 4096 → ok 0x8008 { s.regs with qtn := v }) ∧ (n = 0 ∨ 4096 < n → write 0x8008 = .next s)
    ∧ (n % 128 = 0 ∧ n < 0x12000000000 → ok 0x8010 { s.regs with ctbase := v }) ∧ (n % 128 ≠ 0 ∨ 0x12000000000 ≤ n → write 0x8010 = .next s)
    ∧ (s.regs.ctxcmd.getLsbD 31 = true → write 0x8018 = .next s)
    ∧ (s.regs.ctxcmd.getLsbD 31 = false → (field n 17 16 = 1 → write 0x8018 = exec (.ctxBind (n % 65536)) s) ∧ (field n 17 16 = 2 → write 0x8018 = exec (.ctxUnbind (n % 65536)) s))
    ∧ ok 0x8020 { s.regs with hcfg := v &&& 1#64 } ∧ (n % apertureSize s = 0 → ok 0x8028 { s.regs with apbase := v }) ∧ (n % apertureSize s ≠ 0 → write 0x8028 = .next s)
    ∧ ok 0x9000 { s.regs with tlbiva := v &&& 0x1FFFFFFFFFFC000#64 } ∧ ok 0x9008 { s.regs with tlbilen := v &&& 0xFFFFFFFFFFFFC000#64 }
    ∧ (n.testBit 0 = true → s.inval = none → (n.testBit 2 = true → write 0x9010 = exec (.tlbInvalidateAll (field n 31 16)) s)
        ∧ (n.testBit 2 = false → write 0x9010 = exec (.tlbInvalidateRange (field n 31 16) s.regs.tlbiva.toNat s.regs.tlbilen.toNat) s))
    ∧ ok 0xA000 { s.regs with frbase := v } ∧ write 0xA008 = .next s
    ∧ (field n 63 14 ≠ 0 ∨ field n 13 12 = 3 → write 0xA010 = .next s)
    ∧ (field n 63 14 = 0 → (field n 13 12 = 0 → write 0xA010 = exec (.faultAnswerServiced (n % 4096)) s) ∧ (field n 13 12 = 1 → write 0xA010 = exec (.faultAnswerUnresolvable (n % 4096)) s)
        ∧ (field n 13 12 = 2 → write 0xA010 = exec (.faultAnswerRetained (n % 4096)) s))
    ∧ ok 0xB000 { s.regs with tsbase := v } ∧ ok 0xB008 { s.regs with tslen := v } ∧ write 0xB010 = .next s ∧ ok 0xB018 { s.regs with tsrd := v } ∧ ok 0xC000 { s.regs with lwbase := v }
    ∧ (let u := { s with regs := { s.regs with lwcmd := v &&& 0x1FF#64 } };
        write 0xC008 = if n.testBit 8 then exec (.linkWindowClose (n % 256)) u else exec (.linkWindowArm (n % 256)) u)
    ∧ (∀ c, c < 8 → write (0x10000 + 0x1000 * c) = exec (.debugContextChange c v) s ∧ write (0x10030 + 0x1000 * c) = exec (.drdataWrite c v) s)
    ∧ (∀ k, k < 512 → ∃ t, write (0x100000 + 8 * k) = .next t ∧ SameMem s t ∧ ∀ j, memGet t.mg.mailbox j = if 8 * k ≤ j ∧ j < 8 * k + 8 then v.extractLsb' (8 * (j - 8 * k)) 8 else memGet s.mg.mailbox j)
    ∧ (n.testBit 0 = false ∨ s.regs.mbsts.getLsbD 0 = true → write 0x101000 = .next s)
    ∧ (n.testBit 0 = true → s.regs.mbsts.getLsbD 0 = false → s.mg.noFw = false → ∃ t, write 0x101000 = .next t ∧ t.regs.mbsts.getLsbD 0 = true ∧ t.mg.ran = false
        ∧ t.mg.cmd = some (leNat (memRead s.mg.mailbox 0 4)) ∧ ∀ k, k < 4096 → memGet t.sram (s.mg.mcmd.toNat + k) = memGet s.mg.mailbox k)
    ∧ (n.testBit 1 = true → ok 0x101008 { s.regs with mbsts := s.regs.mbsts &&& ~~~2#64 })
    ∧ ∀ o, o % 8 = 0 → (0x8030 ≤ o ∧ o < 0x9000) ∨ (0xC010 ≤ o ∧ o < 0x10000) ∨ (0x18000 ≤ o ∧ o < 0x100000) ∨ (0x101010 ≤ o ∧ o < 0x4000000) → write o = .next s)
  ∧ ∀ (s : State) (o : Nat),
    let a := s.regs.apbase.toNat + o
    (∀ x, exec (.hostApertureAccess (.atomic x)) s = .next s)
    ∧ (∀ n, ∃ t, exec (.hostApertureAccess (.read o n)) s = .next t ∧ SameMem s t)
    ∧ (∀ b, 0x12000000000 < a + b.length ∨ apertureSize s < o + b.length → exec (.hostApertureAccess (.write o b)) s = .next s)
    ∧ (∀ b, a + b.length ≤ 0x12000000000 → o + b.length ≤ apertureSize s → touchesCode s a b.length = true →
        exec (.hostApertureAccess (.write o b)) s = .next { s with reports := s.reports ++ [.unsupportedRequest o] })
    ∧ ∀ b, a + b.length ≤ 0x12000000000 → o + b.length ≤ apertureSize s → touchesCode s a b.length = false →
        ∃ t, exec (.hostApertureAccess (.write o b)) s = .next t ∧ Stored s t .dev a b ∧ t.groups = s.groups ∧ t.regs = s.regs

/-- R12, R18, R485, R505 to R508: a device reset, or 115 °C, leaves every context lost, the stores wiped, the ports closed and the fused base state; a unit due for test takes no work, is tested when it holds none or is stopped, and
is fenced where it fails; near a limit the clocks fall within their range, and then gaps come in. Where the manual leaves a point open it states the model's choice: log 18, 77 and 78. -/
def Obligations.ResetTestsAndLimits : Prop :=
  (∀ (s : State) (c : ResetCause), ∃ t, exec (.deviceReset c) s = .next t ∧ t.hmem = s.hmem ∧ t.safe = s.safe ∧ t.dmem = [] ∧ t.spad = [] ∧ t.groups = State.reset.groups ∧ t.ctxs = [] ∧ t.batches = []
      ∧ t.regs = State.reset.regs ∧ t.mg.ports = 0 ∧ t.mg.vtok = none ∧ t.mg.chal = none ∧ t.mg.keys = [] ∧ t.mg.portDown = [] ∧ t.mg.log = s.mg.log ∧ t.mg.fenced = s.mg.fenced ++ s.mg.fencing
      ∧ t.mg.lcs = (if (fuseWord s 8).getLsbD 1 then 3 else if (fuseWord s 8).getLsbD 0 then 1 else 0)
      ∧ ((∀ i, fwOf s i = none) → t.mg.noFw = true)
      ∧ ∀ k, 2 ≤ k → k < 16 → measOf t k = List.replicate 64 0)
  ∧ (∀ (s : State) (u : TestUnit),
    let cls := match u with | .core _ => 0 | .quad _ => 1 | .stack _ => 2
    let real := match u with | .core c => c < 1536 | .quad f => f < 384 | .stack n => n < 12
    let on := s.mg.test.1 ≠ 0 ∧ s.mg.test.2.testBit cls = true ∧ real ∧ Fence.tested u ∉ s.mg.fenced ∧ Fence.tested u ∉ s.mg.fencing
    let next_ := testNext s = some u ∧ s.mg.testing = []
    let during := s.mg.cmd ≠ none ∧ s.mg.ran = false
    (¬ on → exec (.inFieldTestPeriod u) s = .next s)
    ∧ (¬ next_ → exec (.inFieldTestPeriod u) s = .next s)
    ∧ (next_ → during → exec (.inFieldTestPeriod u) s = .next { s with mg := { s.mg with testDue := some u } })
    ∧ (next_ → ¬ during → ∃ t, exec (.inFieldTestPeriod u) s = .next t ∧ SameMem s t ∧ t.groups = s.groups ∧ t.mg.testing = [u] ∧ t.mg.testPos = some (unitPlace u + 1) ∧ t.mg.testDue = none
        ∧ (∀ p, s.mg.testPos = some p → unitPlace u < p → s.mg.testStart + 60000000000 * s.mg.test.1 < 2 ^ 64 → s.time.toNat < 2 ^ 63 → s.mg.testStart + 60000000000 * s.mg.test.1 ≤ t.time.toNat))
    ∧ (∀ v p, testNext s = some v → s.mg.testPos = some p → on → p ≤ unitPlace u → p ≤ unitPlace v ∧ unitPlace v ≤ unitPlace u)
    ∧ (u ∉ s.mg.testing → ∀ b, exec (.inFieldTestDone u b) s = .next s) ∧ (unitOpen s u = false → ∀ b, exec (.inFieldTestDone u b) s = .next s)
    ∧ (u ∈ s.mg.testing → unitOpen s u = true → exec (.inFieldTestDone u true) s = .next { s with mg := { s.mg with testing := s.mg.testing.erase u } })
    ∧ (u ∈ s.mg.testing → unitOpen s u = true → s.mg.fencing = [] → ∃ t, exec (.inFieldTestDone u false) s = .next t ∧ SameMem s t ∧ t.mg.testing = s.mg.testing.erase u
        ∧ t.mg.fenced = s.mg.fenced ++ [.tested u] ∧ t.mg.fencing = [] ∧ ∃ r ∈ t.mg.log, (s.mg.log = [] → field r 175 172 = 3)
          ∧ (match u with | .core _ => field r 171 168 = 2 ∨ field r 171 168 = 3 | .quad _ => field r 171 168 = 4 | .stack _ => field r 171 168 = 0))
    ∧ (u ∈ s.mg.testing → unitOpen s u = false → exec (.testUnitStillBusy u) s = .next { s with mg := { s.mg with testing := s.mg.testing.erase u } })
    ∧ (u ∉ s.mg.testing ∨ unitOpen s u = true → exec (.testUnitStillBusy u) s = .next s))
  ∧ ∀ (s : State),
    let clock := fun (t : State) (c : Nat) => sget 22 t.mg.clocks c
    let lowers := fun t : State => SameMem s t ∧ t.groups = s.groups ∧ ((∃ c, c < 8 ∧ 12 < clock s c) → (∀ c, c < 8 → 12 ≤ clock s c → 12 ≤ clock t c ∧ clock t c ≤ clock s c) ∧ t.mg.gaps = s.mg.gaps)
      ∧ ((∀ c, c < 8 → clock s c ≤ 12) → t.mg.gaps = true ∧ t.mg.clocks = s.mg.clocks)
    (∀ c f, c < 8 → 12 ≤ f → f ≤ 24 → ∃ t, exec (.clockFrequencyChange c f) s = .next t ∧ SameMem s t ∧ clock t c = f ∧ ∀ d, d ≠ c → clock t d = clock s d)
    ∧ (∀ c f, 8 ≤ c ∨ f < 12 ∨ 24 < f → exec (.clockFrequencyChange c f) s = .next s)
    ∧ (∀ w, ∃ t, exec (.powerLimit w) s = .next t ∧ lowers t)
    ∧ (∀ d q, 17 ≤ d ∨ q < 420 → exec (.thermalLimit d q) s = .next s)
    ∧ (∀ d q, d < 17 → 420 ≤ q → q < 460 → ∃ t, exec (.thermalLimit d q) s = .next t ∧ lowers t)
    ∧ (∀ d q c, d < 17 → 460 ≤ q → exec (.thermalLimit d q) s = exec (.deviceReset c) s)

/-! ### The encodings -/

/-- A word written as the manual writes one: bits 127:96, 95:64, 63:32 and 31:0. -/
def rows (a b c d : Nat) : IWord := BitVec.ofNat 128 (((a * 2 ^ 32 + b) * 2 ^ 32 + c) * 2 ^ 32 + d)

/-- A word with no L, U or S bit, no guard and nothing in its operand fields but what `f` gives it. -/
def plainWord {M : Type} (m : M) (f : IW M → IW M := id) : IW M :=
  f { nx := .seq, u := false, s := false, la := false, lb := false, lc := false, psns := false, pidx := 7, dst := .x 0, sa := .x 0, sb := .x 0, sc := .x 0, mod := m, imm := 0 }

/-- Words that the manual writes out bit by bit decode to the instructions that it names ("Worked encodings" of its chapters, R107 to R121). -/
def Obligations.DecodeWords : Prop :=
  let t := Decode.decode .trace
  let m := Decode.decode .mgmt
  let a := fun (x y : Ty) => ({ tya := x, tyb := y, opx := 0, rnd := .rne } : ModA)
  let mm := fun (x : Ty) => ({ ty := x, ord := .none, scope := .ln, aop := 0, cnt := 0, pair := false } : ModM)
  let g := ({ ty := .none, opx := 0, chk := false, slot := 0, scope := .ln } : ModG)
  let c := ({ slot := 0, bcnt := false, sub := 0, rsv := 0 } : ModC)
  let q := ({ sub := 0, ord := .none, scope := .ln, rsv := 0 } : ModS)
  t (rows 0x09423840 0x3FC01000 0 2) = .ok (.shl (plainWord (a .n32 .none) fun w => { w with la := true, dst := .x 4, sa := .x 1, sb := .imm, imm := 2 }))
  ∧ t (rows 0x00023808 0x20000000 0 3) = .ok (.grd (plainWord { ty := .none, opx := 0, rsv := 0 } fun w => { w with la := true, sa := .p 1, imm := 3 }))
  ∧ t (rows 0x62C03800 0xC0C00800 0 0) = .ok (.stn (plainWord (mm .s32) fun w => { w with sa := .x 6, sb := .x 3 }))
  ∧ t (rows 0x11C8389F 0xE0000000 0 4) = .ok (.movi (plainWord (a .none .none) fun w => { w with u := true, dst := .x 9, sa := .imm, imm := 4 }))
  ∧ t (rows 0x8060380F 0xE0000000 0 0) = .ok (.step (plainWord q fun w => { w with nx := .link, sa := .imm }))
  ∧ t (rows 0x21C03858 0xE0000080 0 0) = .ok (.lcnt (plainWord { g with opx := 1 } fun w => { w with dst := .x 5, sa := .p 7 }))
  ∧ t (rows 0x21403890 0x40000800 0 0) = .ok (.lred (plainWord { g with ty := .s32 } fun w => { w with dst := .x 9, sa := .x 2 }))
  ∧ t (rows 0x0B403810 0x5FC01000 0 0x804) = .ok (.bfx (plainWord (a .n32 .none) fun w => { w with dst := .x 1, sa := .x 2, sb := .imm, imm := 0x804 }))
  ∧ t (rows 0x00403800 0x40C00900 0 2) = .ok (.grdc (plainWord { ty := .s32, opx := 2, rsv := 0 } fun w => { w with sa := .x 2, sb := .x 3, imm := 2 }))
  ∧ t (rows 0x40C03850 0x2081A800 0 0) = .ok (.ffma (plainWord (a .f32 .none) fun w => { w with dst := .x 5, sa := .x 1, sb := .x 2, sc := .x 3 }))
  ∧ t (rows 0x50003840 0x2004B284 0 0) = .ok (.cvtf (plainWord { a .bf16 .f32 with rnd := .rs } fun w => { w with dst := .x 4, sa := .x 1, sc := .x 9 }))
  ∧ t (rows 0x50C03860 0x5FC05000 0 0x140) = .ok (.cvtq (plainWord { g with ty := .q4 } fun w => { w with dst := .x 6, sa := .x 2, sb := .imm, imm := 0x140 }))
  ∧ t (rows 0x60003820 0x80000B00 0 0x40) = .ok (.ld (plainWord { mm .s32 with ord := .acq, scope := .dev } fun w => { w with dst := .x 2, sa := .x 4, imm := 0x40 }))
  ∧ t (rows 0x64803850 0xC0C028C0 0 0x80) = .ok (.atms (plainWord { mm .f32 with scope := .clu } fun w => { w with dst := .x 5, sa := .x 6, sb := .x 3, imm := 0x80 }))
  ∧ t (rows 0x680038A2 0x80C00810 0 0x100) = .ok (.gath (plainWord { g with ty := .s32, slot := 2 } fun w => { w with dst := .x 10, sa := .x 20, sb := .x 3, imm := 0x100 }))
  ∧ t (rows 0x82503850 0x02000000 0 0) = .ok (.bara (plainWord q fun w => { w with nx := .stop, dst := .x 5, sb := .x 8 }))
  ∧ t (rows 0x82C0380F 0xE2000000 0 0x1000) = .ok (.barx (plainWord q fun w => { w with sa := .imm, sb := .x 8, imm := 0x1000 }))
  ∧ t (rows 0x81003800 0xC0000000 0 0x80) = .ok (.fset (plainWord (mm .none) fun w => { w with sa := .x 6, imm := 0x80 }))
  ∧ t (rows 0x90803940 0x820B3800 0 0) = .ok (.cpt (plainWord { c with slot := 3, bcnt := true } fun w => { w with dst := .x 20, sa := .x 4, sb := .x 8, sc := .x 22 }))
  ∧ t (rows 0x900038A0 0x82C00100 0 0x100) = .ok (.cpl (plainWord { c with sub := 2 } fun w => { w with dst := .x 10, sa := .x 4, sb := .x 11, imm := 0x100 }))
  ∧ t (rows 0x91903800 0xA0000000 0 0) = .ok (.pub (plainWord c fun w => { w with nx := .stop, sa := .x 5 }))
  ∧ t (rows 0xA0103D01 0x02880000 0 0) = .ok (.mpost (plainWord { tya := .none, tyb := .none, prov := false, rnd := .rne, rsv := 0 } fun w => { w with nx := .stop, dst := .a 0, sa := .x 8, sb := .x 10, sc := .x 16 }))
  ∧ t (rows 0xA4403D1A 0x06002808 0 3) = .ok (.tscl (plainWord { tya := .f32, tyb := .none, prov := false, rnd := .rz, rsv := 0 } fun w => { w with dst := .a 1, sa := .a 0, sb := .x 24, imm := 3 }))
  ∧ t (rows 0xC21038A0 0x01C00000 0 0) = .ok (.rtkt (plainWord q fun w => { w with nx := .stop, dst := .x 10, sb := .x 7 }))
  ∧ t (rows 0xC2533801 0x41C00000 0 0) = .ok (.rput (plainWord q fun w => { w with nx := .stop, la := true, lb := true, sa := .x 10, sb := .x 7 }))
  ∧ m (rows 0xDD103850 0 0 2) = .ok (.lcst (plainWord q fun w => { w with nx := .stop, dst := .x 5, imm := 2 }))
  ∧ m (rows 0xDC503830 0x40001800 0 0) = .ok (.crypVtok (plainWord { q with sub := 3 } fun w => { w with nx := .stop, dst := .x 3, sa := .x 2 }))
  ∧ t (rows 0xDD103850 0 0 2) = .error .profile ∧ t (rows 0xFFC00000 0 0 0) = .error .illegal
  ∧ t (rows 0x50003840 0x2004AA84 0 0) = .error .modOrImm ∧ t (rows 0x09423840 0x3FC01005 0 2) = .error .modOrImm
  ∧ t (rows 0xA200380A 0x20000000 0 0) = .error .syncNx

/-- R107 to R126: the decoder gives back each instruction from its own word, on every core on which it is well formed, with every operand and modifier. Where the manual leaves a point open it states the model's choice: log 28 and 29. -/
def Obligations.DecodeOfEncode : Prop := ∀ (p : Profile) (i : Instr) (v : IWord), WellFormed p i → Decode.encode i = some v → Decode.decode p v = .ok i

/-- R107 to R126: a word that decodes is the word of a well-formed instruction, and of no other. Where the manual leaves a point open it states the model's choice: log 28 and 29. -/
def Obligations.EncodeOfDecode : Prop := ∀ (p : Profile) (v : IWord) (i : Instr), Decode.decode p v = .ok i → WellFormed p i ∧ Decode.encode i = some v

/-! ### The machine -/

/-- R74, R86, R91, R128: a step runs the word at the running trace's offset, decoded for the core's profile, and the turn then passes to the next group of the track that can issue, in the order of
slots, but for the commit that follows a trace's last instruction; at the trace's end it commits; the events of the agenda come first, in order. Where the manual leaves a point open it states the model's choice: log 11, 19 and 79. -/
def Obligations.StepRunsTheDecodedInstruction : Prop :=
  (∀ (s : State) (r : Run) (i : Instr), s.agenda = [] → s.stalled = false → (getG s s.cur).run = some r → (getP (getG s s.cur) r.path).state = .running → (getG s s.cur).step ≠ .settle →
    r.ended = false → Decode.decode (getG s s.cur).prof (r.words.getD r.off 0) = .ok i →
      step s = onNext (passTurn s.cur true) (exec i s)
      ∧ ∀ t, exec i s = .next t →
        let slot := fun (k : Nat) => s.cur / 16 * 16 + (s.cur % 16 + 1 + k) % 16
        let able := fun g => canIssue t g = true ∧ (getG t g).yielded = false
        ∃ u, step s = .next u ∧ u = { t with cur := u.cur, stalled := u.stalled, stuck := u.stuck, rr := u.rr, groups := u.groups }
          ∧ (∀ g, getG u g = { getG t g with yielded := (getG u g).yielded })
          ∧ (t.stalled = false → commitsNext (getG t s.cur) = true → t.cur = s.cur → u.cur = s.cur)
          ∧ (t.stalled = false → commitsNext (getG t s.cur) = false → ∀ k, k < 16 → able (slot k) → (∀ j, j < k → ¬ able (slot j)) → u.cur = slot k))
  ∧ (∀ (s : State) (r : Run), s.agenda = [] → s.stalled = false → (getG s s.cur).run = some r → (getP (getG s s.cur) r.path).state = .running → (getG s s.cur).step ≠ .settle →
    r.ended = true → step s = onNext (passTurn s.cur false) (exec (.traceCommit s.cur) s))
  ∧ (∀ (s : State) (e : Instr) (rest : List Instr), s.agenda = e :: rest → (wordOf e = none → step s = onNext tryAgain (exec e { s with agenda := rest }))
      ∧ (wordOf e ≠ none → step s = .next { s with agenda := rest }))
  ∧ (∀ (s : State), s.agenda = [] → s.stalled = true → dueEvents s = [] → step s = .next (tryAgain { s with stalled := false }))
  ∧ ∀ (s : State), s.agenda = [] → s.stalled = true → dueEvents s ≠ [] →
      ∃ e ∈ dueEvents s, ∃ u, step s = onNext tryAgain (exec e u) ∧ u = { s with free := u.free, stalled := false }

/-- What device reset leaves: no group, batch or context, empty memories, the registers of the host's window at 0 and those that have another reset value at it (R78, R157, R224, R326, R434, R442, R467, R480, R493, R499). Where the manual leaves a point open it states the model's choice: log 1, 2, 5, 6, 7, 8 and 12. -/
def Obligations.ResetValues : Prop :=
  let s := State.reset
  s.groups = [] ∧ s.batches = [] ∧ s.ctxs = [] ∧ s.tlb = [] ∧ s.flight = [] ∧ s.jobs = [] ∧ s.saved = [] ∧ s.dmem = [] ∧ s.spad = [] ∧ s.regs.qtbase = 0 ∧ s.regs.qtn = 0 ∧ s.regs.ctbase = 0
  ∧ s.regs.apbase = 0 ∧ s.regs.tlbictl = 0 ∧ s.regs.frwr = 0 ∧ s.regs.tswr = 0 ∧ s.regs.mbsts = 0 ∧ s.inval = none
  ∧ (∀ c, (getD s c).en = false ∧ (getD s c).ctx = 0 ∧ (getD s c).stopped = false ∧ (getD s c).bkact = 0) ∧ (∀ c, sget 0 s.sctl c = 0)
  ∧ (∀ n, sget 0x1000430A00000000#64 s.actCfg n = 0x1000430A00000000#64) ∧ (∀ b, getBank s b = {}) ∧ (∀ k, (getF s k).inFlight = none ∧ (getF s k).serial = 0 ∧ ∀ t, (tileAt (getF s k) t).v = false)
  ∧ (∀ g, (getG s g).res = false ∧ (∀ i, (getP (getG s g) i).state = .empty ∧ (getP (getG s g) i).mask = 0) ∧ ∀ n, (getCpb (getG s g) n).st = .done ∧ (getCpb (getG s g) n).val = 0)
  ∧ (∀ k, lineEmpty s k = false) ∧ s.mg.vtok = none ∧ s.mg.chal = none ∧ s.mg.ports = 0 ∧ (∀ k, measOf s k = List.replicate 64 0) ∧ s.mg.thRow = 16 ∧ s.mg.thReplay = 1000 ∧ s.mg.thRetry = 100 ∧ s.mg.thMargin = 24

/-- After reset every memory is in its canonical form: addresses strictly rise, and no listed byte is the 0 that an unlisted byte reads as. Where the manual leaves a point open it states the model's choice: log 1 and 2. -/
def Obligations.ResetMemoriesCanonical : Prop := MemOk State.reset

/-- Every step keeps every memory of the device in its canonical form, from whatever state it holds in: equal memories are equal data. Where the manual leaves a point open it states the model's choice: log 1 and 2. -/
def Obligations.StepKeepsMemoriesCanonical : Prop := Kept MemOk
end

