-- ==== Sys2Proof/Laws/Decode.lean ====
section
/-! SUPPORT. Packing and reading fields are inverse, format by format, and so is the whole of a word. -/
namespace Sys2Proof.Laws
open Sys2Proof Sys2Proof.Checks Sys2Proof.Decode

/-! ### Fields in a row -/

theorem splitNat_packNat (l : List (Nat × Nat)) : splitNat (l.map Prod.fst) (packNat l) = l.map fun e => e.2 % 2 ^ e.1 := by
  induction l with
  | nil => rfl
  | cons e r ih =>
    obtain ⟨n, v⟩ := e
    have h : 0 < 2 ^ n := Nat.two_pow_pos n
    simp only [packNat, List.map_cons, splitNat, Nat.add_mul_mod_self_left, Nat.mod_mod, Nat.add_mul_div_left _ _ h,
      Nat.div_eq_of_lt (Nat.mod_lt v h), Nat.zero_add, ih]

theorem packNat_splitNat (l : List Nat) (v : Nat) :
    packNat (l.zip (splitNat l v)) = v % 2 ^ l.sum := by
  induction l generalizing v with
  | nil => simp [splitNat, packNat, Nat.mod_one]
  | cons n r ih =>
    simp only [splitNat, List.zip_cons_cons, packNat, ih, List.sum_cons, pow_add, Nat.mod_mod]
    rw [Nat.mod_mul]

theorem packNat_lt (l : List (Nat × Nat)) : packNat l < 2 ^ (l.map Prod.fst).sum := by
  induction l with
  | nil => simp [packNat]
  | cons e r ih =>
    obtain ⟨n, v⟩ := e
    have h : v % 2 ^ n < 2 ^ n := Nat.mod_lt _ (Nat.two_pow_pos n)
    simp only [packNat, List.map_cons, List.sum_cons, pow_add]
    calc v % 2 ^ n + 2 ^ n * packNat r < 2 ^ n + 2 ^ n * packNat r := by omega
      _ = 2 ^ n * (packNat r + 1) := by ring
      _ ≤ 2 ^ n * 2 ^ (r.map Prod.fst).sum := Nat.mul_le_mul_left _ ih

/-! ### Codes -/

@[simp] theorem nxOf_code (n : Nx) : nxOf (nxCode n) = n := by cases n <;> rfl
@[simp] theorem tyOf_code (t : Ty) : tyOf (tyCode t) = t := by cases t <;> rfl
@[simp] theorem ordOf_code (o : Ord2) : ordOf (ordCode o) = o := by cases o <;> rfl
@[simp] theorem scopeOf_code (o : Scope) : scopeOf (scopeCode o) = o := by cases o <;> rfl
@[simp] theorem rndOf_code (r : Rnd) : rndOf (rndCode r) = r := by cases r <;> rfl
@[simp] theorem bitOf_code (b : Bool) : bitOf (bitCode b) = b := by cases b <;> rfl
theorem fin_ofNat {n : Nat} [NeZero n] (x : Fin n) : Fin.ofNat n x.val = x := by simp
theorem nxCode_lt (n : Nx) : nxCode n < 2 ^ 2 := by cases n <;> decide
theorem tyCode_lt (t : Ty) : tyCode t < 2 ^ 4 := by cases t <;> decide
theorem ordCode_lt (o : Ord2) : ordCode o < 2 ^ 2 := by cases o <;> decide
theorem scopeCode_lt (o : Scope) : scopeCode o < 2 ^ 3 := by cases o <;> decide
theorem rndCode_lt (r : Rnd) : rndCode r < 2 ^ 3 := by cases r <;> decide
theorem bitCode_lt (b : Bool) : bitCode b < 2 ^ 1 := by cases b <;> decide

theorem opndCode_lt (o : Opnd) : opndCode o < 2 ^ 7 := by
  cases o <;> simp only [opndCode] <;> omega

@[simp] theorem opndOf_code (o : Opnd) : opndOf (opndCode o) = o := by
  cases o with
  | x n => revert n; decide
  | p n => revert n; decide
  | q n => revert n; decide
  | rsvA n => revert n; decide
  | a n => revert n; decide
  | rsvB n => revert n; decide
  | imm => rfl

/-! ### MOD, format by format -/

@[simp] theorem unpackA_packA (m : ModA) : unpackA (packA m) = m := by
  have h := splitNat_packNat [(3, rndCode m.rnd), (4, m.opx.toNat), (4, tyCode m.tyb), (4, tyCode m.tya)]
  simp only [List.map_cons, List.map_nil] at h
  have h1 := rndCode_lt m.rnd; have h2 := tyCode_lt m.tya; have h3 := tyCode_lt m.tyb
  simp only [unpackA, packA, h, fin_ofNat, Nat.mod_eq_of_lt m.opx.isLt, BitVec.ofNat_toNat, BitVec.setWidth_eq, Fin.ofNat_eq_cast, Fin.cast_val_eq_self, nxOf_code, tyOf_code, ordOf_code, scopeOf_code, rndOf_code, bitOf_code, opndOf_code, Nat.mod_eq_of_lt h1, Nat.mod_eq_of_lt h2, Nat.mod_eq_of_lt h3]

@[simp] theorem unpackI_packI (m : ModI) : unpackI (packI m) = m := by
  have h := splitNat_packNat [(7, m.rsv.toNat), (4, m.opx.toNat), (4, tyCode m.ty)]
  simp only [List.map_cons, List.map_nil] at h
  have h2 := tyCode_lt m.ty
  simp only [unpackI, packI, h, fin_ofNat, Nat.mod_eq_of_lt m.opx.isLt, Nat.mod_eq_of_lt m.rsv.isLt, BitVec.ofNat_toNat, BitVec.setWidth_eq, Fin.ofNat_eq_cast, Fin.cast_val_eq_self, nxOf_code, tyOf_code, ordOf_code, scopeOf_code, rndOf_code, bitOf_code, opndOf_code, Nat.mod_eq_of_lt h2]

@[simp] theorem unpackM_packM (m : ModM) : unpackM (packM m) = m := by
  have h := splitNat_packNat [(1, bitCode m.pair), (2, m.cnt.toNat), (3, m.aop.toNat), (3, scopeCode m.scope), (2, ordCode m.ord),
    (4, tyCode m.ty)]
  simp only [List.map_cons, List.map_nil] at h
  have h1 := bitCode_lt m.pair; have h2 := tyCode_lt m.ty; have h3 := scopeCode_lt m.scope; have h4 := ordCode_lt m.ord
  simp only [unpackM, packM, h, fin_ofNat, Nat.mod_eq_of_lt m.cnt.isLt, Nat.mod_eq_of_lt m.aop.isLt, BitVec.ofNat_toNat, BitVec.setWidth_eq, Fin.ofNat_eq_cast, Fin.cast_val_eq_self, nxOf_code, tyOf_code, ordOf_code, scopeOf_code, rndOf_code, bitOf_code, opndOf_code, Nat.mod_eq_of_lt h1, Nat.mod_eq_of_lt h2, Nat.mod_eq_of_lt h3, Nat.mod_eq_of_lt h4]

@[simp] theorem unpackG_packG (m : ModG) : unpackG (packG m) = m := by
  have h := splitNat_packNat [(3, scopeCode m.scope), (3, m.slot.val), (1, bitCode m.chk), (4, m.opx.toNat), (4, tyCode m.ty)]
  simp only [List.map_cons, List.map_nil] at h
  have h1 := bitCode_lt m.chk; have h2 := tyCode_lt m.ty; have h3 := scopeCode_lt m.scope
  simp only [unpackG, packG, h, fin_ofNat, Nat.mod_eq_of_lt m.opx.isLt, Nat.mod_eq_of_lt (show m.slot.val < 2 ^ 3 from m.slot.isLt), BitVec.ofNat_toNat, BitVec.setWidth_eq, Fin.ofNat_eq_cast, Fin.cast_val_eq_self, nxOf_code, tyOf_code, ordOf_code, scopeOf_code, rndOf_code, bitOf_code, opndOf_code, Nat.mod_eq_of_lt h1, Nat.mod_eq_of_lt h2, Nat.mod_eq_of_lt h3]

@[simp] theorem unpackT_packT (m : ModT) : unpackT (packT m) = m := by
  have h := splitNat_packNat [(3, m.rsv.toNat), (3, rndCode m.rnd), (1, bitCode m.prov), (4, tyCode m.tyb), (4, tyCode m.tya)]
  simp only [List.map_cons, List.map_nil] at h
  have h1 := bitCode_lt m.prov; have h2 := tyCode_lt m.tya; have h3 := tyCode_lt m.tyb; have h4 := rndCode_lt m.rnd
  simp only [unpackT, packT, h, fin_ofNat, Nat.mod_eq_of_lt m.rsv.isLt, BitVec.ofNat_toNat, BitVec.setWidth_eq, Fin.ofNat_eq_cast, Fin.cast_val_eq_self, nxOf_code, tyOf_code, ordOf_code, scopeOf_code, rndOf_code, bitOf_code, opndOf_code, Nat.mod_eq_of_lt h1, Nat.mod_eq_of_lt h2, Nat.mod_eq_of_lt h3, Nat.mod_eq_of_lt h4]

@[simp] theorem unpackC_packC (m : ModC) : unpackC (packC m) = m := by
  have h := splitNat_packNat [(7, m.rsv.toNat), (4, m.sub.toNat), (1, bitCode m.bcnt), (3, m.slot.val)]
  simp only [List.map_cons, List.map_nil] at h
  have h1 := bitCode_lt m.bcnt
  simp only [unpackC, packC, h, fin_ofNat, Nat.mod_eq_of_lt m.rsv.isLt, Nat.mod_eq_of_lt m.sub.isLt, Nat.mod_eq_of_lt (show m.slot.val < 2 ^ 3 from m.slot.isLt), BitVec.ofNat_toNat, BitVec.setWidth_eq, Fin.ofNat_eq_cast, Fin.cast_val_eq_self, nxOf_code, tyOf_code, ordOf_code, scopeOf_code, rndOf_code, bitOf_code, opndOf_code, Nat.mod_eq_of_lt h1]

@[simp] theorem unpackS_packS (m : ModS) : unpackS (packS m) = m := by
  have h := splitNat_packNat [(6, m.rsv.toNat), (3, scopeCode m.scope), (2, ordCode m.ord), (4, m.sub.toNat)]
  simp only [List.map_cons, List.map_nil] at h
  have h3 := scopeCode_lt m.scope; have h4 := ordCode_lt m.ord
  simp only [unpackS, packS, h, fin_ofNat, Nat.mod_eq_of_lt m.rsv.isLt, Nat.mod_eq_of_lt m.sub.isLt, BitVec.ofNat_toNat, BitVec.setWidth_eq, Fin.ofNat_eq_cast, Fin.cast_val_eq_self, nxOf_code, tyOf_code, ordOf_code, scopeOf_code, rndOf_code, bitOf_code, opndOf_code, Nat.mod_eq_of_lt h3, Nat.mod_eq_of_lt h4]

theorem packA_lt (m : ModA) : packA m < 2 ^ 15 := packNat_lt [(3, _), (4, _), (4, _), (4, _)]
theorem packI_lt (m : ModI) : packI m < 2 ^ 15 := packNat_lt [(7, _), (4, _), (4, _)]
theorem packM_lt (m : ModM) : packM m < 2 ^ 15 := packNat_lt [(1, _), (2, _), (3, _), (3, _), (2, _), (4, _)]
theorem packG_lt (m : ModG) : packG m < 2 ^ 15 := packNat_lt [(3, _), (3, _), (1, _), (4, _), (4, _)]
theorem packT_lt (m : ModT) : packT m < 2 ^ 15 := packNat_lt [(3, _), (3, _), (1, _), (4, _), (4, _)]
theorem packC_lt (m : ModC) : packC m < 2 ^ 15 := packNat_lt [(7, _), (4, _), (1, _), (3, _)]
theorem packS_lt (m : ModS) : packS m < 2 ^ 15 := packNat_lt [(6, _), (3, _), (2, _), (4, _)]

/-! ### A whole word -/

/-- The fields of a word in the order of `packW`. -/
def wordFields {M : Type} (f : M → Nat) (opc : Nat) (w : IW M) : List (Nat × Nat) :=
  [(64, w.imm.toNat), (15, f w.mod), (7, opndCode w.sc), (7, opndCode w.sb), (7, opndCode w.sa),
    (7, opndCode w.dst), (3, w.pidx.val), (1, bitCode w.psns), (1, bitCode w.lc), (1, bitCode w.lb), (1, bitCode w.la),
    (1, bitCode w.s), (1, bitCode w.u), (2, nxCode w.nx), (10, opc)]

theorem packW_toNat {M : Type} (f : M → Nat) (opc : Nat) (w : IW M) : (packW f opc w).toNat = packNat (wordFields f opc w) := by
  have h : packNat (wordFields f opc w) < 2 ^ 128 := packNat_lt (wordFields f opc w)
  have e : packW f opc w = BitVec.ofNat 128 (packNat (wordFields f opc w)) := rfl
  rw [e, BitVec.toNat_ofNat, Nat.mod_eq_of_lt h]

/-- Reading the fields of a packed word gives them back. -/
theorem unpackW_packW {M : Type} (f : M → Nat) (g : Nat → M) (hg : ∀ m, g (f m) = m) (hf : ∀ m, f m < 2 ^ 15) (opc : Nat) (w : IW M) :
    unpackW g (packW f opc w) = w := by
  have h := splitNat_packNat (wordFields f opc w)
  simp only [wordFields, List.map_cons, List.map_nil] at h
  have h1 := bitCode_lt w.psns; have h2 := bitCode_lt w.lc; have h3 := bitCode_lt w.lb; have h4 := bitCode_lt w.la
  have h5 := bitCode_lt w.s; have h6 := bitCode_lt w.u; have h7 := nxCode_lt w.nx
  have h8 := opndCode_lt w.dst; have h9 := opndCode_lt w.sa; have h10 := opndCode_lt w.sb; have h11 := opndCode_lt w.sc
  have h12 := hf w.mod
  have h13 : w.pidx.val < 2 ^ 3 := w.pidx.isLt
  unfold unpackW
  rw [packW_toNat, wordFields, h]
  simp only [fin_ofNat, Nat.mod_eq_of_lt w.imm.isLt, Nat.mod_eq_of_lt h13, BitVec.ofNat_toNat, BitVec.setWidth_eq, Fin.ofNat_eq_cast, Fin.cast_val_eq_self, nxOf_code, tyOf_code, ordOf_code, scopeOf_code, rndOf_code, bitOf_code, opndOf_code,
    Nat.mod_eq_of_lt h1, Nat.mod_eq_of_lt h2, Nat.mod_eq_of_lt h3, Nat.mod_eq_of_lt h4, Nat.mod_eq_of_lt h5,
    Nat.mod_eq_of_lt h6, Nat.mod_eq_of_lt h7, Nat.mod_eq_of_lt h8, Nat.mod_eq_of_lt h9, Nat.mod_eq_of_lt h10, Nat.mod_eq_of_lt h11,
    hg, Nat.mod_eq_of_lt h12]

/-- The opcode of a packed word is the one packed. -/
theorem opcOfWord_packW {M : Type} (f : M → Nat) (opc : Nat) (h : opc < 1024) (w : IW M) : opcOfWord (packW f opc w) = opc := by
  unfold opcOfWord
  rw [packW_toNat]
  have hl := packNat_lt (wordFields f 0 w).dropLast
  have e : packNat (wordFields f opc w) = packNat (wordFields f 0 w).dropLast + 2 ^ 118 * opc := by
    simp only [wordFields, List.dropLast, packNat, show opc % 2 ^ 10 = opc from Nat.mod_eq_of_lt h, Nat.mul_zero, Nat.add_zero]
    ring
  have hl' : packNat (wordFields f 0 w).dropLast < 2 ^ 118 := hl
  rw [e, Nat.add_mul_div_left _ _ (Nat.two_pow_pos 118), Nat.div_eq_of_lt hl', Nat.zero_add]

end Sys2Proof.Laws
end

