-- ==== Sys2Proof/Laws/State.lean ====
section
/-! SUPPORT. One fact for each field and each named update of the state, so that no proof unfolds an update. -/
namespace Sys2Proof.Machine
open Sys2Proof Sys2Proof.Checks

@[simp] theorem setG_dmem (s : State) (g : GKey) (v : Group) : (setG s g v).dmem = s.dmem := rfl
@[simp] theorem setG_hmem (s : State) (g : GKey) (v : Group) : (setG s g v).hmem = s.hmem := rfl
@[simp] theorem setG_sram (s : State) (g : GKey) (v : Group) : (setG s g v).sram = s.sram := rfl
@[simp] theorem setG_spad (s : State) (g : GKey) (v : Group) : (setG s g v).spad = s.spad := rfl
@[simp] theorem setG_emptyLine (s : State) (g : GKey) (v : Group) : (setG s g v).emptyLine = s.emptyLine := rfl
@[simp] theorem setG_groups (s : State) (g : GKey) (v : Group) : (setG s g v).groups = sset noGroup s.groups g v := rfl
@[simp] theorem setG_batches (s : State) (g : GKey) (v : Group) : (setG s g v).batches = s.batches := rfl
@[simp] theorem setG_teams (s : State) (g : GKey) (v : Group) : (setG s g v).teams = s.teams := rfl
@[simp] theorem setG_flight (s : State) (g : GKey) (v : Group) : (setG s g v).flight = s.flight := rfl
@[simp] theorem setG_stale (s : State) (g : GKey) (v : Group) : (setG s g v).stale = s.stale := rfl
@[simp] theorem setG_tlb (s : State) (g : GKey) (v : Group) : (setG s g v).tlb = s.tlb := rfl
@[simp] theorem setG_walks (s : State) (g : GKey) (v : Group) : (setG s g v).walks = s.walks := rfl
@[simp] theorem setG_code (s : State) (g : GKey) (v : Group) : (setG s g v).code = s.code := rfl
@[simp] theorem setG_ctxs (s : State) (g : GKey) (v : Group) : (setG s g v).ctxs = s.ctxs := rfl
@[simp] theorem setG_queues (s : State) (g : GKey) (v : Group) : (setG s g v).queues = s.queues := rfl
@[simp] theorem setG_formed (s : State) (g : GKey) (v : Group) : (setG s g v).formed = s.formed := rfl
@[simp] theorem setG_dispatches (s : State) (g : GKey) (v : Group) : (setG s g v).dispatches = s.dispatches := rfl
@[simp] theorem setG_faults (s : State) (g : GKey) (v : Group) : (setG s g v).faults = s.faults := rfl
@[simp] theorem setG_sigs (s : State) (g : GKey) (v : Group) : (setG s g v).sigs = s.sigs := rfl
@[simp] theorem setG_fwks (s : State) (g : GKey) (v : Group) : (setG s g v).fwks = s.fwks := rfl
@[simp] theorem setG_emits (s : State) (g : GKey) (v : Group) : (setG s g v).emits = s.emits := rfl
@[simp] theorem setG_tickets (s : State) (g : GKey) (v : Group) : (setG s g v).tickets = s.tickets := rfl
@[simp] theorem setG_saved (s : State) (g : GKey) (v : Group) : (setG s g v).saved = s.saved := rfl
@[simp] theorem setG_jobs (s : State) (g : GKey) (v : Group) : (setG s g v).jobs = s.jobs := rfl
@[simp] theorem setG_floes (s : State) (g : GKey) (v : Group) : (setG s g v).floes = s.floes := rfl
@[simp] theorem setG_pubWaits (s : State) (g : GKey) (v : Group) : (setG s g v).pubWaits = s.pubWaits := rfl
@[simp] theorem setG_bars (s : State) (g : GKey) (v : Group) : (setG s g v).bars = s.bars := rfl
@[simp] theorem setG_regs (s : State) (g : GKey) (v : Group) : (setG s g v).regs = s.regs := rfl
@[simp] theorem setG_mg (s : State) (g : GKey) (v : Group) : (setG s g v).mg = s.mg := rfl
@[simp] theorem setG_debugs (s : State) (g : GKey) (v : Group) : (setG s g v).debugs = s.debugs := rfl
@[simp] theorem setG_sctl (s : State) (g : GKey) (v : Group) : (setG s g v).sctl = s.sctl := rfl
@[simp] theorem setG_memCount (s : State) (g : GKey) (v : Group) : (setG s g v).memCount = s.memCount := rfl
@[simp] theorem setG_cursor (s : State) (g : GKey) (v : Group) : (setG s g v).cursor = s.cursor := rfl
@[simp] theorem setG_samples (s : State) (g : GKey) (v : Group) : (setG s g v).samples = s.samples := rfl
@[simp] theorem setG_slotLast (s : State) (g : GKey) (v : Group) : (setG s g v).slotLast = s.slotLast := rfl
@[simp] theorem setG_tsSeq (s : State) (g : GKey) (v : Group) : (setG s g v).tsSeq = s.tsSeq := rfl
@[simp] theorem setG_banks (s : State) (g : GKey) (v : Group) : (setG s g v).banks = s.banks := rfl
@[simp] theorem setG_cached (s : State) (g : GKey) (v : Group) : (setG s g v).cached = s.cached := rfl
@[simp] theorem setG_actCount (s : State) (g : GKey) (v : Group) : (setG s g v).actCount = s.actCount := rfl
@[simp] theorem setG_actCfg (s : State) (g : GKey) (v : Group) : (setG s g v).actCfg = s.actCfg := rfl
@[simp] theorem setG_poison (s : State) (g : GKey) (v : Group) : (setG s g v).poison = s.poison := rfl
@[simp] theorem setG_ckpts (s : State) (g : GKey) (v : Group) : (setG s g v).ckpts = s.ckpts := rfl
@[simp] theorem setG_safe (s : State) (g : GKey) (v : Group) : (setG s g v).safe = s.safe := rfl
@[simp] theorem setG_reports (s : State) (g : GKey) (v : Group) : (setG s g v).reports = s.reports := rfl
@[simp] theorem setG_msix (s : State) (g : GKey) (v : Group) : (setG s g v).msix = s.msix := rfl
@[simp] theorem setG_pubs (s : State) (g : GKey) (v : Group) : (setG s g v).pubs = s.pubs := rfl
@[simp] theorem setG_inval (s : State) (g : GKey) (v : Group) : (setG s g v).inval = s.inval := rfl
@[simp] theorem setG_dropped (s : State) (g : GKey) (v : Group) : (setG s g v).dropped = s.dropped := rfl
@[simp] theorem setG_clock (s : State) (g : GKey) (v : Group) : (setG s g v).clock = s.clock := rfl
@[simp] theorem setG_time (s : State) (g : GKey) (v : Group) : (setG s g v).time = s.time := rfl
@[simp] theorem setG_serial (s : State) (g : GKey) (v : Group) : (setG s g v).serial = s.serial := rfl
@[simp] theorem setG_corr (s : State) (g : GKey) (v : Group) : (setG s g v).corr = s.corr := rfl
@[simp] theorem setG_parse (s : State) (g : GKey) (v : Group) : (setG s g v).parse = s.parse := rfl
@[simp] theorem setG_parseNo (s : State) (g : GKey) (v : Group) : (setG s g v).parseNo = s.parseNo := rfl
@[simp] theorem setG_free (s : State) (g : GKey) (v : Group) : (setG s g v).free = s.free := rfl
@[simp] theorem setG_cur (s : State) (g : GKey) (v : Group) : (setG s g v).cur = s.cur := rfl
@[simp] theorem setG_rr (s : State) (g : GKey) (v : Group) : (setG s g v).rr = s.rr := rfl
@[simp] theorem setG_stuck (s : State) (g : GKey) (v : Group) : (setG s g v).stuck = s.stuck := rfl
@[simp] theorem setG_agenda (s : State) (g : GKey) (v : Group) : (setG s g v).agenda = s.agenda := rfl
@[simp] theorem setG_stalled (s : State) (g : GKey) (v : Group) : (setG s g v).stalled = s.stalled := rfl

@[simp] theorem setB_dmem (s : State) (b : BTag) (v : Batch) : (setB s b v).dmem = s.dmem := rfl
@[simp] theorem setB_hmem (s : State) (b : BTag) (v : Batch) : (setB s b v).hmem = s.hmem := rfl
@[simp] theorem setB_sram (s : State) (b : BTag) (v : Batch) : (setB s b v).sram = s.sram := rfl
@[simp] theorem setB_spad (s : State) (b : BTag) (v : Batch) : (setB s b v).spad = s.spad := rfl
@[simp] theorem setB_emptyLine (s : State) (b : BTag) (v : Batch) : (setB s b v).emptyLine = s.emptyLine := rfl
@[simp] theorem setB_groups (s : State) (b : BTag) (v : Batch) : (setB s b v).groups = s.groups := rfl
@[simp] theorem setB_batches (s : State) (b : BTag) (v : Batch) : (setB s b v).batches = sset noBatch s.batches b v := rfl
@[simp] theorem setB_teams (s : State) (b : BTag) (v : Batch) : (setB s b v).teams = s.teams := rfl
@[simp] theorem setB_flight (s : State) (b : BTag) (v : Batch) : (setB s b v).flight = s.flight := rfl
@[simp] theorem setB_stale (s : State) (b : BTag) (v : Batch) : (setB s b v).stale = s.stale := rfl
@[simp] theorem setB_tlb (s : State) (b : BTag) (v : Batch) : (setB s b v).tlb = s.tlb := rfl
@[simp] theorem setB_walks (s : State) (b : BTag) (v : Batch) : (setB s b v).walks = s.walks := rfl
@[simp] theorem setB_code (s : State) (b : BTag) (v : Batch) : (setB s b v).code = s.code := rfl
@[simp] theorem setB_ctxs (s : State) (b : BTag) (v : Batch) : (setB s b v).ctxs = s.ctxs := rfl
@[simp] theorem setB_queues (s : State) (b : BTag) (v : Batch) : (setB s b v).queues = s.queues := rfl
@[simp] theorem setB_formed (s : State) (b : BTag) (v : Batch) : (setB s b v).formed = s.formed := rfl
@[simp] theorem setB_dispatches (s : State) (b : BTag) (v : Batch) : (setB s b v).dispatches = s.dispatches := rfl
@[simp] theorem setB_faults (s : State) (b : BTag) (v : Batch) : (setB s b v).faults = s.faults := rfl
@[simp] theorem setB_sigs (s : State) (b : BTag) (v : Batch) : (setB s b v).sigs = s.sigs := rfl
@[simp] theorem setB_fwks (s : State) (b : BTag) (v : Batch) : (setB s b v).fwks = s.fwks := rfl
@[simp] theorem setB_emits (s : State) (b : BTag) (v : Batch) : (setB s b v).emits = s.emits := rfl
@[simp] theorem setB_tickets (s : State) (b : BTag) (v : Batch) : (setB s b v).tickets = s.tickets := rfl
@[simp] theorem setB_saved (s : State) (b : BTag) (v : Batch) : (setB s b v).saved = s.saved := rfl
@[simp] theorem setB_jobs (s : State) (b : BTag) (v : Batch) : (setB s b v).jobs = s.jobs := rfl
@[simp] theorem setB_floes (s : State) (b : BTag) (v : Batch) : (setB s b v).floes = s.floes := rfl
@[simp] theorem setB_pubWaits (s : State) (b : BTag) (v : Batch) : (setB s b v).pubWaits = s.pubWaits := rfl
@[simp] theorem setB_bars (s : State) (b : BTag) (v : Batch) : (setB s b v).bars = s.bars := rfl
@[simp] theorem setB_regs (s : State) (b : BTag) (v : Batch) : (setB s b v).regs = s.regs := rfl
@[simp] theorem setB_mg (s : State) (b : BTag) (v : Batch) : (setB s b v).mg = s.mg := rfl
@[simp] theorem setB_debugs (s : State) (b : BTag) (v : Batch) : (setB s b v).debugs = s.debugs := rfl
@[simp] theorem setB_sctl (s : State) (b : BTag) (v : Batch) : (setB s b v).sctl = s.sctl := rfl
@[simp] theorem setB_memCount (s : State) (b : BTag) (v : Batch) : (setB s b v).memCount = s.memCount := rfl
@[simp] theorem setB_cursor (s : State) (b : BTag) (v : Batch) : (setB s b v).cursor = s.cursor := rfl
@[simp] theorem setB_samples (s : State) (b : BTag) (v : Batch) : (setB s b v).samples = s.samples := rfl
@[simp] theorem setB_slotLast (s : State) (b : BTag) (v : Batch) : (setB s b v).slotLast = s.slotLast := rfl
@[simp] theorem setB_tsSeq (s : State) (b : BTag) (v : Batch) : (setB s b v).tsSeq = s.tsSeq := rfl
@[simp] theorem setB_banks (s : State) (b : BTag) (v : Batch) : (setB s b v).banks = s.banks := rfl
@[simp] theorem setB_cached (s : State) (b : BTag) (v : Batch) : (setB s b v).cached = s.cached := rfl
@[simp] theorem setB_actCount (s : State) (b : BTag) (v : Batch) : (setB s b v).actCount = s.actCount := rfl
@[simp] theorem setB_actCfg (s : State) (b : BTag) (v : Batch) : (setB s b v).actCfg = s.actCfg := rfl
@[simp] theorem setB_poison (s : State) (b : BTag) (v : Batch) : (setB s b v).poison = s.poison := rfl
@[simp] theorem setB_ckpts (s : State) (b : BTag) (v : Batch) : (setB s b v).ckpts = s.ckpts := rfl
@[simp] theorem setB_safe (s : State) (b : BTag) (v : Batch) : (setB s b v).safe = s.safe := rfl
@[simp] theorem setB_reports (s : State) (b : BTag) (v : Batch) : (setB s b v).reports = s.reports := rfl
@[simp] theorem setB_msix (s : State) (b : BTag) (v : Batch) : (setB s b v).msix = s.msix := rfl
@[simp] theorem setB_pubs (s : State) (b : BTag) (v : Batch) : (setB s b v).pubs = s.pubs := rfl
@[simp] theorem setB_inval (s : State) (b : BTag) (v : Batch) : (setB s b v).inval = s.inval := rfl
@[simp] theorem setB_dropped (s : State) (b : BTag) (v : Batch) : (setB s b v).dropped = s.dropped := rfl
@[simp] theorem setB_clock (s : State) (b : BTag) (v : Batch) : (setB s b v).clock = s.clock := rfl
@[simp] theorem setB_time (s : State) (b : BTag) (v : Batch) : (setB s b v).time = s.time := rfl
@[simp] theorem setB_serial (s : State) (b : BTag) (v : Batch) : (setB s b v).serial = s.serial := rfl
@[simp] theorem setB_corr (s : State) (b : BTag) (v : Batch) : (setB s b v).corr = s.corr := rfl
@[simp] theorem setB_parse (s : State) (b : BTag) (v : Batch) : (setB s b v).parse = s.parse := rfl
@[simp] theorem setB_parseNo (s : State) (b : BTag) (v : Batch) : (setB s b v).parseNo = s.parseNo := rfl
@[simp] theorem setB_free (s : State) (b : BTag) (v : Batch) : (setB s b v).free = s.free := rfl
@[simp] theorem setB_cur (s : State) (b : BTag) (v : Batch) : (setB s b v).cur = s.cur := rfl
@[simp] theorem setB_rr (s : State) (b : BTag) (v : Batch) : (setB s b v).rr = s.rr := rfl
@[simp] theorem setB_stuck (s : State) (b : BTag) (v : Batch) : (setB s b v).stuck = s.stuck := rfl
@[simp] theorem setB_agenda (s : State) (b : BTag) (v : Batch) : (setB s b v).agenda = s.agenda := rfl
@[simp] theorem setB_stalled (s : State) (b : BTag) (v : Batch) : (setB s b v).stalled = s.stalled := rfl

@[simp] theorem setT_dmem (s : State) (t : Nat) (v : Team) : (setT s t v).dmem = s.dmem := rfl
@[simp] theorem setT_hmem (s : State) (t : Nat) (v : Team) : (setT s t v).hmem = s.hmem := rfl
@[simp] theorem setT_sram (s : State) (t : Nat) (v : Team) : (setT s t v).sram = s.sram := rfl
@[simp] theorem setT_spad (s : State) (t : Nat) (v : Team) : (setT s t v).spad = s.spad := rfl
@[simp] theorem setT_emptyLine (s : State) (t : Nat) (v : Team) : (setT s t v).emptyLine = s.emptyLine := rfl
@[simp] theorem setT_groups (s : State) (t : Nat) (v : Team) : (setT s t v).groups = s.groups := rfl
@[simp] theorem setT_batches (s : State) (t : Nat) (v : Team) : (setT s t v).batches = s.batches := rfl
@[simp] theorem setT_teams (s : State) (t : Nat) (v : Team) : (setT s t v).teams = sset noTeam s.teams t v := rfl
@[simp] theorem setT_flight (s : State) (t : Nat) (v : Team) : (setT s t v).flight = s.flight := rfl
@[simp] theorem setT_stale (s : State) (t : Nat) (v : Team) : (setT s t v).stale = s.stale := rfl
@[simp] theorem setT_tlb (s : State) (t : Nat) (v : Team) : (setT s t v).tlb = s.tlb := rfl
@[simp] theorem setT_walks (s : State) (t : Nat) (v : Team) : (setT s t v).walks = s.walks := rfl
@[simp] theorem setT_code (s : State) (t : Nat) (v : Team) : (setT s t v).code = s.code := rfl
@[simp] theorem setT_ctxs (s : State) (t : Nat) (v : Team) : (setT s t v).ctxs = s.ctxs := rfl
@[simp] theorem setT_queues (s : State) (t : Nat) (v : Team) : (setT s t v).queues = s.queues := rfl
@[simp] theorem setT_formed (s : State) (t : Nat) (v : Team) : (setT s t v).formed = s.formed := rfl
@[simp] theorem setT_dispatches (s : State) (t : Nat) (v : Team) : (setT s t v).dispatches = s.dispatches := rfl
@[simp] theorem setT_faults (s : State) (t : Nat) (v : Team) : (setT s t v).faults = s.faults := rfl
@[simp] theorem setT_sigs (s : State) (t : Nat) (v : Team) : (setT s t v).sigs = s.sigs := rfl
@[simp] theorem setT_fwks (s : State) (t : Nat) (v : Team) : (setT s t v).fwks = s.fwks := rfl
@[simp] theorem setT_emits (s : State) (t : Nat) (v : Team) : (setT s t v).emits = s.emits := rfl
@[simp] theorem setT_tickets (s : State) (t : Nat) (v : Team) : (setT s t v).tickets = s.tickets := rfl
@[simp] theorem setT_saved (s : State) (t : Nat) (v : Team) : (setT s t v).saved = s.saved := rfl
@[simp] theorem setT_jobs (s : State) (t : Nat) (v : Team) : (setT s t v).jobs = s.jobs := rfl
@[simp] theorem setT_floes (s : State) (t : Nat) (v : Team) : (setT s t v).floes = s.floes := rfl
@[simp] theorem setT_pubWaits (s : State) (t : Nat) (v : Team) : (setT s t v).pubWaits = s.pubWaits := rfl
@[simp] theorem setT_bars (s : State) (t : Nat) (v : Team) : (setT s t v).bars = s.bars := rfl
@[simp] theorem setT_regs (s : State) (t : Nat) (v : Team) : (setT s t v).regs = s.regs := rfl
@[simp] theorem setT_mg (s : State) (t : Nat) (v : Team) : (setT s t v).mg = s.mg := rfl
@[simp] theorem setT_debugs (s : State) (t : Nat) (v : Team) : (setT s t v).debugs = s.debugs := rfl
@[simp] theorem setT_sctl (s : State) (t : Nat) (v : Team) : (setT s t v).sctl = s.sctl := rfl
@[simp] theorem setT_memCount (s : State) (t : Nat) (v : Team) : (setT s t v).memCount = s.memCount := rfl
@[simp] theorem setT_cursor (s : State) (t : Nat) (v : Team) : (setT s t v).cursor = s.cursor := rfl
@[simp] theorem setT_samples (s : State) (t : Nat) (v : Team) : (setT s t v).samples = s.samples := rfl
@[simp] theorem setT_slotLast (s : State) (t : Nat) (v : Team) : (setT s t v).slotLast = s.slotLast := rfl
@[simp] theorem setT_tsSeq (s : State) (t : Nat) (v : Team) : (setT s t v).tsSeq = s.tsSeq := rfl
@[simp] theorem setT_banks (s : State) (t : Nat) (v : Team) : (setT s t v).banks = s.banks := rfl
@[simp] theorem setT_cached (s : State) (t : Nat) (v : Team) : (setT s t v).cached = s.cached := rfl
@[simp] theorem setT_actCount (s : State) (t : Nat) (v : Team) : (setT s t v).actCount = s.actCount := rfl
@[simp] theorem setT_actCfg (s : State) (t : Nat) (v : Team) : (setT s t v).actCfg = s.actCfg := rfl
@[simp] theorem setT_poison (s : State) (t : Nat) (v : Team) : (setT s t v).poison = s.poison := rfl
@[simp] theorem setT_ckpts (s : State) (t : Nat) (v : Team) : (setT s t v).ckpts = s.ckpts := rfl
@[simp] theorem setT_safe (s : State) (t : Nat) (v : Team) : (setT s t v).safe = s.safe := rfl
@[simp] theorem setT_reports (s : State) (t : Nat) (v : Team) : (setT s t v).reports = s.reports := rfl
@[simp] theorem setT_msix (s : State) (t : Nat) (v : Team) : (setT s t v).msix = s.msix := rfl
@[simp] theorem setT_pubs (s : State) (t : Nat) (v : Team) : (setT s t v).pubs = s.pubs := rfl
@[simp] theorem setT_inval (s : State) (t : Nat) (v : Team) : (setT s t v).inval = s.inval := rfl
@[simp] theorem setT_dropped (s : State) (t : Nat) (v : Team) : (setT s t v).dropped = s.dropped := rfl
@[simp] theorem setT_clock (s : State) (t : Nat) (v : Team) : (setT s t v).clock = s.clock := rfl
@[simp] theorem setT_time (s : State) (t : Nat) (v : Team) : (setT s t v).time = s.time := rfl
@[simp] theorem setT_serial (s : State) (t : Nat) (v : Team) : (setT s t v).serial = s.serial := rfl
@[simp] theorem setT_corr (s : State) (t : Nat) (v : Team) : (setT s t v).corr = s.corr := rfl
@[simp] theorem setT_parse (s : State) (t : Nat) (v : Team) : (setT s t v).parse = s.parse := rfl
@[simp] theorem setT_parseNo (s : State) (t : Nat) (v : Team) : (setT s t v).parseNo = s.parseNo := rfl
@[simp] theorem setT_free (s : State) (t : Nat) (v : Team) : (setT s t v).free = s.free := rfl
@[simp] theorem setT_cur (s : State) (t : Nat) (v : Team) : (setT s t v).cur = s.cur := rfl
@[simp] theorem setT_rr (s : State) (t : Nat) (v : Team) : (setT s t v).rr = s.rr := rfl
@[simp] theorem setT_stuck (s : State) (t : Nat) (v : Team) : (setT s t v).stuck = s.stuck := rfl
@[simp] theorem setT_agenda (s : State) (t : Nat) (v : Team) : (setT s t v).agenda = s.agenda := rfl
@[simp] theorem setT_stalled (s : State) (t : Nat) (v : Team) : (setT s t v).stalled = s.stalled := rfl

@[simp] theorem setC_dmem (s : State) (c : Nat) (v : Ctx) : (setC s c v).dmem = s.dmem := rfl
@[simp] theorem setC_hmem (s : State) (c : Nat) (v : Ctx) : (setC s c v).hmem = s.hmem := rfl
@[simp] theorem setC_sram (s : State) (c : Nat) (v : Ctx) : (setC s c v).sram = s.sram := rfl
@[simp] theorem setC_spad (s : State) (c : Nat) (v : Ctx) : (setC s c v).spad = s.spad := rfl
@[simp] theorem setC_emptyLine (s : State) (c : Nat) (v : Ctx) : (setC s c v).emptyLine = s.emptyLine := rfl
@[simp] theorem setC_groups (s : State) (c : Nat) (v : Ctx) : (setC s c v).groups = s.groups := rfl
@[simp] theorem setC_batches (s : State) (c : Nat) (v : Ctx) : (setC s c v).batches = s.batches := rfl
@[simp] theorem setC_teams (s : State) (c : Nat) (v : Ctx) : (setC s c v).teams = s.teams := rfl
@[simp] theorem setC_flight (s : State) (c : Nat) (v : Ctx) : (setC s c v).flight = s.flight := rfl
@[simp] theorem setC_stale (s : State) (c : Nat) (v : Ctx) : (setC s c v).stale = s.stale := rfl
@[simp] theorem setC_tlb (s : State) (c : Nat) (v : Ctx) : (setC s c v).tlb = s.tlb := rfl
@[simp] theorem setC_walks (s : State) (c : Nat) (v : Ctx) : (setC s c v).walks = s.walks := rfl
@[simp] theorem setC_code (s : State) (c : Nat) (v : Ctx) : (setC s c v).code = s.code := rfl
@[simp] theorem setC_ctxs (s : State) (c : Nat) (v : Ctx) : (setC s c v).ctxs = sset noCtx s.ctxs c v := rfl
@[simp] theorem setC_queues (s : State) (c : Nat) (v : Ctx) : (setC s c v).queues = s.queues := rfl
@[simp] theorem setC_formed (s : State) (c : Nat) (v : Ctx) : (setC s c v).formed = s.formed := rfl
@[simp] theorem setC_dispatches (s : State) (c : Nat) (v : Ctx) : (setC s c v).dispatches = s.dispatches := rfl
@[simp] theorem setC_faults (s : State) (c : Nat) (v : Ctx) : (setC s c v).faults = s.faults := rfl
@[simp] theorem setC_sigs (s : State) (c : Nat) (v : Ctx) : (setC s c v).sigs = s.sigs := rfl
@[simp] theorem setC_fwks (s : State) (c : Nat) (v : Ctx) : (setC s c v).fwks = s.fwks := rfl
@[simp] theorem setC_emits (s : State) (c : Nat) (v : Ctx) : (setC s c v).emits = s.emits := rfl
@[simp] theorem setC_tickets (s : State) (c : Nat) (v : Ctx) : (setC s c v).tickets = s.tickets := rfl
@[simp] theorem setC_saved (s : State) (c : Nat) (v : Ctx) : (setC s c v).saved = s.saved := rfl
@[simp] theorem setC_jobs (s : State) (c : Nat) (v : Ctx) : (setC s c v).jobs = s.jobs := rfl
@[simp] theorem setC_floes (s : State) (c : Nat) (v : Ctx) : (setC s c v).floes = s.floes := rfl
@[simp] theorem setC_pubWaits (s : State) (c : Nat) (v : Ctx) : (setC s c v).pubWaits = s.pubWaits := rfl
@[simp] theorem setC_bars (s : State) (c : Nat) (v : Ctx) : (setC s c v).bars = s.bars := rfl
@[simp] theorem setC_regs (s : State) (c : Nat) (v : Ctx) : (setC s c v).regs = s.regs := rfl
@[simp] theorem setC_mg (s : State) (c : Nat) (v : Ctx) : (setC s c v).mg = s.mg := rfl
@[simp] theorem setC_debugs (s : State) (c : Nat) (v : Ctx) : (setC s c v).debugs = s.debugs := rfl
@[simp] theorem setC_sctl (s : State) (c : Nat) (v : Ctx) : (setC s c v).sctl = s.sctl := rfl
@[simp] theorem setC_memCount (s : State) (c : Nat) (v : Ctx) : (setC s c v).memCount = s.memCount := rfl
@[simp] theorem setC_cursor (s : State) (c : Nat) (v : Ctx) : (setC s c v).cursor = s.cursor := rfl
@[simp] theorem setC_samples (s : State) (c : Nat) (v : Ctx) : (setC s c v).samples = s.samples := rfl
@[simp] theorem setC_slotLast (s : State) (c : Nat) (v : Ctx) : (setC s c v).slotLast = s.slotLast := rfl
@[simp] theorem setC_tsSeq (s : State) (c : Nat) (v : Ctx) : (setC s c v).tsSeq = s.tsSeq := rfl
@[simp] theorem setC_banks (s : State) (c : Nat) (v : Ctx) : (setC s c v).banks = s.banks := rfl
@[simp] theorem setC_cached (s : State) (c : Nat) (v : Ctx) : (setC s c v).cached = s.cached := rfl
@[simp] theorem setC_actCount (s : State) (c : Nat) (v : Ctx) : (setC s c v).actCount = s.actCount := rfl
@[simp] theorem setC_actCfg (s : State) (c : Nat) (v : Ctx) : (setC s c v).actCfg = s.actCfg := rfl
@[simp] theorem setC_poison (s : State) (c : Nat) (v : Ctx) : (setC s c v).poison = s.poison := rfl
@[simp] theorem setC_ckpts (s : State) (c : Nat) (v : Ctx) : (setC s c v).ckpts = s.ckpts := rfl
@[simp] theorem setC_safe (s : State) (c : Nat) (v : Ctx) : (setC s c v).safe = s.safe := rfl
@[simp] theorem setC_reports (s : State) (c : Nat) (v : Ctx) : (setC s c v).reports = s.reports := rfl
@[simp] theorem setC_msix (s : State) (c : Nat) (v : Ctx) : (setC s c v).msix = s.msix := rfl
@[simp] theorem setC_pubs (s : State) (c : Nat) (v : Ctx) : (setC s c v).pubs = s.pubs := rfl
@[simp] theorem setC_inval (s : State) (c : Nat) (v : Ctx) : (setC s c v).inval = s.inval := rfl
@[simp] theorem setC_dropped (s : State) (c : Nat) (v : Ctx) : (setC s c v).dropped = s.dropped := rfl
@[simp] theorem setC_clock (s : State) (c : Nat) (v : Ctx) : (setC s c v).clock = s.clock := rfl
@[simp] theorem setC_time (s : State) (c : Nat) (v : Ctx) : (setC s c v).time = s.time := rfl
@[simp] theorem setC_serial (s : State) (c : Nat) (v : Ctx) : (setC s c v).serial = s.serial := rfl
@[simp] theorem setC_corr (s : State) (c : Nat) (v : Ctx) : (setC s c v).corr = s.corr := rfl
@[simp] theorem setC_parse (s : State) (c : Nat) (v : Ctx) : (setC s c v).parse = s.parse := rfl
@[simp] theorem setC_parseNo (s : State) (c : Nat) (v : Ctx) : (setC s c v).parseNo = s.parseNo := rfl
@[simp] theorem setC_free (s : State) (c : Nat) (v : Ctx) : (setC s c v).free = s.free := rfl
@[simp] theorem setC_cur (s : State) (c : Nat) (v : Ctx) : (setC s c v).cur = s.cur := rfl
@[simp] theorem setC_rr (s : State) (c : Nat) (v : Ctx) : (setC s c v).rr = s.rr := rfl
@[simp] theorem setC_stuck (s : State) (c : Nat) (v : Ctx) : (setC s c v).stuck = s.stuck := rfl
@[simp] theorem setC_agenda (s : State) (c : Nat) (v : Ctx) : (setC s c v).agenda = s.agenda := rfl
@[simp] theorem setC_stalled (s : State) (c : Nat) (v : Ctx) : (setC s c v).stalled = s.stalled := rfl

@[simp] theorem updD_dmem (s : State) (c : Nat) (f : Debug → Debug) : (updD s c f).dmem = s.dmem := rfl
@[simp] theorem updD_hmem (s : State) (c : Nat) (f : Debug → Debug) : (updD s c f).hmem = s.hmem := rfl
@[simp] theorem updD_sram (s : State) (c : Nat) (f : Debug → Debug) : (updD s c f).sram = s.sram := rfl
@[simp] theorem updD_spad (s : State) (c : Nat) (f : Debug → Debug) : (updD s c f).spad = s.spad := rfl
@[simp] theorem updD_emptyLine (s : State) (c : Nat) (f : Debug → Debug) : (updD s c f).emptyLine = s.emptyLine := rfl
@[simp] theorem updD_groups (s : State) (c : Nat) (f : Debug → Debug) : (updD s c f).groups = s.groups := rfl
@[simp] theorem updD_batches (s : State) (c : Nat) (f : Debug → Debug) : (updD s c f).batches = s.batches := rfl
@[simp] theorem updD_teams (s : State) (c : Nat) (f : Debug → Debug) : (updD s c f).teams = s.teams := rfl
@[simp] theorem updD_flight (s : State) (c : Nat) (f : Debug → Debug) : (updD s c f).flight = s.flight := rfl
@[simp] theorem updD_stale (s : State) (c : Nat) (f : Debug → Debug) : (updD s c f).stale = s.stale := rfl
@[simp] theorem updD_tlb (s : State) (c : Nat) (f : Debug → Debug) : (updD s c f).tlb = s.tlb := rfl
@[simp] theorem updD_walks (s : State) (c : Nat) (f : Debug → Debug) : (updD s c f).walks = s.walks := rfl
@[simp] theorem updD_code (s : State) (c : Nat) (f : Debug → Debug) : (updD s c f).code = s.code := rfl
@[simp] theorem updD_ctxs (s : State) (c : Nat) (f : Debug → Debug) : (updD s c f).ctxs = s.ctxs := rfl
@[simp] theorem updD_queues (s : State) (c : Nat) (f : Debug → Debug) : (updD s c f).queues = s.queues := rfl
@[simp] theorem updD_formed (s : State) (c : Nat) (f : Debug → Debug) : (updD s c f).formed = s.formed := rfl
@[simp] theorem updD_dispatches (s : State) (c : Nat) (f : Debug → Debug) : (updD s c f).dispatches = s.dispatches := rfl
@[simp] theorem updD_faults (s : State) (c : Nat) (f : Debug → Debug) : (updD s c f).faults = s.faults := rfl
@[simp] theorem updD_sigs (s : State) (c : Nat) (f : Debug → Debug) : (updD s c f).sigs = s.sigs := rfl
@[simp] theorem updD_fwks (s : State) (c : Nat) (f : Debug → Debug) : (updD s c f).fwks = s.fwks := rfl
@[simp] theorem updD_emits (s : State) (c : Nat) (f : Debug → Debug) : (updD s c f).emits = s.emits := rfl
@[simp] theorem updD_tickets (s : State) (c : Nat) (f : Debug → Debug) : (updD s c f).tickets = s.tickets := rfl
@[simp] theorem updD_saved (s : State) (c : Nat) (f : Debug → Debug) : (updD s c f).saved = s.saved := rfl
@[simp] theorem updD_jobs (s : State) (c : Nat) (f : Debug → Debug) : (updD s c f).jobs = s.jobs := rfl
@[simp] theorem updD_floes (s : State) (c : Nat) (f : Debug → Debug) : (updD s c f).floes = s.floes := rfl
@[simp] theorem updD_pubWaits (s : State) (c : Nat) (f : Debug → Debug) : (updD s c f).pubWaits = s.pubWaits := rfl
@[simp] theorem updD_bars (s : State) (c : Nat) (f : Debug → Debug) : (updD s c f).bars = s.bars := rfl
@[simp] theorem updD_regs (s : State) (c : Nat) (f : Debug → Debug) : (updD s c f).regs = s.regs := rfl
@[simp] theorem updD_mg (s : State) (c : Nat) (f : Debug → Debug) : (updD s c f).mg = s.mg := rfl
@[simp] theorem updD_debugs (s : State) (c : Nat) (f : Debug → Debug) : (updD s c f).debugs = supd noDebug s.debugs c f := rfl
@[simp] theorem updD_sctl (s : State) (c : Nat) (f : Debug → Debug) : (updD s c f).sctl = s.sctl := rfl
@[simp] theorem updD_memCount (s : State) (c : Nat) (f : Debug → Debug) : (updD s c f).memCount = s.memCount := rfl
@[simp] theorem updD_cursor (s : State) (c : Nat) (f : Debug → Debug) : (updD s c f).cursor = s.cursor := rfl
@[simp] theorem updD_samples (s : State) (c : Nat) (f : Debug → Debug) : (updD s c f).samples = s.samples := rfl
@[simp] theorem updD_slotLast (s : State) (c : Nat) (f : Debug → Debug) : (updD s c f).slotLast = s.slotLast := rfl
@[simp] theorem updD_tsSeq (s : State) (c : Nat) (f : Debug → Debug) : (updD s c f).tsSeq = s.tsSeq := rfl
@[simp] theorem updD_banks (s : State) (c : Nat) (f : Debug → Debug) : (updD s c f).banks = s.banks := rfl
@[simp] theorem updD_cached (s : State) (c : Nat) (f : Debug → Debug) : (updD s c f).cached = s.cached := rfl
@[simp] theorem updD_actCount (s : State) (c : Nat) (f : Debug → Debug) : (updD s c f).actCount = s.actCount := rfl
@[simp] theorem updD_actCfg (s : State) (c : Nat) (f : Debug → Debug) : (updD s c f).actCfg = s.actCfg := rfl
@[simp] theorem updD_poison (s : State) (c : Nat) (f : Debug → Debug) : (updD s c f).poison = s.poison := rfl
@[simp] theorem updD_ckpts (s : State) (c : Nat) (f : Debug → Debug) : (updD s c f).ckpts = s.ckpts := rfl
@[simp] theorem updD_safe (s : State) (c : Nat) (f : Debug → Debug) : (updD s c f).safe = s.safe := rfl
@[simp] theorem updD_reports (s : State) (c : Nat) (f : Debug → Debug) : (updD s c f).reports = s.reports := rfl
@[simp] theorem updD_msix (s : State) (c : Nat) (f : Debug → Debug) : (updD s c f).msix = s.msix := rfl
@[simp] theorem updD_pubs (s : State) (c : Nat) (f : Debug → Debug) : (updD s c f).pubs = s.pubs := rfl
@[simp] theorem updD_inval (s : State) (c : Nat) (f : Debug → Debug) : (updD s c f).inval = s.inval := rfl
@[simp] theorem updD_dropped (s : State) (c : Nat) (f : Debug → Debug) : (updD s c f).dropped = s.dropped := rfl
@[simp] theorem updD_clock (s : State) (c : Nat) (f : Debug → Debug) : (updD s c f).clock = s.clock := rfl
@[simp] theorem updD_time (s : State) (c : Nat) (f : Debug → Debug) : (updD s c f).time = s.time := rfl
@[simp] theorem updD_serial (s : State) (c : Nat) (f : Debug → Debug) : (updD s c f).serial = s.serial := rfl
@[simp] theorem updD_corr (s : State) (c : Nat) (f : Debug → Debug) : (updD s c f).corr = s.corr := rfl
@[simp] theorem updD_parse (s : State) (c : Nat) (f : Debug → Debug) : (updD s c f).parse = s.parse := rfl
@[simp] theorem updD_parseNo (s : State) (c : Nat) (f : Debug → Debug) : (updD s c f).parseNo = s.parseNo := rfl
@[simp] theorem updD_free (s : State) (c : Nat) (f : Debug → Debug) : (updD s c f).free = s.free := rfl
@[simp] theorem updD_cur (s : State) (c : Nat) (f : Debug → Debug) : (updD s c f).cur = s.cur := rfl
@[simp] theorem updD_rr (s : State) (c : Nat) (f : Debug → Debug) : (updD s c f).rr = s.rr := rfl
@[simp] theorem updD_stuck (s : State) (c : Nat) (f : Debug → Debug) : (updD s c f).stuck = s.stuck := rfl
@[simp] theorem updD_agenda (s : State) (c : Nat) (f : Debug → Debug) : (updD s c f).agenda = s.agenda := rfl
@[simp] theorem updD_stalled (s : State) (c : Nat) (f : Debug → Debug) : (updD s c f).stalled = s.stalled := rfl

@[simp] theorem setLine_dmem (s : State) (k : Nat) (b : Bool) : (setLine s k b).dmem = s.dmem := rfl
@[simp] theorem setLine_hmem (s : State) (k : Nat) (b : Bool) : (setLine s k b).hmem = s.hmem := rfl
@[simp] theorem setLine_sram (s : State) (k : Nat) (b : Bool) : (setLine s k b).sram = s.sram := rfl
@[simp] theorem setLine_spad (s : State) (k : Nat) (b : Bool) : (setLine s k b).spad = s.spad := rfl
@[simp] theorem setLine_emptyLine (s : State) (k : Nat) (b : Bool) : (setLine s k b).emptyLine = sset false s.emptyLine (k / 128) (!b) := rfl
@[simp] theorem setLine_groups (s : State) (k : Nat) (b : Bool) : (setLine s k b).groups = s.groups := rfl
@[simp] theorem setLine_batches (s : State) (k : Nat) (b : Bool) : (setLine s k b).batches = s.batches := rfl
@[simp] theorem setLine_teams (s : State) (k : Nat) (b : Bool) : (setLine s k b).teams = s.teams := rfl
@[simp] theorem setLine_flight (s : State) (k : Nat) (b : Bool) : (setLine s k b).flight = s.flight := rfl
@[simp] theorem setLine_stale (s : State) (k : Nat) (b : Bool) : (setLine s k b).stale = s.stale := rfl
@[simp] theorem setLine_tlb (s : State) (k : Nat) (b : Bool) : (setLine s k b).tlb = s.tlb := rfl
@[simp] theorem setLine_walks (s : State) (k : Nat) (b : Bool) : (setLine s k b).walks = s.walks := rfl
@[simp] theorem setLine_code (s : State) (k : Nat) (b : Bool) : (setLine s k b).code = s.code := rfl
@[simp] theorem setLine_ctxs (s : State) (k : Nat) (b : Bool) : (setLine s k b).ctxs = s.ctxs := rfl
@[simp] theorem setLine_queues (s : State) (k : Nat) (b : Bool) : (setLine s k b).queues = s.queues := rfl
@[simp] theorem setLine_formed (s : State) (k : Nat) (b : Bool) : (setLine s k b).formed = s.formed := rfl
@[simp] theorem setLine_dispatches (s : State) (k : Nat) (b : Bool) : (setLine s k b).dispatches = s.dispatches := rfl
@[simp] theorem setLine_faults (s : State) (k : Nat) (b : Bool) : (setLine s k b).faults = s.faults := rfl
@[simp] theorem setLine_sigs (s : State) (k : Nat) (b : Bool) : (setLine s k b).sigs = s.sigs := rfl
@[simp] theorem setLine_fwks (s : State) (k : Nat) (b : Bool) : (setLine s k b).fwks = s.fwks := rfl
@[simp] theorem setLine_emits (s : State) (k : Nat) (b : Bool) : (setLine s k b).emits = s.emits := rfl
@[simp] theorem setLine_tickets (s : State) (k : Nat) (b : Bool) : (setLine s k b).tickets = s.tickets := rfl
@[simp] theorem setLine_saved (s : State) (k : Nat) (b : Bool) : (setLine s k b).saved = s.saved := rfl
@[simp] theorem setLine_jobs (s : State) (k : Nat) (b : Bool) : (setLine s k b).jobs = s.jobs := rfl
@[simp] theorem setLine_floes (s : State) (k : Nat) (b : Bool) : (setLine s k b).floes = s.floes := rfl
@[simp] theorem setLine_pubWaits (s : State) (k : Nat) (b : Bool) : (setLine s k b).pubWaits = s.pubWaits := rfl
@[simp] theorem setLine_bars (s : State) (k : Nat) (b : Bool) : (setLine s k b).bars = s.bars := rfl
@[simp] theorem setLine_regs (s : State) (k : Nat) (b : Bool) : (setLine s k b).regs = s.regs := rfl
@[simp] theorem setLine_mg (s : State) (k : Nat) (b : Bool) : (setLine s k b).mg = s.mg := rfl
@[simp] theorem setLine_debugs (s : State) (k : Nat) (b : Bool) : (setLine s k b).debugs = s.debugs := rfl
@[simp] theorem setLine_sctl (s : State) (k : Nat) (b : Bool) : (setLine s k b).sctl = s.sctl := rfl
@[simp] theorem setLine_memCount (s : State) (k : Nat) (b : Bool) : (setLine s k b).memCount = s.memCount := rfl
@[simp] theorem setLine_cursor (s : State) (k : Nat) (b : Bool) : (setLine s k b).cursor = s.cursor := rfl
@[simp] theorem setLine_samples (s : State) (k : Nat) (b : Bool) : (setLine s k b).samples = s.samples := rfl
@[simp] theorem setLine_slotLast (s : State) (k : Nat) (b : Bool) : (setLine s k b).slotLast = s.slotLast := rfl
@[simp] theorem setLine_tsSeq (s : State) (k : Nat) (b : Bool) : (setLine s k b).tsSeq = s.tsSeq := rfl
@[simp] theorem setLine_banks (s : State) (k : Nat) (b : Bool) : (setLine s k b).banks = s.banks := rfl
@[simp] theorem setLine_cached (s : State) (k : Nat) (b : Bool) : (setLine s k b).cached = s.cached := rfl
@[simp] theorem setLine_actCount (s : State) (k : Nat) (b : Bool) : (setLine s k b).actCount = s.actCount := rfl
@[simp] theorem setLine_actCfg (s : State) (k : Nat) (b : Bool) : (setLine s k b).actCfg = s.actCfg := rfl
@[simp] theorem setLine_poison (s : State) (k : Nat) (b : Bool) : (setLine s k b).poison = s.poison := rfl
@[simp] theorem setLine_ckpts (s : State) (k : Nat) (b : Bool) : (setLine s k b).ckpts = s.ckpts := rfl
@[simp] theorem setLine_safe (s : State) (k : Nat) (b : Bool) : (setLine s k b).safe = s.safe := rfl
@[simp] theorem setLine_reports (s : State) (k : Nat) (b : Bool) : (setLine s k b).reports = s.reports := rfl
@[simp] theorem setLine_msix (s : State) (k : Nat) (b : Bool) : (setLine s k b).msix = s.msix := rfl
@[simp] theorem setLine_pubs (s : State) (k : Nat) (b : Bool) : (setLine s k b).pubs = s.pubs := rfl
@[simp] theorem setLine_inval (s : State) (k : Nat) (b : Bool) : (setLine s k b).inval = s.inval := rfl
@[simp] theorem setLine_dropped (s : State) (k : Nat) (b : Bool) : (setLine s k b).dropped = s.dropped := rfl
@[simp] theorem setLine_clock (s : State) (k : Nat) (b : Bool) : (setLine s k b).clock = s.clock := rfl
@[simp] theorem setLine_time (s : State) (k : Nat) (b : Bool) : (setLine s k b).time = s.time := rfl
@[simp] theorem setLine_serial (s : State) (k : Nat) (b : Bool) : (setLine s k b).serial = s.serial := rfl
@[simp] theorem setLine_corr (s : State) (k : Nat) (b : Bool) : (setLine s k b).corr = s.corr := rfl
@[simp] theorem setLine_parse (s : State) (k : Nat) (b : Bool) : (setLine s k b).parse = s.parse := rfl
@[simp] theorem setLine_parseNo (s : State) (k : Nat) (b : Bool) : (setLine s k b).parseNo = s.parseNo := rfl
@[simp] theorem setLine_free (s : State) (k : Nat) (b : Bool) : (setLine s k b).free = s.free := rfl
@[simp] theorem setLine_cur (s : State) (k : Nat) (b : Bool) : (setLine s k b).cur = s.cur := rfl
@[simp] theorem setLine_rr (s : State) (k : Nat) (b : Bool) : (setLine s k b).rr = s.rr := rfl
@[simp] theorem setLine_stuck (s : State) (k : Nat) (b : Bool) : (setLine s k b).stuck = s.stuck := rfl
@[simp] theorem setLine_agenda (s : State) (k : Nat) (b : Bool) : (setLine s k b).agenda = s.agenda := rfl
@[simp] theorem setLine_stalled (s : State) (k : Nat) (b : Bool) : (setLine s k b).stalled = s.stalled := rfl

@[simp] theorem updG_dmem (s : State) (g : GKey) (f : Group → Group) : (updG s g f).dmem = s.dmem := rfl
@[simp] theorem updG_hmem (s : State) (g : GKey) (f : Group → Group) : (updG s g f).hmem = s.hmem := rfl
@[simp] theorem updG_sram (s : State) (g : GKey) (f : Group → Group) : (updG s g f).sram = s.sram := rfl
@[simp] theorem updG_spad (s : State) (g : GKey) (f : Group → Group) : (updG s g f).spad = s.spad := rfl
@[simp] theorem updG_emptyLine (s : State) (g : GKey) (f : Group → Group) : (updG s g f).emptyLine = s.emptyLine := rfl
@[simp] theorem updG_groups (s : State) (g : GKey) (f : Group → Group) : (updG s g f).groups = sset noGroup s.groups g (f (getG s g)) := rfl
@[simp] theorem updG_batches (s : State) (g : GKey) (f : Group → Group) : (updG s g f).batches = s.batches := rfl
@[simp] theorem updG_teams (s : State) (g : GKey) (f : Group → Group) : (updG s g f).teams = s.teams := rfl
@[simp] theorem updG_flight (s : State) (g : GKey) (f : Group → Group) : (updG s g f).flight = s.flight := rfl
@[simp] theorem updG_stale (s : State) (g : GKey) (f : Group → Group) : (updG s g f).stale = s.stale := rfl
@[simp] theorem updG_tlb (s : State) (g : GKey) (f : Group → Group) : (updG s g f).tlb = s.tlb := rfl
@[simp] theorem updG_walks (s : State) (g : GKey) (f : Group → Group) : (updG s g f).walks = s.walks := rfl
@[simp] theorem updG_code (s : State) (g : GKey) (f : Group → Group) : (updG s g f).code = s.code := rfl
@[simp] theorem updG_ctxs (s : State) (g : GKey) (f : Group → Group) : (updG s g f).ctxs = s.ctxs := rfl
@[simp] theorem updG_queues (s : State) (g : GKey) (f : Group → Group) : (updG s g f).queues = s.queues := rfl
@[simp] theorem updG_formed (s : State) (g : GKey) (f : Group → Group) : (updG s g f).formed = s.formed := rfl
@[simp] theorem updG_dispatches (s : State) (g : GKey) (f : Group → Group) : (updG s g f).dispatches = s.dispatches := rfl
@[simp] theorem updG_faults (s : State) (g : GKey) (f : Group → Group) : (updG s g f).faults = s.faults := rfl
@[simp] theorem updG_sigs (s : State) (g : GKey) (f : Group → Group) : (updG s g f).sigs = s.sigs := rfl
@[simp] theorem updG_fwks (s : State) (g : GKey) (f : Group → Group) : (updG s g f).fwks = s.fwks := rfl
@[simp] theorem updG_emits (s : State) (g : GKey) (f : Group → Group) : (updG s g f).emits = s.emits := rfl
@[simp] theorem updG_tickets (s : State) (g : GKey) (f : Group → Group) : (updG s g f).tickets = s.tickets := rfl
@[simp] theorem updG_saved (s : State) (g : GKey) (f : Group → Group) : (updG s g f).saved = s.saved := rfl
@[simp] theorem updG_jobs (s : State) (g : GKey) (f : Group → Group) : (updG s g f).jobs = s.jobs := rfl
@[simp] theorem updG_floes (s : State) (g : GKey) (f : Group → Group) : (updG s g f).floes = s.floes := rfl
@[simp] theorem updG_pubWaits (s : State) (g : GKey) (f : Group → Group) : (updG s g f).pubWaits = s.pubWaits := rfl
@[simp] theorem updG_bars (s : State) (g : GKey) (f : Group → Group) : (updG s g f).bars = s.bars := rfl
@[simp] theorem updG_regs (s : State) (g : GKey) (f : Group → Group) : (updG s g f).regs = s.regs := rfl
@[simp] theorem updG_mg (s : State) (g : GKey) (f : Group → Group) : (updG s g f).mg = s.mg := rfl
@[simp] theorem updG_debugs (s : State) (g : GKey) (f : Group → Group) : (updG s g f).debugs = s.debugs := rfl
@[simp] theorem updG_sctl (s : State) (g : GKey) (f : Group → Group) : (updG s g f).sctl = s.sctl := rfl
@[simp] theorem updG_memCount (s : State) (g : GKey) (f : Group → Group) : (updG s g f).memCount = s.memCount := rfl
@[simp] theorem updG_cursor (s : State) (g : GKey) (f : Group → Group) : (updG s g f).cursor = s.cursor := rfl
@[simp] theorem updG_samples (s : State) (g : GKey) (f : Group → Group) : (updG s g f).samples = s.samples := rfl
@[simp] theorem updG_slotLast (s : State) (g : GKey) (f : Group → Group) : (updG s g f).slotLast = s.slotLast := rfl
@[simp] theorem updG_tsSeq (s : State) (g : GKey) (f : Group → Group) : (updG s g f).tsSeq = s.tsSeq := rfl
@[simp] theorem updG_banks (s : State) (g : GKey) (f : Group → Group) : (updG s g f).banks = s.banks := rfl
@[simp] theorem updG_cached (s : State) (g : GKey) (f : Group → Group) : (updG s g f).cached = s.cached := rfl
@[simp] theorem updG_actCount (s : State) (g : GKey) (f : Group → Group) : (updG s g f).actCount = s.actCount := rfl
@[simp] theorem updG_actCfg (s : State) (g : GKey) (f : Group → Group) : (updG s g f).actCfg = s.actCfg := rfl
@[simp] theorem updG_poison (s : State) (g : GKey) (f : Group → Group) : (updG s g f).poison = s.poison := rfl
@[simp] theorem updG_ckpts (s : State) (g : GKey) (f : Group → Group) : (updG s g f).ckpts = s.ckpts := rfl
@[simp] theorem updG_safe (s : State) (g : GKey) (f : Group → Group) : (updG s g f).safe = s.safe := rfl
@[simp] theorem updG_reports (s : State) (g : GKey) (f : Group → Group) : (updG s g f).reports = s.reports := rfl
@[simp] theorem updG_msix (s : State) (g : GKey) (f : Group → Group) : (updG s g f).msix = s.msix := rfl
@[simp] theorem updG_pubs (s : State) (g : GKey) (f : Group → Group) : (updG s g f).pubs = s.pubs := rfl
@[simp] theorem updG_inval (s : State) (g : GKey) (f : Group → Group) : (updG s g f).inval = s.inval := rfl
@[simp] theorem updG_dropped (s : State) (g : GKey) (f : Group → Group) : (updG s g f).dropped = s.dropped := rfl
@[simp] theorem updG_clock (s : State) (g : GKey) (f : Group → Group) : (updG s g f).clock = s.clock := rfl
@[simp] theorem updG_time (s : State) (g : GKey) (f : Group → Group) : (updG s g f).time = s.time := rfl
@[simp] theorem updG_serial (s : State) (g : GKey) (f : Group → Group) : (updG s g f).serial = s.serial := rfl
@[simp] theorem updG_corr (s : State) (g : GKey) (f : Group → Group) : (updG s g f).corr = s.corr := rfl
@[simp] theorem updG_parse (s : State) (g : GKey) (f : Group → Group) : (updG s g f).parse = s.parse := rfl
@[simp] theorem updG_parseNo (s : State) (g : GKey) (f : Group → Group) : (updG s g f).parseNo = s.parseNo := rfl
@[simp] theorem updG_free (s : State) (g : GKey) (f : Group → Group) : (updG s g f).free = s.free := rfl
@[simp] theorem updG_cur (s : State) (g : GKey) (f : Group → Group) : (updG s g f).cur = s.cur := rfl
@[simp] theorem updG_rr (s : State) (g : GKey) (f : Group → Group) : (updG s g f).rr = s.rr := rfl
@[simp] theorem updG_stuck (s : State) (g : GKey) (f : Group → Group) : (updG s g f).stuck = s.stuck := rfl
@[simp] theorem updG_agenda (s : State) (g : GKey) (f : Group → Group) : (updG s g f).agenda = s.agenda := rfl
@[simp] theorem updG_stalled (s : State) (g : GKey) (f : Group → Group) : (updG s g f).stalled = s.stalled := rfl

@[simp] theorem updB_dmem (s : State) (b : BTag) (f : Batch → Batch) : (updB s b f).dmem = s.dmem := rfl
@[simp] theorem updB_hmem (s : State) (b : BTag) (f : Batch → Batch) : (updB s b f).hmem = s.hmem := rfl
@[simp] theorem updB_sram (s : State) (b : BTag) (f : Batch → Batch) : (updB s b f).sram = s.sram := rfl
@[simp] theorem updB_spad (s : State) (b : BTag) (f : Batch → Batch) : (updB s b f).spad = s.spad := rfl
@[simp] theorem updB_emptyLine (s : State) (b : BTag) (f : Batch → Batch) : (updB s b f).emptyLine = s.emptyLine := rfl
@[simp] theorem updB_groups (s : State) (b : BTag) (f : Batch → Batch) : (updB s b f).groups = s.groups := rfl
@[simp] theorem updB_batches (s : State) (b : BTag) (f : Batch → Batch) : (updB s b f).batches = sset noBatch s.batches b (f (getB s b)) := rfl
@[simp] theorem updB_teams (s : State) (b : BTag) (f : Batch → Batch) : (updB s b f).teams = s.teams := rfl
@[simp] theorem updB_flight (s : State) (b : BTag) (f : Batch → Batch) : (updB s b f).flight = s.flight := rfl
@[simp] theorem updB_stale (s : State) (b : BTag) (f : Batch → Batch) : (updB s b f).stale = s.stale := rfl
@[simp] theorem updB_tlb (s : State) (b : BTag) (f : Batch → Batch) : (updB s b f).tlb = s.tlb := rfl
@[simp] theorem updB_walks (s : State) (b : BTag) (f : Batch → Batch) : (updB s b f).walks = s.walks := rfl
@[simp] theorem updB_code (s : State) (b : BTag) (f : Batch → Batch) : (updB s b f).code = s.code := rfl
@[simp] theorem updB_ctxs (s : State) (b : BTag) (f : Batch → Batch) : (updB s b f).ctxs = s.ctxs := rfl
@[simp] theorem updB_queues (s : State) (b : BTag) (f : Batch → Batch) : (updB s b f).queues = s.queues := rfl
@[simp] theorem updB_formed (s : State) (b : BTag) (f : Batch → Batch) : (updB s b f).formed = s.formed := rfl
@[simp] theorem updB_dispatches (s : State) (b : BTag) (f : Batch → Batch) : (updB s b f).dispatches = s.dispatches := rfl
@[simp] theorem updB_faults (s : State) (b : BTag) (f : Batch → Batch) : (updB s b f).faults = s.faults := rfl
@[simp] theorem updB_sigs (s : State) (b : BTag) (f : Batch → Batch) : (updB s b f).sigs = s.sigs := rfl
@[simp] theorem updB_fwks (s : State) (b : BTag) (f : Batch → Batch) : (updB s b f).fwks = s.fwks := rfl
@[simp] theorem updB_emits (s : State) (b : BTag) (f : Batch → Batch) : (updB s b f).emits = s.emits := rfl
@[simp] theorem updB_tickets (s : State) (b : BTag) (f : Batch → Batch) : (updB s b f).tickets = s.tickets := rfl
@[simp] theorem updB_saved (s : State) (b : BTag) (f : Batch → Batch) : (updB s b f).saved = s.saved := rfl
@[simp] theorem updB_jobs (s : State) (b : BTag) (f : Batch → Batch) : (updB s b f).jobs = s.jobs := rfl
@[simp] theorem updB_floes (s : State) (b : BTag) (f : Batch → Batch) : (updB s b f).floes = s.floes := rfl
@[simp] theorem updB_pubWaits (s : State) (b : BTag) (f : Batch → Batch) : (updB s b f).pubWaits = s.pubWaits := rfl
@[simp] theorem updB_bars (s : State) (b : BTag) (f : Batch → Batch) : (updB s b f).bars = s.bars := rfl
@[simp] theorem updB_regs (s : State) (b : BTag) (f : Batch → Batch) : (updB s b f).regs = s.regs := rfl
@[simp] theorem updB_mg (s : State) (b : BTag) (f : Batch → Batch) : (updB s b f).mg = s.mg := rfl
@[simp] theorem updB_debugs (s : State) (b : BTag) (f : Batch → Batch) : (updB s b f).debugs = s.debugs := rfl
@[simp] theorem updB_sctl (s : State) (b : BTag) (f : Batch → Batch) : (updB s b f).sctl = s.sctl := rfl
@[simp] theorem updB_memCount (s : State) (b : BTag) (f : Batch → Batch) : (updB s b f).memCount = s.memCount := rfl
@[simp] theorem updB_cursor (s : State) (b : BTag) (f : Batch → Batch) : (updB s b f).cursor = s.cursor := rfl
@[simp] theorem updB_samples (s : State) (b : BTag) (f : Batch → Batch) : (updB s b f).samples = s.samples := rfl
@[simp] theorem updB_slotLast (s : State) (b : BTag) (f : Batch → Batch) : (updB s b f).slotLast = s.slotLast := rfl
@[simp] theorem updB_tsSeq (s : State) (b : BTag) (f : Batch → Batch) : (updB s b f).tsSeq = s.tsSeq := rfl
@[simp] theorem updB_banks (s : State) (b : BTag) (f : Batch → Batch) : (updB s b f).banks = s.banks := rfl
@[simp] theorem updB_cached (s : State) (b : BTag) (f : Batch → Batch) : (updB s b f).cached = s.cached := rfl
@[simp] theorem updB_actCount (s : State) (b : BTag) (f : Batch → Batch) : (updB s b f).actCount = s.actCount := rfl
@[simp] theorem updB_actCfg (s : State) (b : BTag) (f : Batch → Batch) : (updB s b f).actCfg = s.actCfg := rfl
@[simp] theorem updB_poison (s : State) (b : BTag) (f : Batch → Batch) : (updB s b f).poison = s.poison := rfl
@[simp] theorem updB_ckpts (s : State) (b : BTag) (f : Batch → Batch) : (updB s b f).ckpts = s.ckpts := rfl
@[simp] theorem updB_safe (s : State) (b : BTag) (f : Batch → Batch) : (updB s b f).safe = s.safe := rfl
@[simp] theorem updB_reports (s : State) (b : BTag) (f : Batch → Batch) : (updB s b f).reports = s.reports := rfl
@[simp] theorem updB_msix (s : State) (b : BTag) (f : Batch → Batch) : (updB s b f).msix = s.msix := rfl
@[simp] theorem updB_pubs (s : State) (b : BTag) (f : Batch → Batch) : (updB s b f).pubs = s.pubs := rfl
@[simp] theorem updB_inval (s : State) (b : BTag) (f : Batch → Batch) : (updB s b f).inval = s.inval := rfl
@[simp] theorem updB_dropped (s : State) (b : BTag) (f : Batch → Batch) : (updB s b f).dropped = s.dropped := rfl
@[simp] theorem updB_clock (s : State) (b : BTag) (f : Batch → Batch) : (updB s b f).clock = s.clock := rfl
@[simp] theorem updB_time (s : State) (b : BTag) (f : Batch → Batch) : (updB s b f).time = s.time := rfl
@[simp] theorem updB_serial (s : State) (b : BTag) (f : Batch → Batch) : (updB s b f).serial = s.serial := rfl
@[simp] theorem updB_corr (s : State) (b : BTag) (f : Batch → Batch) : (updB s b f).corr = s.corr := rfl
@[simp] theorem updB_parse (s : State) (b : BTag) (f : Batch → Batch) : (updB s b f).parse = s.parse := rfl
@[simp] theorem updB_parseNo (s : State) (b : BTag) (f : Batch → Batch) : (updB s b f).parseNo = s.parseNo := rfl
@[simp] theorem updB_free (s : State) (b : BTag) (f : Batch → Batch) : (updB s b f).free = s.free := rfl
@[simp] theorem updB_cur (s : State) (b : BTag) (f : Batch → Batch) : (updB s b f).cur = s.cur := rfl
@[simp] theorem updB_rr (s : State) (b : BTag) (f : Batch → Batch) : (updB s b f).rr = s.rr := rfl
@[simp] theorem updB_stuck (s : State) (b : BTag) (f : Batch → Batch) : (updB s b f).stuck = s.stuck := rfl
@[simp] theorem updB_agenda (s : State) (b : BTag) (f : Batch → Batch) : (updB s b f).agenda = s.agenda := rfl
@[simp] theorem updB_stalled (s : State) (b : BTag) (f : Batch → Batch) : (updB s b f).stalled = s.stalled := rfl

@[simp] theorem updC_dmem (s : State) (c : Nat) (f : Ctx → Ctx) : (updC s c f).dmem = s.dmem := rfl
@[simp] theorem updC_hmem (s : State) (c : Nat) (f : Ctx → Ctx) : (updC s c f).hmem = s.hmem := rfl
@[simp] theorem updC_sram (s : State) (c : Nat) (f : Ctx → Ctx) : (updC s c f).sram = s.sram := rfl
@[simp] theorem updC_spad (s : State) (c : Nat) (f : Ctx → Ctx) : (updC s c f).spad = s.spad := rfl
@[simp] theorem updC_emptyLine (s : State) (c : Nat) (f : Ctx → Ctx) : (updC s c f).emptyLine = s.emptyLine := rfl
@[simp] theorem updC_groups (s : State) (c : Nat) (f : Ctx → Ctx) : (updC s c f).groups = s.groups := rfl
@[simp] theorem updC_batches (s : State) (c : Nat) (f : Ctx → Ctx) : (updC s c f).batches = s.batches := rfl
@[simp] theorem updC_teams (s : State) (c : Nat) (f : Ctx → Ctx) : (updC s c f).teams = s.teams := rfl
@[simp] theorem updC_flight (s : State) (c : Nat) (f : Ctx → Ctx) : (updC s c f).flight = s.flight := rfl
@[simp] theorem updC_stale (s : State) (c : Nat) (f : Ctx → Ctx) : (updC s c f).stale = s.stale := rfl
@[simp] theorem updC_tlb (s : State) (c : Nat) (f : Ctx → Ctx) : (updC s c f).tlb = s.tlb := rfl
@[simp] theorem updC_walks (s : State) (c : Nat) (f : Ctx → Ctx) : (updC s c f).walks = s.walks := rfl
@[simp] theorem updC_code (s : State) (c : Nat) (f : Ctx → Ctx) : (updC s c f).code = s.code := rfl
@[simp] theorem updC_ctxs (s : State) (c : Nat) (f : Ctx → Ctx) : (updC s c f).ctxs = sset noCtx s.ctxs c (f (getC s c)) := rfl
@[simp] theorem updC_queues (s : State) (c : Nat) (f : Ctx → Ctx) : (updC s c f).queues = s.queues := rfl
@[simp] theorem updC_formed (s : State) (c : Nat) (f : Ctx → Ctx) : (updC s c f).formed = s.formed := rfl
@[simp] theorem updC_dispatches (s : State) (c : Nat) (f : Ctx → Ctx) : (updC s c f).dispatches = s.dispatches := rfl
@[simp] theorem updC_faults (s : State) (c : Nat) (f : Ctx → Ctx) : (updC s c f).faults = s.faults := rfl
@[simp] theorem updC_sigs (s : State) (c : Nat) (f : Ctx → Ctx) : (updC s c f).sigs = s.sigs := rfl
@[simp] theorem updC_fwks (s : State) (c : Nat) (f : Ctx → Ctx) : (updC s c f).fwks = s.fwks := rfl
@[simp] theorem updC_emits (s : State) (c : Nat) (f : Ctx → Ctx) : (updC s c f).emits = s.emits := rfl
@[simp] theorem updC_tickets (s : State) (c : Nat) (f : Ctx → Ctx) : (updC s c f).tickets = s.tickets := rfl
@[simp] theorem updC_saved (s : State) (c : Nat) (f : Ctx → Ctx) : (updC s c f).saved = s.saved := rfl
@[simp] theorem updC_jobs (s : State) (c : Nat) (f : Ctx → Ctx) : (updC s c f).jobs = s.jobs := rfl
@[simp] theorem updC_floes (s : State) (c : Nat) (f : Ctx → Ctx) : (updC s c f).floes = s.floes := rfl
@[simp] theorem updC_pubWaits (s : State) (c : Nat) (f : Ctx → Ctx) : (updC s c f).pubWaits = s.pubWaits := rfl
@[simp] theorem updC_bars (s : State) (c : Nat) (f : Ctx → Ctx) : (updC s c f).bars = s.bars := rfl
@[simp] theorem updC_regs (s : State) (c : Nat) (f : Ctx → Ctx) : (updC s c f).regs = s.regs := rfl
@[simp] theorem updC_mg (s : State) (c : Nat) (f : Ctx → Ctx) : (updC s c f).mg = s.mg := rfl
@[simp] theorem updC_debugs (s : State) (c : Nat) (f : Ctx → Ctx) : (updC s c f).debugs = s.debugs := rfl
@[simp] theorem updC_sctl (s : State) (c : Nat) (f : Ctx → Ctx) : (updC s c f).sctl = s.sctl := rfl
@[simp] theorem updC_memCount (s : State) (c : Nat) (f : Ctx → Ctx) : (updC s c f).memCount = s.memCount := rfl
@[simp] theorem updC_cursor (s : State) (c : Nat) (f : Ctx → Ctx) : (updC s c f).cursor = s.cursor := rfl
@[simp] theorem updC_samples (s : State) (c : Nat) (f : Ctx → Ctx) : (updC s c f).samples = s.samples := rfl
@[simp] theorem updC_slotLast (s : State) (c : Nat) (f : Ctx → Ctx) : (updC s c f).slotLast = s.slotLast := rfl
@[simp] theorem updC_tsSeq (s : State) (c : Nat) (f : Ctx → Ctx) : (updC s c f).tsSeq = s.tsSeq := rfl
@[simp] theorem updC_banks (s : State) (c : Nat) (f : Ctx → Ctx) : (updC s c f).banks = s.banks := rfl
@[simp] theorem updC_cached (s : State) (c : Nat) (f : Ctx → Ctx) : (updC s c f).cached = s.cached := rfl
@[simp] theorem updC_actCount (s : State) (c : Nat) (f : Ctx → Ctx) : (updC s c f).actCount = s.actCount := rfl
@[simp] theorem updC_actCfg (s : State) (c : Nat) (f : Ctx → Ctx) : (updC s c f).actCfg = s.actCfg := rfl
@[simp] theorem updC_poison (s : State) (c : Nat) (f : Ctx → Ctx) : (updC s c f).poison = s.poison := rfl
@[simp] theorem updC_ckpts (s : State) (c : Nat) (f : Ctx → Ctx) : (updC s c f).ckpts = s.ckpts := rfl
@[simp] theorem updC_safe (s : State) (c : Nat) (f : Ctx → Ctx) : (updC s c f).safe = s.safe := rfl
@[simp] theorem updC_reports (s : State) (c : Nat) (f : Ctx → Ctx) : (updC s c f).reports = s.reports := rfl
@[simp] theorem updC_msix (s : State) (c : Nat) (f : Ctx → Ctx) : (updC s c f).msix = s.msix := rfl
@[simp] theorem updC_pubs (s : State) (c : Nat) (f : Ctx → Ctx) : (updC s c f).pubs = s.pubs := rfl
@[simp] theorem updC_inval (s : State) (c : Nat) (f : Ctx → Ctx) : (updC s c f).inval = s.inval := rfl
@[simp] theorem updC_dropped (s : State) (c : Nat) (f : Ctx → Ctx) : (updC s c f).dropped = s.dropped := rfl
@[simp] theorem updC_clock (s : State) (c : Nat) (f : Ctx → Ctx) : (updC s c f).clock = s.clock := rfl
@[simp] theorem updC_time (s : State) (c : Nat) (f : Ctx → Ctx) : (updC s c f).time = s.time := rfl
@[simp] theorem updC_serial (s : State) (c : Nat) (f : Ctx → Ctx) : (updC s c f).serial = s.serial := rfl
@[simp] theorem updC_corr (s : State) (c : Nat) (f : Ctx → Ctx) : (updC s c f).corr = s.corr := rfl
@[simp] theorem updC_parse (s : State) (c : Nat) (f : Ctx → Ctx) : (updC s c f).parse = s.parse := rfl
@[simp] theorem updC_parseNo (s : State) (c : Nat) (f : Ctx → Ctx) : (updC s c f).parseNo = s.parseNo := rfl
@[simp] theorem updC_free (s : State) (c : Nat) (f : Ctx → Ctx) : (updC s c f).free = s.free := rfl
@[simp] theorem updC_cur (s : State) (c : Nat) (f : Ctx → Ctx) : (updC s c f).cur = s.cur := rfl
@[simp] theorem updC_rr (s : State) (c : Nat) (f : Ctx → Ctx) : (updC s c f).rr = s.rr := rfl
@[simp] theorem updC_stuck (s : State) (c : Nat) (f : Ctx → Ctx) : (updC s c f).stuck = s.stuck := rfl
@[simp] theorem updC_agenda (s : State) (c : Nat) (f : Ctx → Ctx) : (updC s c f).agenda = s.agenda := rfl
@[simp] theorem updC_stalled (s : State) (c : Nat) (f : Ctx → Ctx) : (updC s c f).stalled = s.stalled := rfl

@[simp] theorem clockAdd_dmem (s : State) (c n : Nat) : (clockAdd s c n).dmem = s.dmem := rfl
@[simp] theorem clockAdd_hmem (s : State) (c n : Nat) : (clockAdd s c n).hmem = s.hmem := rfl
@[simp] theorem clockAdd_sram (s : State) (c n : Nat) : (clockAdd s c n).sram = s.sram := rfl
@[simp] theorem clockAdd_spad (s : State) (c n : Nat) : (clockAdd s c n).spad = s.spad := rfl
@[simp] theorem clockAdd_emptyLine (s : State) (c n : Nat) : (clockAdd s c n).emptyLine = s.emptyLine := rfl
@[simp] theorem clockAdd_groups (s : State) (c n : Nat) : (clockAdd s c n).groups = s.groups := rfl
@[simp] theorem clockAdd_batches (s : State) (c n : Nat) : (clockAdd s c n).batches = s.batches := rfl
@[simp] theorem clockAdd_teams (s : State) (c n : Nat) : (clockAdd s c n).teams = s.teams := rfl
@[simp] theorem clockAdd_flight (s : State) (c n : Nat) : (clockAdd s c n).flight = s.flight := rfl
@[simp] theorem clockAdd_stale (s : State) (c n : Nat) : (clockAdd s c n).stale = s.stale := rfl
@[simp] theorem clockAdd_tlb (s : State) (c n : Nat) : (clockAdd s c n).tlb = s.tlb := rfl
@[simp] theorem clockAdd_walks (s : State) (c n : Nat) : (clockAdd s c n).walks = s.walks := rfl
@[simp] theorem clockAdd_code (s : State) (c n : Nat) : (clockAdd s c n).code = s.code := rfl
@[simp] theorem clockAdd_ctxs (s : State) (c n : Nat) : (clockAdd s c n).ctxs = s.ctxs := rfl
@[simp] theorem clockAdd_queues (s : State) (c n : Nat) : (clockAdd s c n).queues = s.queues := rfl
@[simp] theorem clockAdd_formed (s : State) (c n : Nat) : (clockAdd s c n).formed = s.formed := rfl
@[simp] theorem clockAdd_dispatches (s : State) (c n : Nat) : (clockAdd s c n).dispatches = s.dispatches := rfl
@[simp] theorem clockAdd_faults (s : State) (c n : Nat) : (clockAdd s c n).faults = s.faults := rfl
@[simp] theorem clockAdd_sigs (s : State) (c n : Nat) : (clockAdd s c n).sigs = s.sigs := rfl
@[simp] theorem clockAdd_fwks (s : State) (c n : Nat) : (clockAdd s c n).fwks = s.fwks := rfl
@[simp] theorem clockAdd_emits (s : State) (c n : Nat) : (clockAdd s c n).emits = s.emits := rfl
@[simp] theorem clockAdd_tickets (s : State) (c n : Nat) : (clockAdd s c n).tickets = s.tickets := rfl
@[simp] theorem clockAdd_saved (s : State) (c n : Nat) : (clockAdd s c n).saved = s.saved := rfl
@[simp] theorem clockAdd_jobs (s : State) (c n : Nat) : (clockAdd s c n).jobs = s.jobs := rfl
@[simp] theorem clockAdd_floes (s : State) (c n : Nat) : (clockAdd s c n).floes = s.floes := rfl
@[simp] theorem clockAdd_pubWaits (s : State) (c n : Nat) : (clockAdd s c n).pubWaits = s.pubWaits := rfl
@[simp] theorem clockAdd_bars (s : State) (c n : Nat) : (clockAdd s c n).bars = s.bars := rfl
@[simp] theorem clockAdd_regs (s : State) (c n : Nat) : (clockAdd s c n).regs = s.regs := rfl
@[simp] theorem clockAdd_mg (s : State) (c n : Nat) : (clockAdd s c n).mg = s.mg := rfl
@[simp] theorem clockAdd_debugs (s : State) (c n : Nat) : (clockAdd s c n).debugs = s.debugs := rfl
@[simp] theorem clockAdd_sctl (s : State) (c n : Nat) : (clockAdd s c n).sctl = s.sctl := rfl
@[simp] theorem clockAdd_memCount (s : State) (c n : Nat) : (clockAdd s c n).memCount = s.memCount := rfl
@[simp] theorem clockAdd_cursor (s : State) (c n : Nat) : (clockAdd s c n).cursor = s.cursor := rfl
@[simp] theorem clockAdd_samples (s : State) (c n : Nat) : (clockAdd s c n).samples = s.samples := rfl
@[simp] theorem clockAdd_slotLast (s : State) (c n : Nat) : (clockAdd s c n).slotLast = s.slotLast := rfl
@[simp] theorem clockAdd_tsSeq (s : State) (c n : Nat) : (clockAdd s c n).tsSeq = s.tsSeq := rfl
@[simp] theorem clockAdd_banks (s : State) (c n : Nat) : (clockAdd s c n).banks = s.banks := rfl
@[simp] theorem clockAdd_cached (s : State) (c n : Nat) : (clockAdd s c n).cached = s.cached := rfl
@[simp] theorem clockAdd_actCount (s : State) (c n : Nat) : (clockAdd s c n).actCount = s.actCount := rfl
@[simp] theorem clockAdd_actCfg (s : State) (c n : Nat) : (clockAdd s c n).actCfg = s.actCfg := rfl
@[simp] theorem clockAdd_poison (s : State) (c n : Nat) : (clockAdd s c n).poison = s.poison := rfl
@[simp] theorem clockAdd_ckpts (s : State) (c n : Nat) : (clockAdd s c n).ckpts = s.ckpts := rfl
@[simp] theorem clockAdd_safe (s : State) (c n : Nat) : (clockAdd s c n).safe = s.safe := rfl
@[simp] theorem clockAdd_reports (s : State) (c n : Nat) : (clockAdd s c n).reports = s.reports := rfl
@[simp] theorem clockAdd_msix (s : State) (c n : Nat) : (clockAdd s c n).msix = s.msix := rfl
@[simp] theorem clockAdd_pubs (s : State) (c n : Nat) : (clockAdd s c n).pubs = s.pubs := rfl
@[simp] theorem clockAdd_inval (s : State) (c n : Nat) : (clockAdd s c n).inval = s.inval := rfl
@[simp] theorem clockAdd_dropped (s : State) (c n : Nat) : (clockAdd s c n).dropped = s.dropped := rfl
@[simp] theorem clockAdd_time (s : State) (c n : Nat) : (clockAdd s c n).time = s.time := rfl
@[simp] theorem clockAdd_serial (s : State) (c n : Nat) : (clockAdd s c n).serial = s.serial := rfl
@[simp] theorem clockAdd_corr (s : State) (c n : Nat) : (clockAdd s c n).corr = s.corr := rfl
@[simp] theorem clockAdd_parse (s : State) (c n : Nat) : (clockAdd s c n).parse = s.parse := rfl
@[simp] theorem clockAdd_parseNo (s : State) (c n : Nat) : (clockAdd s c n).parseNo = s.parseNo := rfl
@[simp] theorem clockAdd_cur (s : State) (c n : Nat) : (clockAdd s c n).cur = s.cur := rfl
@[simp] theorem clockAdd_rr (s : State) (c n : Nat) : (clockAdd s c n).rr = s.rr := rfl
@[simp] theorem clockAdd_stuck (s : State) (c n : Nat) : (clockAdd s c n).stuck = s.stuck := rfl
@[simp] theorem clockAdd_agenda (s : State) (c n : Nat) : (clockAdd s c n).agenda = s.agenda := rfl
@[simp] theorem clockAdd_stalled (s : State) (c n : Nat) : (clockAdd s c n).stalled = s.stalled := rfl

@[simp] theorem clockAdd_free (s : State) (c n : Nat) : (clockAdd s c n).free = s.free + 1 := rfl

end Sys2Proof.Machine
end

