-- ==== Sys2Proof/Laws/Store.lean ====
section
/-! SUPPORT. The laws of sparse tables and of memory: a read after a write, and the canonical form that every operation keeps. -/
namespace Sys2Proof.Machine
open Sys2Proof

section Tables
variable {α : Type}

theorem sget_filter_ne (d : α) (m : SMap α) (k j : Nat) :
    sget d (m.filter fun e => e.1 != k) j = if j = k then d else sget d m j := by
  induction m with
  | nil => simp [sget]
  | cons e r ih =>
    obtain ⟨i, u⟩ := e
    by_cases h : i = k
    · subst h
      simp only [List.filter_cons, bne_self_eq_false, Bool.false_eq_true, if_false, ih, sget]
      by_cases hj : j = i
      · simp [hj]
      · simp [hj, Ne.symm hj]
    · have hb : (i != k) = true := by simpa using h
      simp only [List.filter_cons, hb, if_true, sget, ih]
      by_cases hi : i = j
      · subst hi; simp [h]
      · simp [hi]

theorem sget_sins (d : α) (m : SMap α) (k j : Nat) (v : α) (h : sget d m k = d) (hk : ∀ e ∈ m, e.1 ≠ k) :
    sget d (sins k v m) j = if j = k then v else sget d m j := by
  induction m with
  | nil => by_cases hj : k = j <;> simp [sins, sget, hj, eq_comm]
  | cons e r ih =>
    obtain ⟨i, u⟩ := e
    have hi : i ≠ k := hk (i, u) (by simp)
    have hr := ih (by simpa [sget, hi] using h) fun e he => hk e (by simp [he])
    by_cases hlt : k < i
    · by_cases hj : k = j
      · subst hj; simp [sins, sget, hlt]
      · simp [sins, sget, hlt, hj, Ne.symm hj]
    · by_cases hij : i = j
      · subst hij; simp [sins, sget, hlt, hi]
      · simp [sins, sget, hlt, hij, hr]

variable [DecidableEq α]

/-- A read after a write: the written value at its key, every other key as before. -/
theorem sget_sset (d : α) (m : SMap α) (k j : Nat) (v : α) :
    sget d (sset d m k v) j = if j = k then v else sget d m j := by
  unfold sset
  by_cases hv : v = d
  · subst hv; simp [sget_filter_ne]
  · simp only [hv, if_false]
    rw [sget_sins, sget_filter_ne]
    · split <;> rfl
    · simp [sget_filter_ne]
    · intro e he; simpa using (List.mem_filter.1 he).2

@[simp] theorem sget_sset_same (d : α) (m : SMap α) (k : Nat) (v : α) : sget d (sset d m k v) k = v := by simp [sget_sset]
theorem sget_sset_ne (d : α) (m : SMap α) {k j : Nat} (v : α) (h : j ≠ k) : sget d (sset d m k v) j = sget d m j := by
  simp [sget_sset, h]

theorem sget_supd (d : α) (m : SMap α) (k j : Nat) (f : α → α) :
    sget d (supd d m k f) j = if j = k then f (sget d m k) else sget d m j := sget_sset d m k j _

/-! The canonical form. -/

theorem swf_weaken {d : α} {b : Option Nat} {m : SMap α} (h : swf d b m = true) : swf d none m = true := by
  cases m with
  | nil => rfl
  | cons e r => simp_all [swf]

theorem swf_lower {d : α} {a b : Nat} {m : SMap α} (h : swf d (some b) m = true) (hab : a ≤ b) : swf d (some a) m = true := by
  cases m with
  | nil => rfl
  | cons e r => simp [swf] at h ⊢; exact ⟨⟨by omega, h.1.2⟩, h.2⟩

theorem swf_filter {d : α} (p : Nat × α → Bool) (m : SMap α) : ∀ b, swf d b m = true → swf d b (m.filter p) = true := by
  induction m with
  | nil => intro b h; exact h
  | cons e r ih =>
    intro b h
    obtain ⟨j, u⟩ := e
    have hr : swf d (some j) r = true := by cases b <;> simp_all [swf]
    by_cases hp : p (j, u) = true
    · simp only [List.filter_cons, hp, if_true]
      cases b <;> simp [swf] at h ⊢ <;> simp [h, ih _ hr]
    · simp only [List.filter_cons, hp]
      have h2 := ih (some j) hr
      cases b with
      | none => exact swf_weaken h2
      | some b => simp [swf] at h; exact swf_lower h2 (by omega)

theorem swf_sins {d : α} (k : Nat) (v : α) (hv : v ≠ d) (m : SMap α) (hk : ∀ e ∈ m, e.1 ≠ k) :
    ∀ b, (∀ n, b = some n → n < k) → swf d b m = true → swf d b (sins k v m) = true := by
  induction m with
  | nil => intro b hb _; cases b <;> simp [sins, swf, hv]; exact hb _ rfl
  | cons e r ih =>
    intro b hb h
    obtain ⟨j, u⟩ := e
    have hj : j ≠ k := hk (j, u) (by simp)
    have hr : swf d (some j) r = true := by cases b <;> simp_all [swf]
    by_cases hlt : k < j
    · simp only [sins, hlt, if_true]
      cases b with
      | none => simp [swf] at h ⊢; simp [hv, hlt, h]
      | some n => simp [swf] at h ⊢; simp [hv, hlt, h, hb n rfl]
    · simp only [sins, hlt, if_false]
      have h2 := ih (fun e he => hk e (by simp [he])) (some j) (by intro n hn; cases hn; omega) hr
      cases b <;> simp [swf] at h ⊢ <;> simp [h, h2]

theorem swf_sset {d : α} (m : SMap α) (k : Nat) (v : α) (h : swf d none m = true) : swf d none (sset d m k v) = true := by
  unfold sset
  by_cases hv : v = d
  · simp only [hv, if_true]; exact swf_filter _ m none h
  · simp only [hv, if_false]
    refine swf_sins k v hv _ ?_ none (by simp) (swf_filter _ m none h)
    intro e he; simpa using (List.mem_filter.1 he).2

theorem swf_supd {d : α} (m : SMap α) (k : Nat) (f : α → α) (h : swf d none m = true) : swf d none (supd d m k f) = true :=
  swf_sset m k _ h

theorem swf_smerge {d : α} (sel : Nat → Bool) (a b : SMap α) (h : swf d none b = true) : swf d none (smerge d sel a b) = true := by
  unfold smerge
  induction a.filter fun e => sel e.1 with
  | nil => exact swf_filter _ b none h
  | cons e r ih => exact swf_sset _ _ _ ih

theorem sget_below {d : α} (m : SMap α) (b k : Nat) (h : swf d (some b) m = true) (hk : k ≤ b) : sget d m k = d := by
  induction m generalizing b with
  | nil => rfl
  | cons e r ih =>
    obtain ⟨j, u⟩ := e
    simp [swf] at h
    have : j ≠ k := by omega
    simp [sget, this]
    exact ih j h.2 (by omega)

/-- Tables in canonical form that read alike are the same data. -/
theorem swf_ext {d : α} (m n : SMap α) (hm : swf d none m = true) (hn : swf d none n = true)
    (h : ∀ k, sget d m k = sget d n k) : m = n := by
  induction m generalizing n with
  | nil =>
    cases n with
    | nil => rfl
    | cons e r =>
      obtain ⟨j, u⟩ := e
      have := h j
      simp [swf] at hn
      simp [sget] at this
      exact absurd this.symm hn.1
  | cons e r ih =>
    obtain ⟨j, u⟩ := e
    simp only [swf, Bool.true_and, Bool.and_eq_true, decide_eq_true_eq] at hm
    cases n with
    | nil =>
      have := h j
      simp [sget] at this
      exact absurd this hm.1
    | cons e' r' =>
      obtain ⟨j', u'⟩ := e'
      simp only [swf, Bool.true_and, Bool.and_eq_true, decide_eq_true_eq] at hn
      have hjj : j = j' := by
        rcases Nat.lt_trichotomy j j' with hl | he | hg
        · have := h j
          have hne : j' ≠ j := by omega
          simp only [sget, if_true, hne, if_false] at this
          rw [sget_below r' j' j hn.2 (by omega)] at this
          exact absurd this hm.1
        · exact he
        · have := h j'
          have hne : j ≠ j' := by omega
          simp only [sget, if_true, hne, if_false] at this
          rw [sget_below r j j' hm.2 (by omega)] at this
          exact absurd this.symm hn.1
      subst hjj
      have huu : u = u' := by have := h j; simpa [sget] using this
      subst huu
      congr 1
      refine ih r' (swf_weaken hm.2) (swf_weaken hn.2) fun k => ?_
      by_cases hk : k ≤ j
      · rw [sget_below r j k hm.2 hk, sget_below r' j k hn.2 hk]
      · have := h k
        have hne : j ≠ k := by omega
        simpa [sget, hne] using this

end Tables

/-! ### Memory -/

@[simp] theorem memGet_memSet (m : Memory) (a b : Nat) (v : Byte) : memGet (memSet m a v) b = if b = a then v else memGet m b :=
  sget_sset 0 m a b v

/-- A byte after a write of bytes: the written byte in the range, every other byte as before. -/
theorem memGet_memWrite (m : Memory) (a : Nat) (l : List Byte) (b : Nat) :
    memGet (memWrite m a l) b = if a ≤ b ∧ b < a + l.length then l.getD (b - a) 0 else memGet m b := by
  induction l generalizing m a with
  | nil => simp only [memWrite, List.length_nil]; rw [if_neg (by omega)]
  | cons v r ih =>
    simp only [memWrite, ih, memGet_memSet, List.length_cons]
    by_cases h1 : b = a
    · subst h1
      rw [if_neg (by omega), if_pos rfl, if_pos (by omega)]
      simp
    · by_cases h2 : a + 1 ≤ b ∧ b < a + 1 + r.length
      · rw [if_pos h2, if_pos (by omega)]
        obtain ⟨c, hc⟩ : ∃ c, b - a = c + 1 := ⟨b - a - 1, by omega⟩
        rw [hc, show b - (a + 1) = c by omega]
        simp
      · rw [if_neg h2, if_neg h1, if_neg (by omega)]

theorem memGet_memWrite_out (m : Memory) (a : Nat) (l : List Byte) (b : Nat) (h : b < a ∨ a + l.length ≤ b) :
    memGet (memWrite m a l) b = memGet m b := by
  rw [memGet_memWrite, if_neg (by omega)]

@[simp] theorem memRead_length (m : Memory) (a n : Nat) : (memRead m a n).length = n := by
  induction n generalizing a with
  | zero => rfl
  | succ n ih => simp [memRead, ih]

theorem memRead_congr (m m' : Memory) (a n : Nat) (h : ∀ b, a ≤ b → b < a + n → memGet m b = memGet m' b) :
    memRead m a n = memRead m' a n := by
  induction n generalizing a with
  | zero => rfl
  | succ n ih =>
    simp only [memRead]
    rw [h a (by omega) (by omega), ih (a + 1) fun b h1 h2 => h b (by omega) (by omega)]

/-- Reading the bytes just written gives them back. -/
theorem memRead_memWrite (m : Memory) (a : Nat) (l : List Byte) : memRead (memWrite m a l) a l.length = l := by
  induction l generalizing m a with
  | nil => rfl
  | cons v r ih =>
    simp only [memWrite, List.length_cons, memRead, ih]
    rw [memGet_memWrite_out _ _ _ _ (by omega)]
    simp

/-- Bytes apart from those written read as before. -/
theorem memRead_memWrite_out (m : Memory) (a : Nat) (l : List Byte) (b n : Nat) (h : b + n ≤ a ∨ a + l.length ≤ b) :
    memRead (memWrite m a l) b n = memRead m b n :=
  memRead_congr _ _ _ _ fun c h1 h2 => memGet_memWrite_out _ _ _ _ (by omega)

theorem memWf_memSet (m : Memory) (a : Nat) (v : Byte) (h : memWf m = true) : memWf (memSet m a v) = true := swf_sset m a v h

theorem memWf_memWrite (m : Memory) (a : Nat) (l : List Byte) (h : memWf m = true) : memWf (memWrite m a l) = true := by
  induction l generalizing m a with
  | nil => exact h
  | cons v r ih => exact ih _ _ (memWf_memSet _ _ _ h)

theorem memWf_smerge (sel : Nat → Bool) (a b : Memory) (h : memWf b = true) : memWf (smerge 0 sel a b) = true := swf_smerge sel a b h
theorem memWf_filter (p : Host.Cell → Bool) (m : Memory) (h : memWf m = true) : memWf (m.filter p) = true := swf_filter p m none h
@[simp] theorem memWf_nil : memWf [] = true := rfl

@[simp] theorem leBytes_length (n v : Nat) : (leBytes n v).length = n := by
  induction n generalizing v with
  | zero => rfl
  | succ n ih => simp [leBytes, ih]

/-- A number below 2^(8n) survives its n bytes (R3). -/
theorem leNat_leBytes (n v : Nat) (h : v < 256 ^ n) : leNat (leBytes n v) = v := by
  induction n generalizing v with
  | zero => simp at h; subst h; rfl
  | succ n ih =>
    have hv : v / 256 < 256 ^ n := by rw [Nat.div_lt_iff_lt_mul (by decide)]; rw [pow_succ] at h; omega
    simp only [leBytes, leNat, ih _ hv, BitVec.toNat_ofNat]
    omega

/-- One value under every key of a list. -/
theorem sget_foldl_one {α : Type} [DecidableEq α] (d v : α) (ks : List Nat) (m : SMap α) (k : Nat) :
    sget d (ks.foldl (fun m l => sset d m l v) m) k = if k ∈ ks then v else sget d m k := by
  induction ks generalizing m with
  | nil => simp
  | cons a r ih =>
    rw [List.foldl_cons, ih, sget_sset]
    by_cases h1 : k = a
    · subst h1; simp
    · have h2 : ¬ a = k := fun h => h1 h.symm
      simp [h1, h2]

end Sys2Proof.Machine
end

