-- ==== Sys2Proof/Laws/Ops.lean ====
section
/-! SUPPORT. The laws of the shared operations: units, lanes, registers, memory, and the memories' canonical form. -/
namespace Sys2Proof.Machine
open Sys2Proof Sys2Proof.Checks

/-! ### Units: a read after a write -/

theorem getG_setG (s : State) (g j : GKey) (v : Group) : getG (setG s g v) j = if j = g then v else getG s j := sget_sset _ _ _ _ _
@[simp] theorem getG_setG_same (s : State) (g : GKey) (v : Group) : getG (setG s g v) g = v := by simp [getG_setG]
theorem getG_setG_ne (s : State) {g j : GKey} (v : Group) (h : j ≠ g) : getG (setG s g v) j = getG s j := by simp [getG_setG, h]
theorem getG_updG (s : State) (g j : GKey) (f : Group → Group) : getG (updG s g f) j = if j = g then f (getG s g) else getG s j :=
  getG_setG _ _ _ _
@[simp] theorem getG_updG_same (s : State) (g : GKey) (f : Group → Group) : getG (updG s g f) g = f (getG s g) := by simp [updG]
theorem getB_setB (s : State) (b j : BTag) (v : Batch) : getB (setB s b v) j = if j = b then v else getB s j := sget_sset _ _ _ _ _
@[simp] theorem getB_setB_same (s : State) (b : BTag) (v : Batch) : getB (setB s b v) b = v := by simp [getB_setB]
theorem getB_updB (s : State) (b j : BTag) (f : Batch → Batch) : getB (updB s b f) j = if j = b then f (getB s b) else getB s j :=
  getB_setB _ _ _ _
@[simp] theorem getB_updB_same (s : State) (b : BTag) (f : Batch → Batch) : getB (updB s b f) b = f (getB s b) := by simp [updB]
theorem getT_setT (s : State) (k j : Nat) (v : Team) : getT (setT s k v) j = if j = k then v else getT s j := sget_sset _ _ _ _ _
@[simp] theorem getT_setT_same (s : State) (k : Nat) (v : Team) : getT (setT s k v) k = v := by simp [getT_setT]
theorem getC_setC (s : State) (c j : Nat) (v : Ctx) : getC (setC s c v) j = if j = c then v else getC s j := sget_sset _ _ _ _ _
@[simp] theorem getC_setC_same (s : State) (c : Nat) (v : Ctx) : getC (setC s c v) c = v := by simp [getC_setC]
theorem getP_setP (q : Group) (i j : Nat) (p : Path) : getP (setP q i p) j = if j = i then p else getP q j := sget_sset _ _ _ _ _
@[simp] theorem getP_setP_same (q : Group) (i : Nat) (p : Path) : getP (setP q i p) i = p := by simp [getP_setP]
theorem getD_updD (s : State) (c j : Nat) (f : Debug → Debug) : getD (updD s c f) j = if j = c then f (getD s c) else getD s j :=
  sget_supd _ _ _ _ _
@[simp] theorem getD_updD_same (s : State) (c : Nat) (f : Debug → Debug) : getD (updD s c f) c = f (getD s c) := by simp [getD_updD]

@[simp] theorem getB_setG (s : State) (g : GKey) (v : Group) (b : BTag) : getB (setG s g v) b = getB s b := rfl
@[simp] theorem getC_setG (s : State) (g : GKey) (v : Group) (c : Nat) : getC (setG s g v) c = getC s c := rfl
@[simp] theorem getT_setG (s : State) (g : GKey) (v : Group) (t : Nat) : getT (setG s g v) t = getT s t := rfl
@[simp] theorem getD_setG (s : State) (g : GKey) (v : Group) (c : Nat) : getD (setG s g v) c = getD s c := rfl
@[simp] theorem getG_setB (s : State) (b : BTag) (v : Batch) (g : GKey) : getG (setB s b v) g = getG s g := rfl
@[simp] theorem getC_setB (s : State) (b : BTag) (v : Batch) (c : Nat) : getC (setB s b v) c = getC s c := rfl
@[simp] theorem getG_setC (s : State) (c : Nat) (v : Ctx) (g : GKey) : getG (setC s c v) g = getG s g := rfl
@[simp] theorem getB_setC (s : State) (c : Nat) (v : Ctx) (b : BTag) : getB (setC s c v) b = getB s b := rfl
@[simp] theorem getG_setT (s : State) (k : Nat) (v : Team) (g : GKey) : getG (setT s k v) g = getG s g := rfl
@[simp] theorem getB_setT (s : State) (k : Nat) (v : Team) (b : BTag) : getB (setT s k v) b = getB s b := rfl
@[simp] theorem getG_updD (s : State) (c : Nat) (f : Debug → Debug) (g : GKey) : getG (updD s c f) g = getG s g := rfl
@[simp] theorem getB_updD (s : State) (c : Nat) (f : Debug → Debug) (b : BTag) : getB (updD s c f) b = getB s b := rfl

/-! ### Lanes -/

theorem mem_lanesOf (m : Mask) (l : Nat) : l ∈ lanesOf m ↔ l < 32 ∧ m.getLsbD l = true := by
  simp [lanesOf, allLanes]

theorem lanesOf_nodup (m : Mask) : (lanesOf m).Nodup := List.Nodup.filter _ List.nodup_range

@[simp] theorem lanesOf_zero : lanesOf 0 = [] := by decide

theorem laneBit_getLsbD (l j : Nat) (hl : l < 32) (hj : j < 32) : (laneBit l).getLsbD j = decide (j = l) := by
  unfold laneBit
  rw [BitVec.getLsbD_ofNat, Nat.testBit_two_pow]
  simp [hj, eq_comm]

/-- A sum of distinct powers of two has the bit of each. -/
theorem testBit_sum_pow (n : Nat) (f : Nat → Bool) (j : Nat) :
    (((List.range n).map fun l => if f l then 2 ^ l else 0).sum).testBit j = (decide (j < n) && f j) := by
  induction n with
  | zero => simp
  | succ n ih =>
    have hlt : ((List.range n).map fun l => if f l then 2 ^ l else 0).sum < 2 ^ n := by
      clear ih
      induction n with
      | zero => simp
      | succ n ih =>
        rw [List.range_succ, List.map_append, List.sum_append, pow_succ]
        simp only [List.map_cons, List.map_nil, List.sum_cons, List.sum_nil, Nat.add_zero]
        split <;> omega
    rw [List.range_succ, List.map_append, List.sum_append]
    simp only [List.map_cons, List.map_nil, List.sum_cons, List.sum_nil, Nat.add_zero]
    by_cases hf : f n = true
    · simp only [hf, if_true]
      rw [Nat.add_comm, ← Nat.mul_one (2 ^ n), Nat.two_pow_add_eq_or_of_lt hlt, Nat.testBit_or, ih, Nat.mul_one, Nat.testBit_two_pow]
      by_cases hj : n = j
      · subst hj; simp [hf]
      · simp only [hj, decide_false, Bool.false_or]
        congr 1
        apply decide_eq_decide.2
        omega
    · simp only [hf, Bool.false_eq_true, if_false, Nat.add_zero, ih]
      by_cases hj : n = j
      · subst hj; simp [hf]
      · congr 1
        apply decide_eq_decide.2
        omega

/-- A lane is in the mask of those that `f` picks when it is a lane and `f` picks it. -/
theorem maskOf_getLsbD (f : Nat → Bool) (j : Nat) : (maskOf f).getLsbD j = (decide (j < 32) && f j) := by
  unfold maskOf allLanes
  rw [BitVec.getLsbD_ofNat, testBit_sum_pow]
  simp

theorem bit64 (k j : Nat) (hk : k < 64) : (BitVec.ofNat 64 (2 ^ k)).getLsbD j = decide (j = k) := by
  rw [BitVec.getLsbD_ofNat, Nat.testBit_two_pow]
  by_cases h : j = k
  · subst h; simp [hk]
  · simp [h, Ne.symm h]

/-! ### Registers -/

theorem rdX_wrX (v : Vers) (l k j i : Nat) (w : Word) :
    rdX (wrX v l k w) j i = if 64 * j + i = 64 * l + k then w else rdX v j i := sget_sset _ _ _ _ _
@[simp] theorem rdP_wrX (v : Vers) (l k j i : Nat) (w : Word) : rdP (wrX v l k w) j i = rdP v j i := rfl
@[simp] theorem wrX_clk (v : Vers) (l k : Nat) (w : Word) : (wrX v l k w).clk = v.clk := rfl
@[simp] theorem wrX_qb (v : Vers) (l k : Nat) (w : Word) : (wrX v l k w).qb = v.qb := rfl
@[simp] theorem wrX_uni (v : Vers) (l k : Nat) (w : Word) : (wrX v l k w).uni = v.uni := rfl
theorem rdPend_wrX (v : Vers) (l k j i : Nat) (w : Word) :
    rdPend (wrX v l k w) j i = if 64 * j + i = 64 * l + k then 0 else rdPend v j i := by
  simp [rdPend, wrX, sget_sset]
@[simp] theorem rdX_setPend (v : Vers) (l k n j i : Nat) : rdX (setPend v l k n) j i = rdX v j i := rfl
@[simp] theorem rdP_setPend (v : Vers) (l k n j i : Nat) : rdP (setPend v l k n) j i = rdP v j i := rfl
@[simp] theorem setPend_clk (v : Vers) (l k n : Nat) : (setPend v l k n).clk = v.clk := rfl
@[simp] theorem setPend_qb (v : Vers) (l k n : Nat) : (setPend v l k n).qb = v.qb := rfl
@[simp] theorem setPend_uni (v : Vers) (l k n : Nat) : (setPend v l k n).uni = v.uni := rfl
theorem rdPend_setPend (v : Vers) (l k n j i : Nat) :
    rdPend (setPend v l k n) j i = if 64 * j + i = 64 * l + k then n else rdPend v j i := sget_sset _ _ _ _ _
@[simp] theorem rdX_wrP (v : Vers) (l k j i : Nat) (b : Bool) : rdX (wrP v l k b) j i = rdX v j i := by unfold wrP; split <;> rfl
@[simp] theorem rdPend_wrP (v : Vers) (l k j i : Nat) (b : Bool) : rdPend (wrP v l k b) j i = rdPend v j i := by
  unfold wrP; split <;> rfl
@[simp] theorem wrP_clk (v : Vers) (l k : Nat) (b : Bool) : (wrP v l k b).clk = v.clk := by unfold wrP; split <;> rfl
@[simp] theorem wrP_qb (v : Vers) (l k : Nat) (b : Bool) : (wrP v l k b).qb = v.qb := by unfold wrP; split <;> rfl
@[simp] theorem wrP_uni (v : Vers) (l k : Nat) (b : Bool) : (wrP v l k b).uni = v.uni := by unfold wrP; split <;> rfl

/-- p7 reads true whatever is written (R93). -/
@[simp] theorem rdP_seven (v : Vers) (l : Nat) : rdP v l 7 = true := rfl

theorem rdP_wrP (v : Vers) (l k j i : Nat) (b : Bool) (hi : i < 7) :
    rdP (wrP v l k b) j i = if k < 7 ∧ 8 * j + i = 8 * l + k then b else rdP v j i := by
  unfold wrP
  by_cases hk : 7 ≤ k
  · rw [if_pos hk, if_neg (by omega)]
  · rw [if_neg hk]
    simp only [rdP, sget_sset, show decide (7 ≤ i) = false by simpa using hi, Bool.false_or]
    by_cases h : 8 * j + i = 8 * l + k
    · simp [h, show k < 7 by omega]
    · simp [h]

theorem xkey_inj {l k j i : Nat} (hk : k < 64) (hi : i < 64) : 64 * j + i = 64 * l + k ↔ j = l ∧ i = k := by omega
theorem pkey_inj {l k j i : Nat} (hk : k < 8) (hi : i < 8) : 8 * j + i = 8 * l + k ↔ j = l ∧ i = k := by omega

/-! ### Memory -/

theorem memOk_spaceWrite_dmem (s : State) (sp : Space) (a : Nat) (v : List Byte) (h : memWf s.dmem = true) :
    memWf (spaceWrite s sp a v).dmem = true := by cases sp <;> simp [spaceWrite, h, memWf_memWrite]
theorem memOk_spaceWrite_hmem (s : State) (sp : Space) (a : Nat) (v : List Byte) (h : memWf s.hmem = true) :
    memWf (spaceWrite s sp a v).hmem = true := by cases sp <;> simp [spaceWrite, h, memWf_memWrite]
theorem memOk_spaceWrite_spad (s : State) (sp : Space) (a : Nat) (v : List Byte) (h : memWf s.spad = true) :
    memWf (spaceWrite s sp a v).spad = true := by cases sp <;> simp [spaceWrite, h, memWf_memWrite]
theorem memOk_spaceWrite_sram (s : State) (sp : Space) (a : Nat) (v : List Byte) (h : memWf s.sram = true) :
    memWf (spaceWrite s sp a v).sram = true := by cases sp <;> simp [spaceWrite, h, memWf_memWrite]

@[simp] theorem spaceRead_length (s : State) (sp : Space) (a n : Nat) : (spaceRead s sp a n).length = n := by
  cases sp <;> simp [spaceRead]

/-- A space reads back what has been written to it. -/
theorem spaceRead_spaceWrite (s : State) (sp : Space) (a : Nat) (v : List Byte) : spaceRead (spaceWrite s sp a v) sp a v.length = v := by
  cases sp <;> exact memRead_memWrite _ _ _

/-- A write leaves every other space, and every byte apart from its own, as it was. -/
theorem spaceRead_spaceWrite_out (s : State) (sp sp' : Space) (a : Nat) (v : List Byte) (b n : Nat)
    (h : sp' = sp → b + n ≤ a ∨ a + v.length ≤ b) : spaceRead (spaceWrite s sp a v) sp' b n = spaceRead s sp' b n := by
  cases sp <;> cases sp' <;> first | rfl | exact memRead_memWrite_out _ _ _ _ _ (h rfl)

end Sys2Proof.Machine
end

