-- ==== Sys2Proof/Laws/Ring.lean ====
section
/-! SUPPORT. Rings: a pop touches scratchpad bytes and what lanes have still to come upon, and keeps the canonical form of the scratchpad. -/
namespace Sys2Proof.Machine
open Sys2Proof Sys2Proof.Checks

/-- Two states differ in the scratchpad and the views at most, and the second's scratchpad is in canonical form if the first's is. -/
def OnlySpad (s t : State) : Prop := t = { s with spad := t.spad, stale := t.stale } ∧ (memWf s.spad = true → memWf t.spad = true)

theorem OnlySpad.refl (s : State) : OnlySpad s s := ⟨rfl, id⟩
theorem OnlySpad.trans {s t u : State} (a : OnlySpad s t) (b : OnlySpad t u) : OnlySpad s u := by
  refine ⟨?_, fun h => b.2 (a.2 h)⟩
  have hb := b.1
  rw [a.1] at hb
  exact hb

theorem onlySpad_spadStore (s : State) (b : Batch) (a : Nat) (v : List Byte) : OnlySpad s (spadStore s b a v) :=
  ⟨rfl, memWf_memWrite _ _ _⟩
theorem onlySpad_viewAcquire (s : State) (g : GKey) (m : Mask) (sc : Scope) : OnlySpad s (viewAcquire s g m sc) := ⟨rfl, id⟩
theorem onlySpad_ringPut (s : State) (b : Batch) (a : Nat) (h : RingHdr) : OnlySpad s (ringPut s b a h) := onlySpad_spadStore _ _ _ _
theorem onlySpad_setSt (s : State) (b : Batch) (a st : Nat) : OnlySpad s (setSt s b a st) := onlySpad_spadStore _ _ _ _

theorem onlySpad_foldl {β : Type} (f : State → β → State) (hf : ∀ s x, OnlySpad s (f s x)) (xs : List β) (s : State) :
    OnlySpad s (xs.foldl f s) := by
  induction xs generalizing s with
  | nil => exact .refl s
  | cons x r ih => exact (hf s x).trans (ih _)

theorem onlySpad_ringPop {s t : State} {b : Batch} {a n : Nat} {l : List Nat} (h : ringPop s b a n = some (l, t)) : OnlySpad s t := by
  unfold ringPop at h
  simp only at h
  split at h
  · cases h
  · simp only [Option.some.injEq, Prod.mk.injEq] at h
    rw [← h.2]
    exact ((onlySpad_foldl _ (fun s x => onlySpad_setSt s b x 0) _ _).trans
      (onlySpad_foldl _ (fun s x => onlySpad_setSt s b x 5) _ _)).trans (onlySpad_ringPut _ _ _ _)

theorem onlySpad_ringSettle (s : State) (b : Batch) (p : Pop) (c : Bool) : OnlySpad s (ringSettle s b p c) := by
  unfold ringSettle
  split
  · exact (onlySpad_setSt _ _ _ _).trans (onlySpad_ringPut _ _ _ _)
  · exact (onlySpad_setSt _ _ _ _).trans (onlySpad_ringPut _ _ _ _)

theorem onlySpad_popLanes {s t : State} {g : GKey} {n : Nat} {ls : List Nat} {m : SMap Word} {ps : List Pop}
    (h : popLanes s g n ls = some (m, ps, t)) : OnlySpad s t := by
  unfold popLanes at h
  simp only at h
  revert h
  generalize (List.map (fun l => sget 0 (getG s g).work.qb (4 * l + n) - 1) ls).eraseDups = offs
  suffices H : ∀ (acc : Option (SMap Word × List Pop × State)), (∀ x, acc = some x → OnlySpad s x.2.2) → ∀ x,
      offs.foldl (fun acc off => acc.bind fun (m, ps, s1) =>
        let lls := ls.filter fun l => sget 0 (getG s g).work.qb (4 * l + n) - 1 = off
        (ringPop s1 (getB s (getG s g).btag) ((getB s (getG s g).btag).spb + off) lls.length).map fun (recs, s2) =>
          let s2 := viewAcquire s2 g (maskOf lls.contains) .clu
          ((lls.zip recs).foldl (fun m e => sset 0 m e.1 (BitVec.ofNat 32 (e.2 + 8))) m,
           ps ++ (lls.zip recs).map (fun e => (⟨e.1, off, e.2⟩ : Pop)), s2)) acc = some x → OnlySpad s x.2.2 by
    intro h
    exact H (some ([], [], s)) (by intro x hx; cases hx; exact .refl s) _ h
  induction offs with
  | nil => intro acc ha x hx; exact ha x hx
  | cons off r ih =>
    intro acc ha x hx
    rw [List.foldl_cons] at hx
    refine ih _ ?_ x hx
    intro y hy
    cases acc with
    | none => simp at hy
    | some z =>
      obtain ⟨zm, zp, zs⟩ := z
      simp only [Option.bind_some, Option.map_eq_some_iff] at hy
      obtain ⟨⟨recs, s2⟩, hp, rfl⟩ := hy
      exact ((ha _ rfl).trans (onlySpad_ringPop hp)).trans (onlySpad_viewAcquire _ _ _ _)

end Sys2Proof.Machine
end

