-- ==== Sys2Proof/Laws/Issue.lean ====
section
/-! SUPPORT. What an issue does, said once: where nothing holds the instruction back, `issue` answers a next state, and `Did` says
all that it did. Every meaning of a word is one `issue`. -/
namespace Sys2Proof.Machine
open Sys2Proof Sys2Proof.Checks

/-! ### Folds over lanes -/

theorem lastOf_nil {α : Type} (k : Nat) (v : α) : lastOf ([] : List (Nat × α)) k v = v := rfl
theorem lastOf_append {α : Type} (a b : List (Nat × α)) (k : Nat) (v : α) : lastOf (a ++ b) k v = lastOf b k (lastOf a k v) := by
  simp [lastOf]
theorem lastOf_cons {α : Type} (e : Nat × α) (r : List (Nat × α)) (k : Nat) (v : α) :
    lastOf (e :: r) k v = lastOf r k (if e.1 = k then e.2 else v) := rfl

/-- The x registers that a lane's outcome names exist. -/
def OutOk (o : LaneOut) : Prop := (∀ e ∈ o.wx, e.1 < 64) ∧ ∀ e ∈ o.pend, e.1 < 64

theorem rdX_foldl_wrX (ws : List (Nat × Word)) (hw : ∀ e ∈ ws, e.1 < 64) (v : Vers) (l j i : Nat) (hi : i < 64) :
    rdX (ws.foldl (fun v e => wrX v l e.1 e.2) v) j i = if j = l then lastOf ws i (rdX v j i) else rdX v j i := by
  induction ws generalizing v with
  | nil => simp [lastOf_nil]
  | cons e r ih =>
    have he : e.1 < 64 := hw e (by simp)
    rw [List.foldl_cons, ih (fun e he => hw e (by simp [he])), lastOf_cons, rdX_wrX]
    by_cases hj : j = l
    · subst hj
      simp only [if_true]
      by_cases hk : e.1 = i
      · simp [hk]
      · rw [if_neg (by omega), if_neg hk]
    · simp only [hj, if_false]
      rw [if_neg (by omega)]

theorem rdP_foldl_wrP (ws : List (Nat × Bool)) (v : Vers) (l j i : Nat) (hi : i < 7) :
    rdP (ws.foldl (fun v e => wrP v l e.1 e.2) v) j i = if j = l then lastOf ws i (rdP v j i) else rdP v j i := by
  induction ws generalizing v with
  | nil => simp [lastOf_nil]
  | cons e r ih =>
    rw [List.foldl_cons, ih, lastOf_cons, rdP_wrP _ _ _ _ _ _ hi]
    by_cases hj : j = l
    · subst hj
      simp only [if_true]
      by_cases hk : e.1 = i
      · simp [hk, hi]
      · rw [if_neg (by omega), if_neg hk]
    · simp only [hj, if_false]
      rw [if_neg (by omega)]

theorem rdPend_foldl_setPend (ws : List (Nat × Nat)) (hw : ∀ e ∈ ws, e.1 < 64) (v : Vers) (l j i : Nat) (hi : i < 64) :
    rdPend (ws.foldl (fun v e => setPend v l e.1 e.2) v) j i = if j = l then lastOf ws i (rdPend v j i) else rdPend v j i := by
  induction ws generalizing v with
  | nil => simp [lastOf_nil]
  | cons e r ih =>
    have he : e.1 < 64 := hw e (by simp)
    rw [List.foldl_cons, ih (fun e he => hw e (by simp [he])), lastOf_cons, rdPend_setPend]
    by_cases hj : j = l
    · subst hj
      simp only [if_true]
      by_cases hk : e.1 = i
      · simp [hk]
      · rw [if_neg (by omega), if_neg hk]
    · simp only [hj, if_false]
      rw [if_neg (by omega)]

theorem rdPend_foldl_wrX (ws : List (Nat × Word)) (hw : ∀ e ∈ ws, e.1 < 64) (v : Vers) (l j i : Nat) (hi : i < 64) :
    rdPend (ws.foldl (fun v e => wrX v l e.1 e.2) v) j i =
      if j = l ∧ i ∈ ws.map Prod.fst then 0 else rdPend v j i := by
  induction ws generalizing v with
  | nil => simp
  | cons e r ih =>
    have he : e.1 < 64 := hw e (by simp)
    rw [List.foldl_cons, ih (fun e he => hw e (by simp [he])), rdPend_wrX]
    by_cases hj : j = l
    · subst hj
      by_cases hk : e.1 = i
      · subst hk; simp
      · by_cases hm : i ∈ r.map Prod.fst
        · simp only [List.map_cons, List.mem_cons, hm, or_true, and_self, if_true]
        · rw [if_neg (by simp [hm]), if_neg (by omega), if_neg (by simp only [List.map_cons, List.mem_cons]; rintro ⟨-, h | h⟩; exact hk h.symm; exact hm h)]
    · rw [if_neg (by simp [hj]), if_neg (by omega), if_neg (by simp [hj])]

@[simp] theorem rdP_foldl_wrX (ws : List (Nat × Word)) (v : Vers) (l j i : Nat) :
    rdP (ws.foldl (fun v e => wrX v l e.1 e.2) v) j i = rdP v j i := by
  induction ws generalizing v with | nil => rfl | cons e r ih => rw [List.foldl_cons, ih, rdP_wrX]
@[simp] theorem rdX_foldl_wrP (ws : List (Nat × Bool)) (v : Vers) (l j i : Nat) :
    rdX (ws.foldl (fun v e => wrP v l e.1 e.2) v) j i = rdX v j i := by
  induction ws generalizing v with | nil => rfl | cons e r ih => rw [List.foldl_cons, ih, rdX_wrP]
@[simp] theorem rdPend_foldl_wrP (ws : List (Nat × Bool)) (v : Vers) (l j i : Nat) :
    rdPend (ws.foldl (fun v e => wrP v l e.1 e.2) v) j i = rdPend v j i := by
  induction ws generalizing v with | nil => rfl | cons e r ih => rw [List.foldl_cons, ih, rdPend_wrP]
@[simp] theorem rdX_foldl_setPend (ws : List (Nat × Nat)) (v : Vers) (l j i : Nat) :
    rdX (ws.foldl (fun v e => setPend v l e.1 e.2) v) j i = rdX v j i := by
  induction ws generalizing v with | nil => rfl | cons e r ih => rw [List.foldl_cons, ih, rdX_setPend]
@[simp] theorem rdP_foldl_setPend (ws : List (Nat × Nat)) (v : Vers) (l j i : Nat) :
    rdP (ws.foldl (fun v e => setPend v l e.1 e.2) v) j i = rdP v j i := by
  induction ws generalizing v with | nil => rfl | cons e r ih => rw [List.foldl_cons, ih, rdP_setPend]

theorem keep_foldl_wrX (ws : List (Nat × Word)) (v : Vers) (l : Nat) :
    (ws.foldl (fun v e => wrX v l e.1 e.2) v).clk = v.clk ∧ (ws.foldl (fun v e => wrX v l e.1 e.2) v).qb = v.qb
      ∧ (ws.foldl (fun v e => wrX v l e.1 e.2) v).uni = v.uni := by
  induction ws generalizing v with | nil => exact ⟨rfl, rfl, rfl⟩ | cons e r ih => exact ih _
theorem keep_foldl_wrP (ws : List (Nat × Bool)) (v : Vers) (l : Nat) :
    (ws.foldl (fun v e => wrP v l e.1 e.2) v).clk = v.clk ∧ (ws.foldl (fun v e => wrP v l e.1 e.2) v).qb = v.qb
      ∧ (ws.foldl (fun v e => wrP v l e.1 e.2) v).uni = v.uni := by
  induction ws generalizing v with
  | nil => exact ⟨rfl, rfl, rfl⟩
  | cons e r ih => have := ih (wrP v l e.1 e.2); simpa using this
theorem keep_foldl_setPend (ws : List (Nat × Nat)) (v : Vers) (l : Nat) :
    (ws.foldl (fun v e => setPend v l e.1 e.2) v).clk = v.clk ∧ (ws.foldl (fun v e => setPend v l e.1 e.2) v).qb = v.qb
      ∧ (ws.foldl (fun v e => setPend v l e.1 e.2) v).uni = v.uni := by
  induction ws generalizing v with | nil => exact ⟨rfl, rfl, rfl⟩ | cons e r ih => exact ih _

theorem uni_foldl (u : Bool) (ks : List Nat) (hk : ∀ k ∈ ks, k < 64) (m : DWord) (i : Nat) (hi : i < 64) :
    (ks.foldl (fun m k => if u then m ||| BitVec.ofNat 64 (2 ^ k) else m &&& ~~~(BitVec.ofNat 64 (2 ^ k))) m).getLsbD i =
      if i ∈ ks then u else m.getLsbD i := by
  induction ks generalizing m with
  | nil => simp
  | cons k r ih =>
    have hk' : k < 64 := hk k (by simp)
    rw [List.foldl_cons, ih fun k h => hk k (by simp [h])]
    by_cases hm : i ∈ r
    · simp [hm]
    · rw [if_neg hm]
      have hb := bit64 k i hk'
      generalize BitVec.ofNat 64 (2 ^ k) = b at hb
      by_cases h : i = k
      · subst h
        cases u <;> simp [BitVec.getLsbD_or, BitVec.getLsbD_and, BitVec.getLsbD_not, hb]
      · have hb' : b.getLsbD i = false := by simp [hb, h]
        have hi' : decide (i < 64) = true := by simp [hi]
        simp only [List.mem_cons, h, hm, or_self, if_false]
        cases u
        · rw [if_neg (by decide), BitVec.getLsbD_and, BitVec.getLsbD_not, hb', hi', Bool.not_false, Bool.and_self, Bool.and_true]
        · rw [if_pos rfl, BitVec.getLsbD_or, hb', Bool.or_false]

/-- What one lane does to the registers. -/
theorem applyLane_spec (u : Bool) (q : Group) (l : Nat) (o : LaneOut) (ho : OutOk o) :
    (∀ j i, i < 64 → rdX (applyLane u q l o).work j i = if j = l then lastOf o.wx i (rdX q.work j i) else rdX q.work j i)
    ∧ (∀ j i, i < 7 → rdP (applyLane u q l o).work j i = if j = l then lastOf o.wp i (rdP q.work j i) else rdP q.work j i)
    ∧ (∀ j i, i < 64 → rdPend (applyLane u q l o).work j i =
        if j = l then lastOf o.pend i (if i ∈ o.wx.map Prod.fst then 0 else rdPend q.work j i) else rdPend q.work j i)
    ∧ (∀ i, i < 64 → (applyLane u q l o).work.uni.getLsbD i = if i ∈ o.regs then u else q.work.uni.getLsbD i)
    ∧ (applyLane u q l o).work.clk = q.work.clk ∧ (applyLane u q l o).work.qb = q.work.qb
    ∧ (applyLane u q l o) = { q with work := (applyLane u q l o).work, sbw := q.sbw ++ o.sbw } := by
  obtain ⟨h1, h3⟩ := ho
  have a := keep_foldl_wrX o.wx q.work l
  have b := keep_foldl_wrP o.wp (o.wx.foldl (fun v e => wrX v l e.1 e.2) q.work) l
  have c := keep_foldl_setPend o.pend (o.wp.foldl (fun v e => wrP v l e.1 e.2) (o.wx.foldl (fun v e => wrX v l e.1 e.2) q.work)) l
  refine ⟨fun j i hi => ?_, fun j i hi => ?_, fun j i hi => ?_, fun i hi => ?_, ?_, ?_, rfl⟩
  · show rdX (o.pend.foldl _ (o.wp.foldl _ (o.wx.foldl _ q.work))) j i = _
    rw [rdX_foldl_setPend, rdX_foldl_wrP, rdX_foldl_wrX _ h1 _ _ _ _ hi]
  · show rdP (o.pend.foldl _ (o.wp.foldl _ (o.wx.foldl _ q.work))) j i = _
    rw [rdP_foldl_setPend, rdP_foldl_wrP _ _ _ _ _ hi, rdP_foldl_wrX]
  · show rdPend (o.pend.foldl _ (o.wp.foldl _ (o.wx.foldl _ q.work))) j i = _
    rw [rdPend_foldl_setPend _ h3 _ _ _ _ hi, rdPend_foldl_wrP, rdPend_foldl_wrX _ h1 _ _ _ _ hi]
    by_cases hj : j = l <;> simp [hj]
  · show (List.foldl _ (o.pend.foldl _ (o.wp.foldl _ (o.wx.foldl _ q.work))).uni o.regs).getLsbD i = _
    rw [uni_foldl u o.regs ?_ _ i hi, c.2.2, b.2.2, a.2.2]
    intro k hk
    simp only [LaneOut.regs, List.mem_append, List.mem_map] at hk
    rcases hk with ⟨e, he, rfl⟩ | ⟨e, he, rfl⟩
    · exact h1 e he
    · exact h3 e he
  · exact c.1.trans (b.1.trans a.1)
  · exact c.2.1.trans (b.2.1.trans a.2.1)

/-- What all acting lanes do to the registers, in the order of a list of lanes without repeats. -/
theorem applyLanes_spec (u : Bool) (out : Nat → LaneOut) (ls : List Nat) (hn : ls.Nodup) (ho : ∀ l ∈ ls, OutOk (out l)) (q : Group) :
    let q' := ls.foldl (fun q l => applyLane u q l (out l)) q
    (∀ j i, i < 64 → rdX q'.work j i = if j ∈ ls then lastOf (out j).wx i (rdX q.work j i) else rdX q.work j i)
    ∧ (∀ j i, i < 7 → rdP q'.work j i = if j ∈ ls then lastOf (out j).wp i (rdP q.work j i) else rdP q.work j i)
    ∧ (∀ j i, i < 64 → rdPend q'.work j i =
        if j ∈ ls then lastOf (out j).pend i (if i ∈ (out j).wx.map Prod.fst then 0 else rdPend q.work j i) else rdPend q.work j i)
    ∧ (∀ i, i < 64 → q'.work.uni.getLsbD i = if ls.any (fun l => (out l).regs.contains i) then u else q.work.uni.getLsbD i)
    ∧ q'.work.clk = q.work.clk ∧ q'.work.qb = q.work.qb
    ∧ q' = { q with work := q'.work, sbw := q.sbw ++ (ls.map fun l => (out l).sbw).flatten } := by
  induction ls generalizing q with
  | nil => simp
  | cons l r ih =>
    obtain ⟨hl, hr⟩ := List.nodup_cons.1 hn
    have a := applyLane_spec u q l (out l) (ho l (by simp))
    have b := ih hr (fun j hj => ho j (by simp [hj])) (applyLane u q l (out l))
    simp only at b ⊢
    refine ⟨fun j i hi => ?_, fun j i hi => ?_, fun j i hi => ?_, fun i hi => ?_, ?_, ?_, ?_⟩
    · rw [List.foldl_cons, b.1 j i hi, a.1 j i hi]
      by_cases hj : j = l
      · subst hj; simp [hl]
      · simp [hj]
    · rw [List.foldl_cons, b.2.1 j i hi, a.2.1 j i hi]
      by_cases hj : j = l
      · subst hj; simp [hl]
      · simp [hj]
    · rw [List.foldl_cons, b.2.2.1 j i hi, a.2.2.1 j i hi]
      by_cases hj : j = l
      · subst hj; simp [hl]
      · simp [hj]
    · rw [List.foldl_cons, b.2.2.2.1 i hi, a.2.2.2.1 i hi]
      by_cases h1 : r.any (fun l => (out l).regs.contains i) = true
      · simp only [List.any_cons, h1, Bool.or_true, if_true]
      · by_cases h2 : i ∈ (out l).regs
        · simp [h2]
        · simp only [List.any_cons, Bool.not_eq_true _ ▸ h1, h2, if_false]; simp [h2]
    · rw [List.foldl_cons, b.2.2.2.2.1, a.2.2.2.2.1]
    · rw [List.foldl_cons, b.2.2.2.2.2.1, a.2.2.2.2.2.1]
    · have e := b.2.2.2.2.2.2
      rw [List.foldl_cons, e]
      have e2 := a.2.2.2.2.2.2
      rw [e2]
      simp [List.append_assoc]

/-- Writes of lane l keep what is on its way and add only what was on its way to the registers that they name. -/
theorem ghost_foldl {α : Type} (f : Vers → Nat × α → Vers) (l : Nat)
    (hf : ∀ v e, (f v e).ghost = v.ghost ∨ ∃ n, (f v e).ghost = (64 * l + e.1, n) :: v.ghost) (ws : List (Nat × α)) (hw : ∀ e ∈ ws, e.1 < 64) (v : Vers) :
    (∀ x ∈ v.ghost, x ∈ (ws.foldl f v).ghost)
    ∧ ∀ j k n, k < 64 → (64 * j + k, n) ∈ (ws.foldl f v).ghost → (64 * j + k, n) ∈ v.ghost ∨ (j = l ∧ k ∈ ws.map Prod.fst) := by
  induction ws generalizing v with
  | nil => exact ⟨fun _ h => h, fun _ _ _ _ h => .inl h⟩
  | cons e r ih =>
    obtain ⟨a, b⟩ := ih (fun x h => hw x (by simp [h])) (f v e)
    have he := hw e (by simp)
    refine ⟨fun x hx => a x ?_, fun j k n hk h => ?_⟩
    · rcases hf v e with q | ⟨n, q⟩ <;> rw [q]
      · exact hx
      · exact List.mem_cons_of_mem _ hx
    · rcases b j k n hk h with h' | ⟨h1, h2⟩
      · rcases hf v e with q | ⟨m, q⟩ <;> rw [q] at h'
        · exact .inl h'
        · rcases List.mem_cons.1 h' with h' | h'
          · have := congrArg Prod.fst h'
            simp only at this
            exact .inr ⟨by omega, by simp [show k = e.1 by omega]⟩
          · exact .inl h'
      · exact .inr ⟨h1, by simp only [List.map_cons, List.mem_cons]; exact .inr h2⟩

theorem ghosts_or (v : Vers) (l k : Nat) : ghosts v l k = v.ghost ∨ ∃ n, ghosts v l k = (64 * l + k, n) :: v.ghost := by
  unfold ghosts
  simp only
  split
  · exact .inl rfl
  · exact .inr ⟨_, rfl⟩

theorem ghost_foldl_wrP (ws : List (Nat × Bool)) (v : Vers) (l : Nat) : (ws.foldl (fun v e => wrP v l e.1 e.2) v).ghost = v.ghost := by
  induction ws generalizing v with
  | nil => rfl
  | cons e r ih => rw [List.foldl_cons, ih]; unfold wrP; split <;> rfl

theorem applyLane_ghost (u : Bool) (q : Group) (l : Nat) (o : LaneOut) (ho : OutOk o) :
    (∀ x ∈ q.work.ghost, x ∈ (applyLane u q l o).work.ghost)
    ∧ ∀ j k n, k < 64 → (64 * j + k, n) ∈ (applyLane u q l o).work.ghost → (64 * j + k, n) ∈ q.work.ghost ∨ (j = l ∧ k ∈ o.regs) := by
  obtain ⟨h1, h3⟩ := ho
  have a := ghost_foldl (fun v e => wrX v l e.1 e.2) l (fun v e => ghosts_or v l e.1) o.wx h1 q.work
  have b := ghost_foldl_wrP o.wp (o.wx.foldl (fun v e => wrX v l e.1 e.2) q.work) l
  have c := ghost_foldl (fun v e => setPend v l e.1 e.2) l (fun v e => ghosts_or v l e.1) o.pend h3
    (o.wp.foldl (fun v e => wrP v l e.1 e.2) (o.wx.foldl (fun v e => wrX v l e.1 e.2) q.work))
  rw [b] at c
  refine ⟨fun x hx => c.1 x (a.1 x hx), fun j k n hk h => ?_⟩
  rcases c.2 j k n hk h with h | ⟨h, h'⟩
  · rcases a.2 j k n hk h with h | ⟨h, h'⟩
    · exact .inl h
    · exact .inr ⟨h, List.mem_append.2 (.inl h')⟩
  · exact .inr ⟨h, List.mem_append.2 (.inr h')⟩

theorem applyLanes_ghost (u : Bool) (out : Nat → LaneOut) (ls : List Nat) (ho : ∀ l ∈ ls, OutOk (out l)) (q : Group) :
    (∀ x ∈ q.work.ghost, x ∈ (ls.foldl (fun q l => applyLane u q l (out l)) q).work.ghost)
    ∧ ∀ j k n, k < 64 → (64 * j + k, n) ∈ (ls.foldl (fun q l => applyLane u q l (out l)) q).work.ghost →
        (64 * j + k, n) ∈ q.work.ghost ∨ (j ∈ ls ∧ k ∈ (out j).regs) := by
  induction ls generalizing q with
  | nil => exact ⟨fun _ h => h, fun _ _ _ _ h => .inl h⟩
  | cons l r ih =>
    have a := applyLane_ghost u q l (out l) (ho l (by simp))
    have b := ih (fun j hj => ho j (by simp [hj])) (applyLane u q l (out l))
    refine ⟨fun x hx => b.1 x (a.1 x hx), fun j k n hk h => ?_⟩
    rcases b.2 j k n hk h with h | ⟨h, h'⟩
    · rcases a.2 j k n hk h with h | ⟨rfl, h'⟩
      · exact .inl h
      · exact .inr ⟨by simp, h'⟩
    · exact .inr ⟨by simp [h], h'⟩

/-! ### What the trace notes -/

theorem sget_foldl_sset {α β : Type} [DecidableEq α] (d : α) (f : β → Nat) (v : α) (xs : List β) (m : SMap α) (j : Nat) :
    sget d (xs.foldl (fun m e => sset d m (f e) v) m) j = if j ∈ xs.map f then v else sget d m j := by
  induction xs generalizing m with
  | nil => simp
  | cons e r ih =>
    rw [List.foldl_cons, ih, sget_sset]
    by_cases h : j ∈ r.map f
    · simp [h]
    · by_cases he : j = f e
      · simp [he]
      · simp only [h, he, if_false, List.map_cons, List.mem_cons, or_self]

theorem mem_keys (l j i : Nat) (ks : List Nat) (hk : ∀ k ∈ ks, k < 64) (hi : i < 64) :
    64 * j + i ∈ ks.map (fun k => 64 * l + k) ↔ j = l ∧ i ∈ ks := by
  simp only [List.mem_map]
  constructor
  · rintro ⟨k, hm, e⟩
    have := hk k hm
    obtain ⟨rfl, rfl⟩ : j = l ∧ i = k := by omega
    exact ⟨rfl, hm⟩
  · rintro ⟨rfl, hm⟩
    exact ⟨i, hm, rfl⟩

theorem OutOk.regs {o : LaneOut} (h : OutOk o) : ∀ k ∈ o.regs, k < 64 := by
  intro k hk
  simp only [LaneOut.regs, List.mem_append, List.mem_map] at hk
  rcases hk with ⟨e, he, rfl⟩ | ⟨e, he, rfl⟩
  · exact h.1 e he
  · exact h.2 e he

theorem noteLanes_spec (out : Nat → LaneOut) (ls : List Nat) (hn : ls.Nodup) (h32 : ∀ l ∈ ls, l < 32) (ho : ∀ l ∈ ls, OutOk (out l)) (r : Run) :
    let r' := ls.foldl (fun r l => noteLane r l (out l)) r
    (r'.bufs = r.bufs ++ (ls.map fun l => (out l).effs).flatten)
    ∧ (∀ l, l < 32 → r'.exm.getLsbD l = (r.exm.getLsbD l && !(ls.contains l && (out l).leave.isSome)))
    ∧ (∀ l, l < 32 → sget none r'.leaves l = if ls.contains l && (out l).leave.isSome then (out l).leave else sget none r.leaves l)
    ∧ (∀ l k, l < 32 → k < 64 → sget false r'.dyingX (64 * l + k) =
        if ls.contains l && (out l).regs.contains k then false else sget false r.dyingX (64 * l + k))
    ∧ r' = { r with bufs := r'.bufs, exm := r'.exm, leaves := r'.leaves, dyingX := r'.dyingX, dyingP := r'.dyingP, written := r'.written
                    wrote := r'.wrote, vread := r'.vread } := by
  induction ls generalizing r with
  | nil => simp
  | cons l ls ih =>
    obtain ⟨hl, hr⟩ := List.nodup_cons.1 hn
    have b := ih hr (fun j hj => h32 j (by simp [hj])) (fun j hj => ho j (by simp [hj])) (noteLane r l (out l))
    have hl32 := h32 l (by simp)
    have hol := (ho l (by simp)).regs
    simp only [List.foldl_cons] at b ⊢
    obtain ⟨b1, b2, b3, b4, b5⟩ := b
    refine ⟨?_, fun j hj => ?_, fun j hj => ?_, fun j k hj hk => ?_, ?_⟩
    · rw [b1]; simp [noteLane]
    · rw [b2 j hj]
      by_cases h : j = l
      · subst h
        by_cases hs : (out j).leave.isSome = true
        · have hb := laneBit_getLsbD j j hj hj
          have e : (noteLane r j (out j)).exm.getLsbD j = false := by
            simp only [noteLane, hs, if_true]
            rw [BitVec.getLsbD_and, BitVec.getLsbD_not, hb]
            simp
          rw [e]; simp [hs]
        · simp [noteLane, hs, hl]
      · have hb := laneBit_getLsbD l j hl32 hj
        by_cases hs : (out l).leave.isSome = true
        · have e : (noteLane r l (out l)).exm.getLsbD j = r.exm.getLsbD j := by
            simp only [noteLane, hs, if_true]
            rw [BitVec.getLsbD_and, BitVec.getLsbD_not, hb]
            simp [h, hj]
          rw [e]; simp [h]
        · have e : (noteLane r l (out l)).exm = r.exm := by simp [noteLane, hs]
          rw [e]; simp [h]
    · rw [b3 j hj]
      by_cases h : j = l
      · subst h
        by_cases hs : (out j).leave.isSome = true
        · simp [noteLane, hs, hl]
        · simp [noteLane, hs, hl]
      · have e : sget none (noteLane r l (out l)).leaves j = sget none r.leaves j := by
          simp only [noteLane]
          split
          · rw [sget_sset_ne _ _ _ h]
          · rfl
        rw [e]; simp [h]
    · rw [b4 j k hj hk]
      have e : sget false (noteLane r l (out l)).dyingX (64 * j + k) =
          if j = l ∧ k ∈ (out l).regs then false else sget false r.dyingX (64 * j + k) := by
        show sget false (List.foldl _ r.dyingX (out l).regs) _ = _
        rw [sget_foldl_sset]
        simp only [mem_keys l j k (out l).regs hol hk]
      rw [e]
      by_cases h : j = l
      · subst h; simp [hl]
      · simp [h]
    · rw [b5]; rfl

/-- The registers of one operand die for every lane of EXM (R97). -/
theorem dying_one (r : Run) (k0 : Fin 64) (n : Nat) (hn : ∀ k ∈ opndRegs (.x k0) n, k < 64) (ls : List Nat) :
    let r' := ls.foldl (fun r l => { r with dyingX := (opndRegs (.x k0) n).foldl (fun m k => sset false m (64 * l + k) true) r.dyingX }) r
    (∀ l k, k < 64 → sget false r'.dyingX (64 * l + k) =
      (ls.contains l && (opndRegs (.x k0) n).contains k || sget false r.dyingX (64 * l + k))) ∧ r' = { r with dyingX := r'.dyingX } := by
  induction ls generalizing r with
  | nil => simp
  | cons l ls ih =>
    have b := ih { r with dyingX := (opndRegs (.x k0) n).foldl (fun m k => sset false m (64 * l + k) true) r.dyingX }
    simp only [List.foldl_cons] at b ⊢
    refine ⟨fun j k hk => ?_, ?_⟩
    · rw [b.1 j k hk, sget_foldl_sset]
      simp only [mem_keys l j k _ hn hk]
      by_cases h : j = l
      · subst h
        by_cases hm : k ∈ opndRegs (.x k0) n <;> simp [hm]
      · simp [h]
    · rw [b.2]

/-- Registers that an operand of a shape names are x registers. -/
def ShapeOk (h : Hd) (sh : Shape) : Prop := ∀ k ∈ srcRegs h sh, k < 64

/-- The registers of an operand with its L bit die for every lane of EXM (R97). -/
def dieOne (r : Run) (b : Bool) (o : Opnd) (n : Nat) : Run :=
  if !b then r
  else
    (lanesOf r.exm).foldl (fun r l =>
      match o with
      | .x _ => { r with dyingX := (opndRegs o n).foldl (fun m k => sset false m (64 * l + k) true) r.dyingX }
      | .p k => { r with dyingP := sset false r.dyingP (8 * l + k.val) true }
      | _ => r) r

theorem dieOne_spec (r : Run) (b : Bool) (o : Opnd) (n : Nat) (hn : ∀ k ∈ opndRegs o n, k < 64) :
    (∀ l k, l < 32 → k < 64 → sget false (dieOne r b o n).dyingX (64 * l + k) =
      (r.exm.getLsbD l && (if b then opndRegs o n else []).contains k || sget false r.dyingX (64 * l + k)))
    ∧ dieOne r b o n = { r with dyingX := (dieOne r b o n).dyingX, dyingP := (dieOne r b o n).dyingP } := by
  have keep : ∀ (ls : List Nat) (r : Run), ls.foldl (fun r _ => r) r = r := by
    intro ls; induction ls with | nil => intro r; rfl | cons _ _ ih => intro r; exact ih r
  unfold dieOne
  cases b with
  | false => simp
  | true =>
    simp only [Bool.not_true, Bool.false_eq_true, if_false, if_true]
    cases o with
    | x k0 =>
      have d := dying_one r k0 n hn (lanesOf r.exm)
      simp only at d ⊢
      refine ⟨fun l k hl hk => ?_, ?_⟩
      · rw [d.1 l k hk]
        congr 2
        by_cases hx : r.exm.getLsbD l = true
        · rw [hx]; simpa [mem_lanesOf, hl] using hx
        · have : r.exm.getLsbD l = false := by simpa using hx
          rw [this]; simpa [mem_lanesOf, hl] using hx
      · have : ∀ (ls : List Nat) (r : Run), (ls.foldl (fun r l => { r with dyingX := (opndRegs (.x k0) n).foldl (fun m k => sset false m (64 * l + k) true) r.dyingX }) r).dyingP = r.dyingP := by
          intro ls; induction ls with | nil => intro r; rfl | cons _ _ ih => intro r; rw [List.foldl_cons, ih]
        rw [this]
        exact d.2
    | p k0 =>
      have : ∀ (ls : List Nat) (r : Run), (ls.foldl (fun r l => { r with dyingP := sset false r.dyingP (8 * l + k0.val) true }) r)
          = { r with dyingP := (ls.foldl (fun r l => { r with dyingP := sset false r.dyingP (8 * l + k0.val) true }) r).dyingP } := by
        intro ls; induction ls with | nil => intro r; rfl | cons _ _ ih => intro r; rw [List.foldl_cons, ih]
      simp only
      rw [this]
      simp [opndRegs]
    | q _ => simp only [keep]; simp [opndRegs]
    | rsvA _ => simp only [keep]; simp [opndRegs]
    | a _ => simp only [keep]; simp [opndRegs]
    | rsvB _ => simp only [keep]; simp [opndRegs]
    | imm => simp only [keep]; simp [opndRegs]

theorem markDying_spec (r : Run) (h : Hd) (sh : Shape) (hs : ShapeOk h sh) :
    (∀ l k, l < 32 → k < 64 → sget false (markDying r h sh).dyingX (64 * l + k) =
      (r.exm.getLsbD l && (lRegs h sh).contains k || sget false r.dyingX (64 * l + k)))
    ∧ markDying r h sh = { r with dyingX := (markDying r h sh).dyingX, dyingP := (markDying r h sh).dyingP } := by
  have e : markDying r h sh = dieOne (dieOne (dieOne r h.la h.sa sh.na) h.lb h.sb sh.nb) h.lc h.sc sh.nc := rfl
  have a := dieOne_spec r h.la h.sa sh.na fun k hk => hs k (by simp [srcRegs, hk])
  have b := dieOne_spec (dieOne r h.la h.sa sh.na) h.lb h.sb sh.nb fun k hk => hs k (by simp [srcRegs, hk])
  have c := dieOne_spec (dieOne (dieOne r h.la h.sa sh.na) h.lb h.sb sh.nb) h.lc h.sc sh.nc fun k hk => hs k (by simp [srcRegs, hk])
  rw [e]
  generalize dieOne r h.la h.sa sh.na = r1 at *
  generalize dieOne r1 h.lb h.sb sh.nb = r2 at *
  generalize dieOne r2 h.lc h.sc sh.nc = r3 at *
  have e1 : r1.exm = r.exm := by rw [a.2]
  have e2 : r2.exm = r.exm := by rw [b.2]; exact e1
  refine ⟨fun l k hl hk => ?_, ?_⟩
  · rw [c.1 l k hl hk, b.1 l k hl hk, a.1 l k hl hk, e1, e2, lRegs]
    simp only [List.contains_eq_mem, List.mem_append, Bool.decide_or]
    generalize r.exm.getLsbD l = x
    generalize sget false r.dyingX (64 * l + k) = y
    generalize decide (k ∈ if h.la = true then opndRegs h.sa sh.na else []) = u
    generalize decide (k ∈ if h.lb = true then opndRegs h.sb sh.nb else []) = v
    generalize decide (k ∈ if h.lc = true then opndRegs h.sc sh.nc else []) = w
    revert x y u v w; decide
  · rw [c.2, b.2, a.2]

/-! ### The issue -/

theorem maskOf_congr {f g : Nat → Bool} (h : ∀ l, l < 32 → f l = g l) : maskOf f = maskOf g := by
  apply BitVec.eq_of_getLsbD_eq
  intro j hj
  rw [maskOf_getLsbD, maskOf_getLsbD, h j hj]

/-- The lanes of an outcome that stay in the mask. -/
def stays (act : Mask) (out : Nat → LaneOut) : Mask := maskOf fun l => act.getLsbD l && (out l).leave.isNone

/-- The outcomes of the acting lanes in lane order. -/
def outsOf (act : Mask) (out : Nat → LaneOut) : List (Nat × LaneOut) := (lanesOf act).map fun l => (l, out l)

theorem staying_outs (act : Mask) (out : Nat → LaneOut) : staying (outsOf act out) = stays act out := by
  refine maskOf_congr fun l hl => ?_
  rw [Bool.eq_iff_iff]
  simp only [outsOf, List.any_eq_true, List.mem_map, Bool.and_eq_true, decide_eq_true_eq]
  constructor
  · rintro ⟨e, ⟨j, hj, rfl⟩, rfl, hp⟩
    exact ⟨((mem_lanesOf _ _).1 hj).2, hp⟩
  · rintro ⟨hm, hp⟩
    exact ⟨(l, out l), ⟨l, (mem_lanesOf _ _).2 ⟨hl, hm⟩, rfl⟩, rfl, hp⟩

theorem laneTraps_outs {c : Ctx1} {act : Mask} {out : Nat → LaneOut} (h : ∀ l ∈ lanesOf act, ∀ t, (out l).leave ≠ some (.trap t)) :
    laneTraps c (outsOf act out) = [] := by
  unfold laneTraps outsOf
  rw [List.filterMap_eq_nil_iff]
  intro e he
  obtain ⟨l, hl, rfl⟩ := List.mem_map.1 he
  simp only
  split
  · rename_i t ht; exact absurd ht (h l hl t)
  · rfl

theorem goneCount_outs (act : Mask) (out : Nat → LaneOut) : goneCount (outsOf act out) =
    ((lanesOf act).filter fun l => (out l).gone).length := by
  unfold goneCount outsOf
  induction lanesOf act with
  | nil => rfl
  | cons l r ih =>
    simp only [List.map_cons, List.filter_cons]
    split <;> simp [ih]

theorem finishLane_eq (c : Ctx1) (l : Nat) (once : Bool) (o : LaneOut) (ht : ∀ t, o.leave ≠ some (.trap t))
    (hl : ∀ v, o.leave = some v → o = { leave := some v })
    (hr : bufCount c.r l + (o.effs.filter fun b => takesEntry b.eff).length + (if once && o.leave.isNone then 1 else 0) ≤ 16) :
    finishLane c l once o = o := by
  unfold finishLane
  cases hv : o.leave with
  | none =>
    simp only [hv, Option.isNone_none] at hr ⊢
    rw [if_neg (by omega)]
  | some v =>
    have e := hl v hv
    rw [hv] at hr
    cases v with
    | trap t => exact absurd hv (ht t)
    | stop => rw [e] at hr ⊢; simp at hr ⊢; omega
    | alt t => rw [e] at hr ⊢; simp at hr ⊢; omega
    | fault a k w => rw [e] at hr ⊢; simp at hr ⊢; omega

/-- Nothing holds the instruction back, it makes no one wait, and its path raises nothing. -/
structure Goes (s s1 : State) (h : Hd) (i : Ins) (r : Run) (m : SMap Word) (ps : List Pop) : Prop where
  issues : Issues s s1 h i.sh r m ps (!i.crossA)
  wait : i.wait (cx s s1 h r m) = none
  uni : ∀ e ∈ i.uni, ∀ k ∈ opndRegs e.1 e.2, differs (curG s).work (acts s h r) k = false
  always : i.always (cx s s h r []) = none
  path : acts s h r ≠ 0 → i.path (cx s s h r []) = none
  stop : acts s h r ≠ 0 → i.stop (cx s s1 h r m) = none
  watch : i.acc = none ∨ debugged s1 (curG s) = false

/-- What an acting lane does, its trap completed and its room checked. -/
def outOf (c : Ctx1) (i : Ins) (l : Nat) : LaneOut := finishLane c l (onceEntry c i) (i.body c l)

theorem laneOuts_eq {s s1 : State} {h : Hd} {i : Ins} {r : Run} {m : SMap Word} {ps : List Pop} (c : Goes s s1 h i r m ps) :
    laneOuts (cx s s1 h r m) i [] = (lanesOf (acts s h r)).map fun l => (l, outOf (cx s s1 h r m) i l, none) := by
  unfold laneOuts
  refine List.map_congr_left fun l hl => ?_
  have hw : watchOf (cx s s1 h r m) i l = none := by
    unfold watchOf
    rcases c.watch with hn | hd
    · rw [hn]
    · cases i.acc with
      | none => rfl
      | some a =>
        have hd' : debugged (cx s s1 h r m).s (cx s s1 h r m).q = false := hd
        simp only; rw [if_neg]; simp [hd']
  simp only [List.find?_nil, hw, ite_self]
  rfl

theorem issueNow_eq {s s1 : State} {h : Hd} {i : Ins} {r : Run} {m : SMap Word} {ps : List Pop} (c : Goes s s1 h i r m ps) :
    issueNow s (cx s s1 h r m) i ps [] = issueLanes (cx s s1 h r m) i ps (outsOf (acts s h r) (outOf (cx s s1 h r m) i)) := by
  unfold issueNow
  have hs : (if (cx s s1 h r m).act = 0 then none else i.stop (cx s s1 h r m)) = none := by
    by_cases hz : (cx s s1 h r m).act = 0
    · rw [if_pos hz]
    · rw [if_neg hz]; exact c.stop hz
  rw [hs, laneOuts_eq c]
  have hf : ((lanesOf (acts s h r)).map fun l => (l, outOf (cx s s1 h r m) i l, (none : Option (Nat × Nat × Nat)))).filterMap (fun e => e.2.2) = [] := by
    rw [List.filterMap_eq_nil_iff]
    intro e he
    obtain ⟨l, _, rfl⟩ := List.mem_map.1 he
    rfl
  simp only [hf, List.map_map, List.foldl_nil]
  rfl

theorem heldBack_none {s s1 : State} {h : Hd} {i : Ins} {r : Run} {m : SMap Word} {ps : List Pop}
    (c : Issues s s1 h i.sh r m ps (!i.crossA)) : heldBack (ctxOf s h r) i = none := by
  have hset := c.settled
  have hsh : ownRegs (ctxOf s h r) i = srcRegs h (if (!i.crossA) = true then i.sh else { i.sh with na := 0 }) := by
    unfold ownRegs; cases i.crossA <;> rfl
  unfold heldBack
  rw [if_neg, if_neg]
  · rw [hsh]
    show ¬ anyPend (curG s).work (if h.u then r.exm else acts s h r) _ isScored = true
    rw [Bool.not_eq_true]
    unfold anyPend at hset ⊢
    rw [List.any_eq_false] at hset ⊢
    intro l hl
    have := hset l hl
    simp only [List.any_eq_true, not_exists, not_and, Bool.not_eq_true] at this ⊢
    intro k hk
    have := this k hk
    simp only [Bool.or_eq_false_iff] at this
    exact this.1.1
  · show ¬ (h.s && (((curG s).work.pend ++ (curG s).com.pend ++ (curG s).work.ghost ++ (curG s).com.ghost).any fun e => (curG s).live.getLsbD (e.1 / 64) && markerWaits r e.2)) = true
    cases hs : h.s with
    | false => simp
    | true =>
      rw [Bool.true_and, Bool.not_eq_true, List.any_eq_false]
      intro e he
      by_cases hl : (curG s).live.getLsbD (e.1 / 64) = true
      · simp [c.marker hs e he hl]
      · simp [hl]

/-- What is left of the path's checks. -/
theorem pathFails_eq {s s1 : State} {h : Hd} {i : Ins} {r : Run} {m : SMap Word} {ps : List Pop}
    (c : Issues s s1 h i.sh r m ps (!i.crossA)) : pathFails (ctxOf s h r) i =
      if i.uni.any (fun e => (opndRegs e.1 e.2).any fun k => differs (curG s).work (acts s h r) k) then some { code := 4 }
      else (i.always (cx s s h r [])).orElse fun _ => if acts s h r = 0 then none else i.path (cx s s h r []) := by
  have hset := c.settled
  have hsh : ownRegs (ctxOf s h r) i = srcRegs h (if (!i.crossA) = true then i.sh else { i.sh with na := 0 }) := by
    unfold ownRegs; cases i.crossA <;> rfl
  unfold pathFails
  rw [if_neg, if_neg]
  · rfl
  · show ¬ (h.u && uniformBreak (curG s) r h i.sh) = true
    cases hs : h.u with
    | false => simp
    | true => rw [Bool.true_and, c.uniform hs]; decide
  · rw [hsh]
    have hl : lateRead (ctxOf s h r) i = false := by
      unfold lateRead
      rw [show decide ((ctxOf s h r).q.step = .inst) = false from decide_eq_false c.plain.1]
      rfl
    rw [hl, Bool.or_false, Bool.not_eq_true]
    show anyPend (curG s).work (if h.u then r.exm else acts s h r) _ _ = false
    unfold anyPend at hset ⊢
    rw [List.any_eq_false] at hset ⊢
    intro l hl
    have := hset l hl
    simp only [List.any_eq_true, not_exists, not_and, Bool.not_eq_true] at this ⊢
    intro k hk
    have := this k hk
    simp only [Bool.or_eq_false_iff] at this ⊢
    exact ⟨this.1.2, this.2⟩

theorem pathFails_none {s s1 : State} {h : Hd} {i : Ins} {r : Run} {m : SMap Word} {ps : List Pop} (c : Goes s s1 h i r m ps) :
    pathFails (ctxOf s h r) i = none := by
  rw [pathFails_eq c.issues, if_neg, c.always]
  · dsimp only [Option.orElse]
    by_cases hz : acts s h r = 0
    · exact if_pos hz
    · exact (if_neg hz).trans (c.path hz)
  · rw [Bool.not_eq_true, List.any_eq_false]
    intro e he
    simp only [List.any_eq_true, not_exists, not_and, Bool.not_eq_true]
    exact fun k hk => c.uni e he k hk

theorem feed_eq {s s1 : State} {h : Hd} {r : Run} {m : SMap Word} {ps : List Pop} (f : Feeds s s1 h r m ps) :
    feed (ctxOf s h r) = some (m, ps, s1, []) := by
  unfold Feeds at f
  unfold feed
  cases hq : qOpnd h with
  | none =>
    rw [hq] at f
    obtain ⟨rfl, rfl, rfl⟩ := f
    rw [show qOpnd (ctxOf s1 h r).h = none from hq]
    rfl
  | some n =>
    rw [hq] at f
    have hbad : (lanesOf (acts s h r)).filterMap (fun l =>
        (qCheck s (getB s (curG s).btag) (curG s) l n).map fun t => (l, t)) = [] := by
      rw [List.filterMap_eq_nil_iff]
      intro l hl
      rw [f.2.1 l hl]; rfl
    have hgood : (lanesOf (acts s h r)).filter (fun l =>
        (qCheck s (getB s (curG s).btag) (curG s) l n).isNone) = lanesOf (acts s h r) := by
      rw [List.filter_eq_self]
      intro l hl
      rw [f.2.1 l hl]; rfl
    rw [show qOpnd (ctxOf s h r).h = some n from hq]
    show (if acqOwed s s.cur (acts s h r) = true then none else (popLanes s s.cur n ((lanesOf (acts s h r)).filter (fun l => (qCheck s (getB s (curG s).btag) (curG s) l n).isNone))).map
      (fun x => (x.1, x.2.1, x.2.2, (lanesOf (acts s h r)).filterMap (fun l =>
        (qCheck s (getB s (curG s).btag) (curG s) l n).map fun t => (l, t))))) = _
    rw [f.1, if_neg Bool.false_ne_true, hgood, hbad, f.2.2]
    rfl

/-- An instruction that nothing holds back issues. -/
theorem issue_eq {s s1 : State} {h : Hd} {i : Ins} {r : Run} {m : SMap Word} {ps : List Pop} (c : Goes s s1 h i r m ps) :
    issue s h i = .next (issueLanes (cx s s1 h r m) i ps (outsOf (acts s h r) (outOf (cx s s1 h r m) i))) := by
  have hfed : issueFed (ctxOf s h r) i = issueLanes (cx s s1 h r m) i ps (outsOf (acts s h r) (outOf (cx s s1 h r m) i)) := by
    unfold issueFed
    rw [feed_eq c.issues.feeds]
    simp only
    change (match i.wait (cx s s1 h r m) with | some s' => _ | none => _) = _
    rw [c.wait]
    exact issueNow_eq c
  unfold issue
  change (match (curG s).run with | none => _ | some r => _) = _
  rw [c.issues.run]
  simp only
  rw [if_neg]
  · rw [heldBack_none c.issues, pathFails_none c, hfed]
  · have h1 := c.issues.going; have h2 := c.issues.running; have h3 := c.issues.plain
    simp only [curG] at h2 h3
    simp [h1, h2, h3.2]

/-! ### All that it does -/

theorem onlySpad_feeds {s s1 : State} {h : Hd} {r : Run} {m : SMap Word} {ps : List Pop} (f : Feeds s s1 h r m ps) : OnlySpad s s1 := by
  unfold Feeds at f
  cases hq : qOpnd h with
  | none => rw [hq] at f; obtain ⟨_, _, rfl⟩ := f; exact .refl _
  | some n => rw [hq] at f; exact onlySpad_popLanes f.2.2

theorem applyLane_foldl (u : Bool) (act : Mask) (out : Nat → LaneOut) (q : Group) :
    (outsOf act out).foldl (fun q e => applyLane u q e.1 e.2) q = (lanesOf act).foldl (fun q l => applyLane u q l (out l)) q := by
  unfold outsOf; rw [List.foldl_map]
theorem noteLane_foldl (act : Mask) (out : Nat → LaneOut) (r : Run) :
    (outsOf act out).foldl (fun r e => noteLane r e.1 e.2) r = (lanesOf act).foldl (fun r l => noteLane r l (out l)) r := by
  unfold outsOf; rw [List.foldl_map]

theorem contains_lanesOf (m : Mask) (l : Nat) (hl : l < 32) : (lanesOf m).contains l = m.getLsbD l := by
  rw [Bool.eq_iff_iff]
  simp [mem_lanesOf, hl]

/-- The running trace after an issue. -/
theorem didRun (c : Ctx1) (i : Ins) (ps : List Pop) (out : Nat → LaneOut) (ho : ∀ l ∈ lanesOf c.act, OutOk (out l)) (hs : ShapeOk c.h i.sh) (hgo : c.r.ended = false) :
    DidRun c.r (advance (issueRun c i ps (outsOf c.act out)) c.h) c.h i.sh c.act out (onceOf c i (stays c.act out))
      (syncOf c i) ps := by
  have hm := markDying_spec c.r c.h i.sh hs
  have hn := noteLanes_spec out (lanesOf c.act) (lanesOf_nodup _) (fun l hl => ((mem_lanesOf _ _).1 hl).1) ho (markDying c.r c.h i.sh)
  simp only [← noteLane_foldl] at hn
  unfold issueRun
  rw [staying_outs]
  generalize hr1 : markDying c.r c.h i.sh = r1 at hm hn ⊢
  generalize hr2 : (outsOf c.act out).foldl (fun r e => noteLane r e.1 e.2) r1 = r2 at hn ⊢
  obtain ⟨m1, m2⟩ := hm
  obtain ⟨n1, n2, n3, n4, n5⟩ := hn
  have q1 : r2 = { c.r with bufs := r2.bufs, exm := r2.exm, leaves := r2.leaves, dyingX := r2.dyingX, dyingP := r2.dyingP
                            written := r2.written, wrote := r2.wrote, vread := r2.vread } := by
    conv => lhs; rw [n5, m2]
  have hend : r2.ended = false := by rw [q1]; exact hgo
  have hoff : r2.off = c.r.off := by rw [q1]
  have hwords : r2.words = c.r.words := by rw [q1]
  have hnx : r2.nx = c.r.nx := by rw [q1]
  have hpops : r2.pops = c.r.pops := by rw [q1]
  have hb1 : r1.bufs = c.r.bufs := by rw [m2]
  have he1 : r1.exm = c.r.exm := by rw [m2]
  have hl1 : r1.leaves = c.r.leaves := by rw [m2]
  refine { off := ?_, nx := ?_, ended := ?_, bufs := ?_, sync := rfl, exm := fun l hl => ?_, leaves := fun l hl => ?_, pops := ?_
           dyingX := fun l k hl hk => ?_, rest := ?_ }
  · show r2.off + 1 = _; rw [hoff]
  · show (if c.h.nx = .seq then r2.nx else c.h.nx) = _; rw [hnx]
  · show (r2.ended || c.h.nx != .seq || decide (r2.exm = 0) || decide (r2.words.length ≤ r2.off + 1)) = _
    rw [hend, hwords, hoff, Bool.false_or]; rfl
  · show r2.bufs ++ _ = _; rw [n1, hb1]
  · show r2.exm.getLsbD l = _; rw [n2 l hl, he1, contains_lanesOf _ _ hl]
  · show sget none r2.leaves l = _; rw [n3 l hl, hl1, contains_lanesOf _ _ hl]
  · show r2.pops ++ ps = _; rw [hpops]
  · show sget false r2.dyingX _ = _; rw [n4 l k hl hk, m1 l k hl hk, contains_lanesOf _ _ hl]
  · obtain ⟨b, e, lv, d, p, w, wr, v, rfl⟩ : ∃ b e lv d p w wr v, r2 = { c.r with
        bufs := b, exm := e, leaves := lv, dyingX := d, dyingP := p, written := w, wrote := wr, vread := v } :=
      ⟨_, _, _, _, _, _, _, _, q1⟩
    rfl

theorem perf_spec (q : Group) (a b c k : Nat) :
    sget 0 (perfAdd (perfAdd (perfAdd q 4 a) 5 b) 3 c).perf k = sget 0 q.perf k +
      if k = 4 then BitVec.ofNat 32 a else if k = 5 then BitVec.ofNat 32 b else if k = 3 then BitVec.ofNat 32 c else 0 := by
  simp only [perfAdd, sget_supd]
  by_cases h3 : k = 3
  · subst h3; simp
  · by_cases h5 : k = 5
    · subst h5; simp
    · by_cases h4 : k = 4
      · subst h4; simp
      · simp [h3, h4, h5]

theorem perfAdd_rest (q : Group) (a b : Nat) : perfAdd q a b = { q with perf := (perfAdd q a b).perf } := rfl

/-- The group after an issue. -/
theorem didGroup (c : Ctx1) (i : Ins) (out : Nat → LaneOut) (ho : ∀ l ∈ lanesOf c.act, OutOk (out l)) (hp : c.q.step ≠ .inst) (r : Run) :
    let q' := stepIssued (outsOf c.act out) (issueGroup c i r (outsOf c.act out))
    DidRegs c.q q' c.act (c.h.u && c.r.exm = c.q.live && c.act = c.r.exm) out
    ∧ q'.run = some (advance r c.h)
    ∧ q'.sbw = c.q.sbw ++ ((lanesOf c.act).map fun l => (out l).sbw).flatten
    ∧ (∀ k, sget 0 q'.perf k = sget 0 c.q.perf k +
        if k = 4 then BitVec.ofNat 32 (issueCycles c.q c.r c.h i.sh) else if k = 5 then 1
        else if k = 3 then BitVec.ofNat 32 ((lanesOf c.act).filter fun l => (out l).gone).length else 0)
    ∧ q' = { c.q with work := q'.work, run := q'.run, sbw := q'.sbw, perf := q'.perf, parked := false, walkFault := [], late := q'.late } := by
  have ha := applyLanes_spec (c.h.u && c.r.exm = c.q.live && c.act = c.r.exm) out (lanesOf c.act) (lanesOf_nodup _) ho c.q
  simp only [← applyLane_foldl] at ha
  generalize hq2 : (outsOf c.act out).foldl (fun q e => applyLane (c.h.u && c.r.exm = c.q.live && c.act = c.r.exm) q e.1 e.2) c.q = q2 at ha
  obtain ⟨a1, a2, a3, a4, a5, a6, a7⟩ := ha
  have hg := applyLanes_ghost (c.h.u && c.r.exm = c.q.live && c.act = c.r.exm) out (lanesOf c.act) ho c.q
  rw [← applyLane_foldl, hq2] at hg
  have hG : issueGroup c i r (outsOf c.act out) =
      { perfAdd (perfAdd (perfAdd q2 4 (issueCycles c.q c.r c.h i.sh)) 5 1) 3 (goneCount (outsOf c.act out)) with
        run := some (advance r c.h), parked := false, walkFault := [], late := noteDefer (if c.h.s then [] else q2.late) (outsOf c.act out) } := by
    rw [← hq2]; unfold issueGroup; rfl
  have hperf := perf_spec q2 (issueCycles c.q c.r c.h i.sh) 1 (goneCount (outsOf c.act out))
  generalize issueCycles c.q c.r c.h i.sh = cyc at hG hperf ⊢
  rw [← goneCount_outs]
  generalize goneCount (outsOf c.act out) = gone at hG hperf ⊢
  have e1 := perfAdd_rest q2 4 cyc
  generalize perfAdd q2 4 cyc = qa at hG hperf e1
  have e2 := perfAdd_rest qa 5 1
  generalize perfAdd qa 5 1 = qb at hG hperf e2
  have e3 := perfAdd_rest qb 3 gone
  generalize perfAdd qb 3 gone = q3 at hG hperf e3
  have hrest : q3 = { q2 with perf := q3.perf } := by conv => lhs; rw [e3, e2, e1]
  have hS : stepIssued (outsOf c.act out) (issueGroup c i r (outsOf c.act out)) = issueGroup c i r (outsOf c.act out) := by
    have e : (issueGroup c i r (outsOf c.act out)).step = c.q.step := by rw [hG, hrest, a7]
    unfold stepIssued
    rw [if_neg (by rw [e]; exact hp)]
  rw [hS]
  generalize issueGroup c i r (outsOf c.act out) = q' at hG
  have hw : q'.work = q2.work := by rw [hG, hrest]
  have hcom : q'.com = c.q.com := by rw [hG, hrest, a7]
  have hsb : q'.sbw = q2.sbw := by rw [hG, hrest]
  have hpf : q'.perf = q3.perf := by rw [hG]
  have hrun : q'.run = some (advance r c.h) := by rw [hG]
  have hmem : ∀ l, l < 32 → (l ∈ lanesOf c.act ↔ c.act.getLsbD l = true) := fun l hl => by simp [mem_lanesOf, hl]
  refine ⟨{ x := fun l k hl hk => ?_, p := fun l k hl hk => ?_, pend := fun l k hl hk => ?_, uni := fun k hk => ?_, ghost := fun l k n hl hk => ?_, clk := ?_, qb := ?_, com := hcom },
    hrun, ?_, fun k => ?_, ?_⟩
  · rw [hw, a1 l k hk]; simp only [hmem l hl]
  · rw [hw, a2 l k hk]; simp only [hmem l hl]
  · rw [hw, a3 l k hk]; simp only [hmem l hl]
  · rw [hw, a4 k hk]
  · rw [hw]
    refine ⟨hg.1 _, fun h => ?_⟩
    rcases hg.2 l k n hk h with h | ⟨h, h'⟩
    · exact .inl h
    · exact .inr ⟨(hmem l hl).1 h, h'⟩
  · rw [hw, a5]
  · rw [hw, a6]
  · rw [hsb]; exact congrArg Group.sbw a7
  · have hp2 : q2.perf = c.q.perf := by rw [a7]
    rw [hpf, hperf k, hp2]; rfl
  · obtain ⟨wk, sb, e⟩ : ∃ wk sb, q2 = { c.q with work := wk, sbw := sb } := ⟨_, _, a7⟩
    subst e
    rw [hG, hrest]

/-! ### Outside the group -/

/-- Touching banks changes the banks, the lines that a cache may hold and the count of free values only. -/
theorem touchAll_frame (s : State) (u : MscUse) (sp : Space) (pas : List Nat) :
    touchAll s u sp pas = { s with banks := (touchAll s u sp pas).banks, cached := (touchAll s u sp pas).cached, free := (touchAll s u sp pas).free } := by
  unfold touchAll
  induction pas generalizing s with
  | nil => rfl
  | cons a r ih => rw [List.foldl_cons, ih]; rfl

theorem sampleTick_frame (c : Ctx1) (i : Ins) (outs : List (Nat × LaneOut)) (s : State) :
    sampleTick c i outs s = { s with samples := (sampleTick c i outs s).samples, memCount := (sampleTick c i outs s).memCount } := by
  unfold sampleTick
  cases i.acc with
  | none => rfl
  | some a => simp only; split <;> [rfl; (split <;> rfl)]

theorem readPoison_none (s : State) (ctx : Nat) (sp : Space) (pa n : Nat) (h : poisonAt s sp pa n = none) : readPoison s ctx sp pa n = s := by
  unfold readPoison; rw [h]

theorem dramTick_frame (c : Ctx1) (i : Ins) (outs : List (Nat × LaneOut)) (s : State)
    (hp : ∀ a, i.acc = some a → a.spad = false → a.cls = 0 → ∀ e ∈ outs, e.2.leave = none → a.on c e.1 = true → ∀ pa f, translate c.s c.q (a.addr c e.1) false = .ok .dev pa f →
      poisonAt s .dev pa a.len = none) :
    dramTick c i outs s = { s with banks := (dramTick c i outs s).banks, cached := (dramTick c i outs s).cached, free := (dramTick c i outs s).free } := by
  unfold dramTick
  cases ha : i.acc with
  | none => rfl
  | some a =>
    simp only
    split
    · rfl
    · rename_i hc
      have hsp : a.spad = false := by cases h : a.spad <;> simp_all
      have hcl : a.cls = 0 := by by_contra h; simp [h] at hc
      generalize hpas : ((outs.filter fun e => e.2.leave.isNone && a.on c e.1).filterMap fun e =>
        match translate c.s c.q (a.addr c e.1) false with | .ok .dev pa _ => some pa | _ => none) = pas
      have hall : ∀ pa ∈ pas, poisonAt s .dev pa a.len = none := by
        intro pa hpa
        rw [← hpas, List.mem_filterMap] at hpa
        obtain ⟨e, he, hm⟩ := hpa
        split at hm
        · rename_i pa' f ht
          cases hm
          have hf := (List.mem_filter.1 he).2
          simp only [Bool.and_eq_true, Option.isNone_iff_eq_none] at hf
          exact hp a ha hsp hcl e (List.mem_filter.1 he).1 hf.1 hf.2 pa f ht
        · cases hm
      generalize hl : (pas.map fun pa => pa / 128 * 128).eraseDups = lines
      have ht := touchAll_frame s (if a.bypass then .pass else .read) .dev lines
      generalize touchAll s (if a.bypass then .pass else .read) .dev lines = s' at ht ⊢
      have hpo : ∀ pa n, poisonAt s' .dev pa n = poisonAt s .dev pa n := by intro pa n; rw [ht]; rfl
      suffices H : pas.foldl (fun s pa => readPoison s c.q.ctx .dev pa a.len) s' = s' by rw [H]; exact ht
      clear hpas hl
      induction pas with
      | nil => rfl
      | cons pa r ih =>
        rw [List.foldl_cons, readPoison_none _ _ _ _ _ ((hpo _ _).trans (hall pa (by simp)))]
        exact ih fun pa h => hall pa (by simp [h])

theorem clockAdd_frame (s : State) (clu n : Nat) : clockAdd s clu n = { s with clock := (clockAdd s clu n).clock, free := (clockAdd s clu n).free } := rfl

/-- The state after the group and its meters, before traps. -/
def issueBase (c : Ctx1) (i : Ins) (ps : List Pop) (out : Nat → LaneOut) : State :=
  dramTick c i (outsOf c.act out) (sampleTick c i (outsOf c.act out) (setG c.s c.g
      (stepIssued (outsOf c.act out) (issueGroup c i (issueRun c i ps (outsOf c.act out)) (outsOf c.act out)))))

/-- A load meets no poison in device memory (R438). -/
def NoPoison (c : Ctx1) (i : Ins) : Prop :=
  ∀ a, i.acc = some a → a.spad = false → a.cls = 0 → ∀ l, l < 32 → c.act.getLsbD l = true → (outOf c i l).leave = none → a.on c l = true →
    ∀ pa f, translate c.s c.q (a.addr c l) false = .ok .dev pa f → poisonAt c.s .dev pa a.len = none

theorem issueBase_metered (c : Ctx1) (i : Ins) (ps : List Pop) (out : Nat → LaneOut) (ho : out = outOf c i) (hp : NoPoison c i) :
    issueBase c i ps out = { c.s with
      groups := (setG c.s c.g (stepIssued (outsOf c.act out) (issueGroup c i (issueRun c i ps (outsOf c.act out)) (outsOf c.act out)))).groups
      samples := (issueBase c i ps out).samples, memCount := (issueBase c i ps out).memCount, banks := (issueBase c i ps out).banks
      cached := (issueBase c i ps out).cached, free := (issueBase c i ps out).free } := by
  unfold issueBase
  generalize stepIssued (outsOf c.act out) (issueGroup c i (issueRun c i ps (outsOf c.act out)) (outsOf c.act out)) = q
  have hs := sampleTick_frame c i (outsOf c.act out) (setG c.s c.g q)
  generalize sampleTick c i (outsOf c.act out) (setG c.s c.g q) = s2 at hs ⊢
  have hd := dramTick_frame c i (outsOf c.act out) s2 (by
    intro a ha h1 h2 e he hv hon pa f ht
    obtain ⟨l, hl, rfl⟩ := List.mem_map.1 he
    have hl' := (mem_lanesOf _ _).1 hl
    rw [hs]
    exact hp a ha h1 h2 l hl'.1 hl'.2 (by rw [← ho]; exact hv) hon pa f ht)
  generalize dramTick c i (outsOf c.act out) s2 = s3 at hd ⊢
  conv => lhs; rw [hd, hs]
  have h1 : s3.samples = s2.samples := by rw [hd]
  have h2 : s3.memCount = s2.memCount := by rw [hd]
  rw [h1, h2]
  rfl

theorem issueBase_quiet (c : Ctx1) (i : Ins) (ps : List Pop) (out : Nat → LaneOut) (ha : i.acc = none) :
    issueBase c i ps out = setG c.s c.g (stepIssued (outsOf c.act out) (issueGroup c i (issueRun c i ps (outsOf c.act out)) (outsOf c.act out))) := by
  have hs : ∀ s, sampleTick c i (outsOf c.act out) s = s := by intro s; unfold sampleTick; rw [ha]
  have hd : ∀ s, dramTick c i (outsOf c.act out) s = s := by intro s; unfold dramTick; rw [ha]
  unfold issueBase
  rw [hs, hd]

theorem stepSettle_off {s : State} {g : GKey} (h : (getG s g).step ≠ .settle) : stepSettle s g = s := by
  unfold stepSettle
  simp only
  cases hr : (getG s g).run with
  | none => rfl
  | some r2 =>
    simp only
    rw [if_neg]
    simp [h]

/-- The current group after an issue is all that `Did` says. -/
theorem did_of_group {s s1 st : State} {h : Hd} {i : Ins} {r : Run} {m : SMap Word} {ps : List Pop} {out : Nat → LaneOut}
    (c : Goes s s1 h i r m ps) (ho : ∀ l, l < 32 → (acts s h r).getLsbD l = true → OutOk (out l))
    (hg : getG st s.cur = stepIssued (outsOf (acts s h r) out) (issueGroup (cx s s1 h r m) i (issueRun (cx s s1 h r m) i ps
      (outsOf (acts s h r) out)) (outsOf (acts s h r) out))) (hc : st.cur = s.cur) :
    Did s st h i.sh r out (onceOf (cx s s1 h r m) i (stays (acts s h r) out)) (syncOf (cx s s1 h r m) i) ps := by
  have ho' : ∀ l ∈ lanesOf (acts s h r), OutOk (out l) := fun l hl => ho l ((mem_lanesOf _ _).1 hl).1 ((mem_lanesOf _ _).1 hl).2
  obtain ⟨d1, d2, d3, d4, d5⟩ := didGroup (cx s s1 h r m) i out ho' c.issues.plain.1 (issueRun (cx s s1 h r m) i ps (outsOf (acts s h r) out))
  have dr := didRun (cx s s1 h r m) i ps out ho' c.issues.names c.issues.going
  have hq : curG st = stepIssued (outsOf (acts s h r) out) (issueGroup (cx s s1 h r m) i (issueRun (cx s s1 h r m) i ps
      (outsOf (acts s h r) out)) (outsOf (acts s h r) out)) := by unfold curG; rw [hc]; exact hg
  refine { regs := ?_, run := ⟨_, ?_, dr⟩, sbw := ?_, perf := ?_, rest := ?_, cur := hc }
  · rw [hq]; exact d1
  · rw [hq]; exact d2
  · rw [hq]; exact d3
  · rw [hq]; exact d4
  · rw [hq]; exact d5

/-! ### Traps -/

theorem stopGroup_keeps (q : Group) (a : Nat) (b : Option Nat) : (stopGroup q a b).com = q.com := rfl

theorem stopRest_running {q : Group} (h : atRest q = false) : stopRest q = q := by simp [stopRest, h]

/-- A fold over keys that changes each by `f` changes only groups that `f` changes. -/
theorem foldl_updG (f : Group → Group) (gs : List GKey) (s : State) :
    gs.foldl (fun s g => updG s g f) s = { s with groups := (gs.foldl (fun s g => updG s g f) s).groups }
    ∧ ∀ g, f (getG s g) = getG s g → getG (gs.foldl (fun s g => updG s g f) s) g = getG s g := by
  induction gs generalizing s with
  | nil => exact ⟨rfl, fun _ _ => rfl⟩
  | cons x xs ih =>
    obtain ⟨a, c⟩ := ih (updG s x f)
    have e : ∀ g, f (getG s g) = getG s g → getG (updG s x f) g = getG s g := by
      intro g hg
      rw [getG_updG]
      split
      · rename_i hx; subst hx; exact hg
      · rfl
    rw [List.foldl_cons]
    refine ⟨?_, fun g hg => ?_⟩
    · conv => lhs; rw [a]
      rfl
    · rw [c g (by rw [e g hg]; exact hg), e g hg]

/-- Beginning a halt changes the batch, its context's count of halts, the batch's saved groups and its groups that are at rest; no memory. -/
theorem beginHalt_frame (s : State) (b : BTag) :
    beginHalt s b = { s with groups := (beginHalt s b).groups, batches := (beginHalt s b).batches, ctxs := (beginHalt s b).ctxs
                             saved := (beginHalt s b).saved }
    ∧ (∀ g, atRest (getG s g) = false → getG (beginHalt s b) g = getG s g)
    ∧ (getB (beginHalt s b) b).halt.isSome = true := by
  unfold beginHalt
  dsimp only
  split
  · rename_i h; exact ⟨rfl, fun _ _ => rfl, h⟩
  · generalize hs2 : stopSaved (setB (setC s (getB s b).ctx _) b _) b = s2
    obtain ⟨B, C, D, h2⟩ : ∃ B C D, s2 = { s with batches := B, ctxs := C, saved := D } := by rw [← hs2]; exact ⟨_, _, _, rfl⟩
    have hh : (getB s2 b).halt.isSome = true := by
      rw [← hs2]; show (getB (setB _ b _) b).halt.isSome = true; simp
    obtain ⟨a, c⟩ := foldl_updG stopRest (residents s2 b) s2
    have hg2 : ∀ g, getG s2 g = getG s g := by intro g; rw [h2]; rfl
    refine ⟨?_, fun g hg => ?_, ?_⟩
    · clear hh hs2 hg2 c
      generalize (residents s2 b).foldl _ _ = t at a ⊢
      rw [a, h2]
    · rw [c g (by rw [hg2]; exact stopRest_running hg), hg2]
    · unfold getB at hh ⊢; rw [a]; exact hh

theorem noteTrap_frame (s : State) (g : GKey) (t : Trap) :
    noteTrap s g t = { s with groups := (noteTrap s g t).groups, batches := (noteTrap s g t).batches, ctxs := (noteTrap s g t).ctxs
                              saved := (noteTrap s g t).saved }
    ∧ ∀ j, atRest (getG s j) = false → getG (noteTrap s g t) j = getG s j := by
  unfold noteTrap
  dsimp only
  split
  · exact ⟨rfl, fun _ _ => rfl⟩
  · split
    · exact ⟨rfl, fun _ _ => rfl⟩
    · exact ⟨(beginHalt_frame _ _).1, (beginHalt_frame _ _).2.1⟩

theorem noteTraps_frame (ts : List Trap) (s : State) (g : GKey) :
    let t := ts.foldl (fun s t => noteTrap s g t) s
    t = { s with groups := t.groups, batches := t.batches, ctxs := t.ctxs, saved := t.saved }
    ∧ ∀ j, atRest (getG s j) = false → getG t j = getG s j := by
  induction ts generalizing s with
  | nil => exact ⟨rfl, fun _ _ => rfl⟩
  | cons x xs ih =>
    obtain ⟨a, c⟩ := ih (noteTrap s g x)
    obtain ⟨a', c'⟩ := noteTrap_frame s g x
    dsimp only at a c ⊢
    rw [List.foldl_cons]
    refine ⟨?_, fun j hj => ?_⟩
    · generalize xs.foldl _ _ = t at a ⊢
      generalize noteTrap s g x = u at a a'
      rw [a, a']
    · rw [c j (by rw [c' j hj]; exact hj), c' j hj]

/-! ### The laws -/

theorem issueLanes_base (c : Ctx1) (i : Ins) (ps : List Pop) (out : Nat → LaneOut) :
    issueLanes c i ps (outsOf c.act out) = stepSettle (i.after { c with r := issueRun c i ps (outsOf c.act out) }
      { clockAdd ((laneTraps c (outsOf c.act out)).foldl (fun s t => noteTrap s c.g t) (issueBase c i ps out)) c.q.clu
          (issueCycles c.q c.r c.h i.sh) with stalled := false }) c.g := by
  unfold issueLanes issueBase
  rfl

/-- THE LAW OF ISSUE, traps among its lanes' outcomes or not: `issue` answers a next state, the current group is all that `Did` says, and no
memory changes. -/
theorem issue_all {s s1 : State} {h : Hd} {i : Ins} {r : Run} {m : SMap Word} {ps : List Pop} (c : Goes s s1 h i r m ps)
    (ho : ∀ l, l < 32 → (acts s h r).getLsbD l = true → OutOk (outOf (cx s s1 h r m) i l)) (hp : NoPoison (cx s s1 h r m) i) :
    ∃ st r', issue s h i = .next (stepSettle (i.after { cx s s1 h r m with r := r' } st) s.cur)
      ∧ Did s st h i.sh r (outOf (cx s s1 h r m) i) (onceOf (cx s s1 h r m) i (stays (acts s h r) (outOf (cx s s1 h r m) i)))
          (syncOf (cx s s1 h r m) i) ps
      ∧ SameMem s1 st ∧ st.stalled = false
      ∧ st = { (laneTraps (cx s s1 h r m) (outsOf (acts s h r) (outOf (cx s s1 h r m) i))).foldl (fun u t => noteTrap u (cx s s1 h r m).g t)
          (issueBase (cx s s1 h r m) i ps (outOf (cx s s1 h r m) i)) with clock := st.clock, free := st.free, stalled := false } := by
  have hsp := onlySpad_feeds c.issues.feeds
  generalize hout : outOf (cx s s1 h r m) i = out at ho ⊢
  have hb := issueBase_metered (cx s s1 h r m) i ps out hout.symm hp
  have hgb : getG (issueBase (cx s s1 h r m) i ps out) s.cur = stepIssued (outsOf (acts s h r) out) (issueGroup (cx s s1 h r m) i
      (issueRun (cx s s1 h r m) i ps (outsOf (acts s h r) out)) (outsOf (acts s h r) out)) := by
    have e : getG (issueBase (cx s s1 h r m) i ps out) s.cur = getG (setG s1 s.cur (stepIssued (outsOf (acts s h r) out) (issueGroup (cx s s1 h r m) i
      (issueRun (cx s s1 h r m) i ps (outsOf (acts s h r) out)) (outsOf (acts s h r) out)))) s.cur := by
      unfold getG; rw [hb]; rfl
    rw [e, getG_setG_same]
  have hcurb : (issueBase (cx s s1 h r m) i ps out).cur = s.cur := by rw [hb]; show s1.cur = _; rw [hsp.1]
  have dg := did_of_group (st := issueBase (cx s s1 h r m) i ps out) c ho hgb hcurb
  have hrest : atRest (getG (issueBase (cx s s1 h r m) i ps out) s.cur) = false := by
    obtain ⟨r', hr', dr⟩ := dg.run
    have hq := dg.rest
    unfold curG at hr' hq
    rw [hcurb] at hr' hq
    unfold atRest
    rw [hr']
    have hpth : r'.path = r.path := by rw [dr.rest]
    simp only [hpth]
    have : getP (getG (issueBase (cx s s1 h r m) i ps out) s.cur) r.path = getP (curG s) r.path := by
      rw [hq]; rfl
    rw [this, c.issues.running]; rfl
  have nt := noteTraps_frame (laneTraps (cx s s1 h r m) (outsOf (acts s h r) out)) (issueBase (cx s s1 h r m) i ps out) (cx s s1 h r m).g
  have hcx : (cx s s1 h r m).g = s.cur := rfl
  generalize hT : (laneTraps (cx s s1 h r m) (outsOf (acts s h r) out)).foldl (fun u t => noteTrap u (cx s s1 h r m).g t)
    (issueBase (cx s s1 h r m) i ps out) = T at nt
  obtain ⟨n1, n2⟩ := nt
  refine ⟨{ clockAdd T (cx s s1 h r m).q.clu (issueCycles (cx s s1 h r m).q r h i.sh) with stalled := false },
    issueRun (cx s s1 h r m) i ps (outsOf (acts s h r) out), ?_, ?_, ?_, rfl, ?_⟩
  · rw [issue_eq c, hout]
    refine congrArg Host.Outcome.next ((issueLanes_base (cx s s1 h r m) i ps out).trans ?_)
    rw [show (laneTraps (cx s s1 h r m) (outsOf (cx s s1 h r m).act out)).foldl (fun u t => noteTrap u (cx s s1 h r m).g t) (issueBase (cx s s1 h r m) i ps out) = T
      from hT]
    rfl
  · refine did_of_group c ho ?_ ?_
    · have : getG T s.cur = getG (issueBase (cx s s1 h r m) i ps out) s.cur := n2 _ hrest
      show getG T s.cur = _
      rw [this, hgb]
    · show T.cur = s.cur
      rw [n1]; exact hcurb
  · have e1 : T.dmem = s1.dmem := by rw [n1, hb]; rfl
    have e2 : T.hmem = s1.hmem := by rw [n1, hb]; rfl
    have e3 : T.sram = s1.sram := by rw [n1, hb]; rfl
    have e4 : T.spad = s1.spad := by rw [n1, hb]; rfl
    exact ⟨e1, e2, e3, e4⟩
  · rfl

/-- Every acting lane has room in its buffer, does not trap, and does nothing else where it leaves. -/
structure Calm (s : State) (h : Hd) (r : Run) (out : Nat → LaneOut) (once : Bool) : Prop where
  room : Room s h r out once
  noTraps : NoTraps s h r out
  lone : ∀ l, l < 32 → (acts s h r).getLsbD l = true → ∀ v, (out l).leave = some v → out l = { leave := some v }

theorem outOf_calm {s s1 : State} {h : Hd} {i : Ins} {r : Run} {m : SMap Word} (c : Calm s h r (i.body (cx s s1 h r m)) (onceEntry (cx s s1 h r m) i))
    {l : Nat} (hl : l < 32) (ha : (acts s h r).getLsbD l = true) : outOf (cx s s1 h r m) i l = i.body (cx s s1 h r m) l :=
  finishLane_eq (cx s s1 h r m) l (onceEntry (cx s s1 h r m) i) _ (c.noTraps l hl ha) (c.lone l hl ha) (c.room l hl ha)

theorem stays_congr (act : Mask) (f g : Nat → LaneOut) (h : ∀ l, l < 32 → act.getLsbD l = true → f l = g l) : stays act f = stays act g := by
  refine maskOf_congr fun l hl => ?_
  cases ha : act.getLsbD l with
  | false => rfl
  | true => rw [h l hl ha]

/-- `Did` speaks of the acting lanes only. -/
theorem Did.congr {s t : State} {h : Hd} {sh : Shape} {r : Run} {f g : Nat → LaneOut} {once : List Buffered} {sync : Option SyncReq} {ps : List Pop}
    (d : Did s t h sh r f once sync ps) (e : ∀ l, l < 32 → (acts s h r).getLsbD l = true → f l = g l) : Did s t h sh r g once sync ps := by
  have em : ∀ {α : Type} (k : LaneOut → α), (lanesOf (acts s h r)).map (fun l => k (f l)) = (lanesOf (acts s h r)).map fun l => k (g l) := by
    intro α k
    refine List.map_congr_left fun l hl => ?_
    rw [e l ((mem_lanesOf _ _).1 hl).1 ((mem_lanesOf _ _).1 hl).2]
  obtain ⟨r', hr', dr⟩ := d.run
  refine { regs := { x := fun l k hl hk => ?_, p := fun l k hl hk => ?_, pend := fun l k hl hk => ?_, uni := fun k hk => ?_
                     ghost := fun l k n hl hk => ⟨(d.regs.ghost l k n hl hk).1, fun h' => ?_⟩, clk := d.regs.clk
                     qb := d.regs.qb, com := d.regs.com }
           run := ⟨r', hr', { off := dr.off, nx := dr.nx, ended := dr.ended, bufs := ?_, sync := dr.sync, exm := fun l hl => ?_
                              leaves := fun l hl => ?_, pops := dr.pops, dyingX := fun l k hl hk => ?_, rest := dr.rest }⟩
           sbw := ?_, perf := fun k => ?_, rest := d.rest, cur := d.cur }
  · rw [d.regs.x l k hl hk]; split
    · rename_i ha; rw [e l hl ha]
    · rfl
  · rw [d.regs.p l k hl hk]; split
    · rename_i ha; rw [e l hl ha]
    · rfl
  · rw [d.regs.pend l k hl hk]; split
    · rename_i ha; rw [e l hl ha]
    · rfl
  · rw [d.regs.uni k hk]
    have : (lanesOf (acts s h r)).any (fun l => (f l).regs.contains k) = (lanesOf (acts s h r)).any fun l => (g l).regs.contains k := by
      have := congrArg (List.any · id) (em fun o => o.regs.contains k)
      simp only [List.any_map] at this
      exact this
    rw [this]
  · rcases (d.regs.ghost l k n hl hk).2 h' with h' | ⟨h', h''⟩
    · exact .inl h'
    · exact .inr ⟨h', by rw [← e l hl h']; exact h''⟩
  · rw [dr.bufs, em fun o => o.effs]
  · rw [dr.exm l hl]
    cases ha : (acts s h r).getLsbD l with
    | false => rfl
    | true => rw [e l hl ha]
  · rw [dr.leaves l hl]
    cases ha : (acts s h r).getLsbD l with
    | false => rfl
    | true => rw [e l hl ha]
  · rw [dr.dyingX l k hl hk]
    cases ha : (acts s h r).getLsbD l with
    | false => rfl
    | true => rw [e l hl ha]
  · rw [d.sbw, em fun o => o.sbw]
  · rw [d.perf k]
    have : ((lanesOf (acts s h r)).filter fun l => (f l).gone) = (lanesOf (acts s h r)).filter fun l => (g l).gone := by
      refine List.filter_congr fun l hl => ?_
      rw [e l ((mem_lanesOf _ _).1 hl).1 ((mem_lanesOf _ _).1 hl).2]
    rw [this]

/-- Without traps nothing changes outside the group but clocks and the notes of an access. -/
theorem metered_of_issue {s s1 st : State} {h : Hd} {i : Ins} {r : Run} {m : SMap Word} {ps : List Pop} (c : Goes s s1 h i r m ps)
    (hn : ∀ l, l < 32 → (acts s h r).getLsbD l = true → ∀ t, (outOf (cx s s1 h r m) i l).leave ≠ some (.trap t)) (hp : NoPoison (cx s s1 h r m) i)
    (hst : st = { (laneTraps (cx s s1 h r m) (outsOf (acts s h r) (outOf (cx s s1 h r m) i))).foldl (fun u t => noteTrap u (cx s s1 h r m).g t)
          (issueBase (cx s s1 h r m) i ps (outOf (cx s s1 h r m) i)) with clock := st.clock, free := st.free, stalled := false }) :
    Metered s1 st ∧ (i.acc = none → Quiet s1 st) := by
  rw [laneTraps_outs (fun l hl t => hn l ((mem_lanesOf _ _).1 hl).1 ((mem_lanesOf _ _).1 hl).2 t)] at hst
  have hcur : s1.cur = s.cur := by rw [(onlySpad_feeds c.issues.feeds).1]
  have hb := issueBase_metered (cx s s1 h r m) i ps (outOf (cx s s1 h r m) i) rfl hp
  have hoth : ∀ g, g ≠ s1.cur → getG st g = getG s1 g := by
    intro g hg
    have h1 : getG st g = getG (issueBase (cx s s1 h r m) i ps (outOf (cx s s1 h r m) i)) g := by unfold getG; rw [hst]; rfl
    have h2 : ∀ q, getG (setG s1 s.cur q) g = getG s1 g := fun q => getG_setG_ne _ _ (by rw [← hcur]; exact hg)
    rw [h1]
    unfold getG at h2 ⊢
    rw [hb]
    exact h2 _
  refine ⟨⟨?_, hoth⟩, fun ha => ⟨?_, hoth⟩⟩
  · conv => lhs; rw [hst]
    simp only [List.foldl_nil]
    conv => lhs; rw [hb]
    have h1 : st.samples = (issueBase (cx s s1 h r m) i ps (outOf (cx s s1 h r m) i)).samples := by rw [hst]; rfl
    have h2 : st.memCount = (issueBase (cx s s1 h r m) i ps (outOf (cx s s1 h r m) i)).memCount := by rw [hst]; rfl
    have h3 : st.banks = (issueBase (cx s s1 h r m) i ps (outOf (cx s s1 h r m) i)).banks := by rw [hst]; rfl
    have h4 : st.groups = (issueBase (cx s s1 h r m) i ps (outOf (cx s s1 h r m) i)).groups := by rw [hst]; rfl
    have h5 : st.stale = s1.stale := by rw [hst]; rw [List.foldl_nil, hb]; rfl
    have h6 : st.cached = (issueBase (cx s s1 h r m) i ps (outOf (cx s s1 h r m) i)).cached := by rw [hst]; rfl
    rw [h1, h2, h3, h4, h5, h6, hb]
    rfl
  · conv => lhs; rw [hst]
    simp only [List.foldl_nil]
    have h4 : st.groups = (issueBase (cx s s1 h r m) i ps (outOf (cx s s1 h r m) i)).groups := by rw [hst]; rfl
    rw [h4, issueBase_quiet _ _ _ _ ha]
    rfl

/-- THE LAW OF ISSUE without traps: `issue` answers a next state, and that state is all that `Did` says, followed by what the
instruction does after its issue. -/
theorem issue_did {s s1 : State} {h : Hd} {i : Ins} {r : Run} {m : SMap Word} {ps : List Pop} (c : Goes s s1 h i r m ps)
    (cl : Calm s h r (i.body (cx s s1 h r m)) (onceEntry (cx s s1 h r m) i))
    (ho : ∀ l, l < 32 → (acts s h r).getLsbD l = true → OutOk (i.body (cx s s1 h r m) l)) (hp : NoPoison (cx s s1 h r m) i) :
    ∃ st r', issue s h i = .next (stepSettle (i.after { cx s s1 h r m with r := r' } st) s.cur)
      ∧ Did s st h i.sh r (i.body (cx s s1 h r m)) (onceOf (cx s s1 h r m) i (stays (acts s h r) (i.body (cx s s1 h r m))))
          (syncOf (cx s s1 h r m) i) ps
      ∧ Metered s1 st ∧ (i.acc = none → Quiet s1 st) := by
  have eq : ∀ l, l < 32 → (acts s h r).getLsbD l = true → outOf (cx s s1 h r m) i l = i.body (cx s s1 h r m) l :=
    fun l hl ha => outOf_calm cl hl ha
  obtain ⟨st, r', e, d, _, _, hst⟩ := issue_all c (fun l hl ha => by rw [eq l hl ha]; exact ho l hl ha) hp
  obtain ⟨hm, hq⟩ := metered_of_issue c (fun l hl ha t => by rw [eq l hl ha]; exact cl.noTraps l hl ha t) hp hst
  refine ⟨st, r', e, ?_, hm, hq⟩
  have := d.congr eq
  rw [stays_congr _ _ _ eq] at this
  exact this

/-- The same for an instruction that does nothing after its issue. -/
theorem issue_did_plain {s s1 : State} {h : Hd} {i : Ins} {r : Run} {m : SMap Word} {ps : List Pop} (c : Goes s s1 h i r m ps)
    (cl : Calm s h r (i.body (cx s s1 h r m)) (onceEntry (cx s s1 h r m) i))
    (ho : ∀ l, l < 32 → (acts s h r).getLsbD l = true → OutOk (i.body (cx s s1 h r m) l)) (hp : NoPoison (cx s s1 h r m) i)
    (ha : ∀ c st, i.after c st = st) :
    ∃ t, issue s h i = .next t
      ∧ Did s t h i.sh r (i.body (cx s s1 h r m)) (onceOf (cx s s1 h r m) i (stays (acts s h r) (i.body (cx s s1 h r m))))
          (syncOf (cx s s1 h r m) i) ps
      ∧ Metered s1 t ∧ (i.acc = none → Quiet s1 t) := by
  obtain ⟨st, r', e, d, mt, qt⟩ := issue_did c cl ho hp
  refine ⟨st, ?_, d, mt, qt⟩
  rw [e, ha]
  congr 1
  refine stepSettle_off ?_
  have h1 := d.rest
  unfold curG at h1
  rw [d.cur] at h1
  rw [h1]
  exact c.issues.plain.2

/-- The law for an instruction whose lanes only compute: each acting lane does `body`, and nothing else happens. -/
theorem issue_compute {s s1 : State} {h : Hd} {sh : Shape} {r : Run} {m : SMap Word} {ps : List Pop} (body : Ctx1 → Nat → LaneOut)
    (c : Issues s s1 h sh r m ps) (ho : ∀ l, l < 32 → OutOk (body (cx s s1 h r m) l))
    (he : ∀ l, (body (cx s s1 h r m) l).effs = []) (hn : ∀ l t, (body (cx s s1 h r m) l).leave ≠ some (.trap t))
    (hl : ∀ l v, (body (cx s s1 h r m) l).leave = some v → body (cx s s1 h r m) l = { leave := some v }) :
    ∃ t, issue s h { sh := sh, body := body } = .next t ∧ Did s t h sh r (body (cx s s1 h r m)) [] r.sync ps ∧ Quiet s1 t := by
  have go : Goes s s1 h { sh := sh, body := body } r m ps :=
    { issues := c, wait := rfl, uni := by simp, always := rfl, path := fun _ => rfl, stop := fun _ => rfl, watch := .inl rfl }
  have cl : Calm s h r (body (cx s s1 h r m)) false :=
    { room := fun l h32 _ => by simp [he l, c.buffers l h32], noTraps := fun l _ _ t => hn l t, lone := fun l _ _ v h => hl l v h }
  obtain ⟨t, e, d, _, q⟩ := issue_did_plain go cl (fun l h32 _ => ho l h32) (by intro a ha; cases ha) fun _ _ => rfl
  exact ⟨t, e, d, q rfl⟩

theorem opndReg_lt (o : Opnd) : opndReg o < 64 := by cases o <;> simp only [opndReg] <;> omega

theorem outOk_dstX (o : Opnd) (v : Word) : OutOk (dstX o v) := by
  constructor
  · intro e he; simp only [dstX, List.mem_singleton] at he; subst he; exact opndReg_lt o
  · intro e he; simp [dstX] at he

theorem outOk_dst64 (o : Opnd) (v : DWord) (h : opndReg o + 1 < 64) : OutOk (dst64 o v) := by
  constructor
  · intro e he
    simp only [dst64, List.mem_cons, List.not_mem_nil, or_false] at he
    rcases he with rfl | rfl
    · exact opndReg_lt o
    · exact h
  · intro e he; simp [dst64] at he

theorem outOk_wp (wp : List (Nat × Bool)) : OutOk { wp := wp } := ⟨by simp, by simp⟩

/-- A word whose lanes only compute completes with what they compute. -/
theorem does_of {i : Instr} {h : Hd} {sh : Shape} {s s1 : State} {r : Run} {m : SMap Word} {ps : List Pop} {out : Nat → LaneOut}
    (body : Ctx1 → Nat → LaneOut) (hx : exec i s = issue s h { sh := sh, body := body })
    (hb : ∀ l, body (cx s s1 h r m) l = out l) (ho : ∀ l, OutOk (out l)) (he : ∀ l, (out l).effs = []) (hn : ∀ l t, (out l).leave ≠ some (.trap t))
    (hl : ∀ l v, (out l).leave = some v → out l = { leave := some v }) : Does i h sh s s1 r m ps out := by
  intro hI
  have e : body (cx s s1 h r m) = out := funext hb
  have := issue_compute body hI (by rw [e]; exact fun l _ => ho l) (by rw [e]; exact he) (by rw [e]; exact hn) (by rw [e]; exact hl)
  rw [e, ← hx] at this
  exact this

/-- The same where no lane leaves. -/
theorem does_stay {i : Instr} {h : Hd} {sh : Shape} {s s1 : State} {r : Run} {m : SMap Word} {ps : List Pop} {out : Nat → LaneOut}
    (body : Ctx1 → Nat → LaneOut) (hx : exec i s = issue s h { sh := sh, body := body })
    (hb : ∀ l, body (cx s s1 h r m) l = out l) (ho : ∀ l, OutOk (out l)) (he : ∀ l, (out l).effs = []) (hn : ∀ l, (out l).leave = none) :
    Does i h sh s s1 r m ps out :=
  does_of body hx hb ho he (fun l t => by rw [hn l]; simp) fun l v h => by rw [hn l] at h; cases h

/-- A lane's outcome is what its body gives, a trap completed with its place. -/
def Ends (r : Run) (b o : LaneOut) : Prop :=
  (b = o ∧ (∀ t, o.leave ≠ some (.trap t)) ∧ ∀ v, o.leave = some v → o = { leave := some v })
  ∨ ∃ t : Trap, b.leave = some (.trap t) ∧ o = { leave := some (.trap { t with off := r.off, word := r.words.getD r.off 0 }) }

theorem ends_stay {r : Run} {o : LaneOut} (h : o.leave = none) : Ends r o o := .inl ⟨rfl, by rw [h]; simp, by rw [h]; simp⟩
theorem ends_trap (r : Run) (code cause addr : Nat) : Ends r (trapLane code cause addr) (trapped r code cause addr) := .inr ⟨_, rfl, rfl⟩
theorem ends_leave (r : Run) (code cause addr : Nat) : Ends r { leave := some (trapOf code cause addr) } (trapped r code cause addr) := .inr ⟨_, rfl, rfl⟩
theorem ends_fault (r : Run) (a : Nat) (k : AccKind) (wr : Bool) : Ends r { leave := some (.fault a k wr) } { leave := some (.fault a k wr) } :=
  .inl ⟨rfl, by simp, by rintro v ⟨rfl⟩; rfl⟩

theorem ends_placed (r : Run) (v : Leave) : Ends r { leave := some v } { leave := some (placed r v) } := by
  cases v with
  | trap t => exact .inr ⟨t, rfl, rfl⟩
  | stop => exact .inl ⟨rfl, by simp [placed], by rintro v ⟨rfl⟩; rfl⟩
  | alt a => exact .inl ⟨rfl, by simp [placed], by rintro v ⟨rfl⟩; rfl⟩
  | fault a k w => exact .inl ⟨rfl, by simp [placed], by rintro v ⟨rfl⟩; rfl⟩

theorem finishLane_ends {c : Ctx1} {l : Nat} {once : Bool} {b o : LaneOut} (hw : c.word = c.r.words.getD c.r.off 0) (h : Ends c.r b o)
    (hc : bufCount c.r l ≤ 16)
    (hr : bufCount c.r l + (o.effs.filter fun b => takesEntry b.eff).length + (if once && o.leave.isNone then 1 else 0) ≤ 16) :
    finishLane c l once b = o := by
  rcases h with ⟨rfl, ht, hl⟩ | ⟨t, hb, rfl⟩
  · exact finishLane_eq c l once b ht hl hr
  · unfold finishLane
    rw [hb]
    simp only [List.filter_nil, List.length_nil, Option.isNone_some, Bool.and_false, Bool.false_eq_true, if_false, Nat.add_zero, hw]
    rw [if_neg (by omega)]

/-- An instruction whose lanes may buffer effects or leave completes with what they do; what follows its issue may let lanes see what others
have written. -/
theorem acts_seen {i : Instr} {h : Hd} {s s1 : State} {r : Run} {m : SMap Word} {ps : List Pop} {out : Nat → LaneOut} {whole : Bool}
    {once : List Buffered} {sync : Option SyncReq} {own : Bool} (ins : Ins) (hx : exec i s = issue s h ins) (hown : own = !ins.crossA)
    (hw : onceEntry (cx s s1 h r m) ins = whole)
    (hb : ∀ l, l < 32 → (acts s h r).getLsbD l = true → Ends r (ins.body (cx s s1 h r m) l) (out l))
    (wait : ins.wait (cx s s1 h r m) = none)
    (uni : ∀ e ∈ ins.uni, ∀ k ∈ opndRegs e.1 e.2, differs (curG s).work (acts s h r) k = false)
    (path : acts s h r ≠ 0 → ins.path (cx s s h r []) = none) (stop : acts s h r ≠ 0 → ins.stop (cx s s1 h r m) = none) (always : ins.always (cx s s h r []) = none)
    (ho : ∀ l, l < 32 → (acts s h r).getLsbD l = true → OutOk (out l))
    (honce : onceOf (cx s s1 h r m) ins (stayMask s h r out) = once) (hsync : syncOf (cx s s1 h r m) ins = sync)
    (hp : NoPoison (cx s s1 h r m) ins)
    (ha : ∀ c st, ins.after c st = { st with stale := (ins.after c st).stale, free := (ins.after c st).free }) :
    Acts i h ins.sh s s1 r m ps out whole once sync own := by
  intro hI hdb hroom
  subst hown hw
  have go : Goes s s1 h ins r m ps := ⟨hI, wait, uni, always, path, stop, .inr hdb⟩
  have eq : ∀ l, l < 32 → (acts s h r).getLsbD l = true → outOf (cx s s1 h r m) ins l = out l := by
    intro l hl h1
    exact finishLane_ends (c := cx s s1 h r m) rfl (hb l hl h1) (hI.buffers l hl) (hroom l hl h1)
  obtain ⟨st, r', e, d, sm, hs, hst⟩ := issue_all go (fun l hl h1 => by rw [eq l hl h1]; exact ho l hl h1) hp
  have d := d.congr eq
  rw [stays_congr _ _ _ eq, show stays (acts s h r) out = stayMask s h r out from rfl, honce, hsync] at d
  have hu := ha { cx s s1 h r m with r := r' } st
  generalize ins.after { cx s s1 h r m with r := r' } st = u at hu e
  have hg : ∀ g, getG u g = getG st g := fun g => by rw [hu]; rfl
  have e2 : exec i s = .next u := by
    rw [hx, e]
    congr 1
    refine stepSettle_off ?_
    have h1 := d.rest
    unfold curG at h1
    rw [d.cur] at h1
    rw [hg, h1]
    exact hI.plain.2
  have hc : curG u = curG st := by unfold curG; rw [hg, hu]
  refine ⟨u, e2, ⟨hc ▸ d.regs, hc ▸ d.run, hc ▸ d.sbw, hc ▸ d.perf, hc ▸ d.rest, by rw [hu]; exact d.cur⟩, by rw [hu]; exact sm, fun hnt => ?_⟩
  obtain ⟨hm, ho⟩ := (metered_of_issue go (fun l hl h1 t => by rw [eq l hl h1]; exact hnt l hl h1 t) hp hst).1
  refine ⟨?_, fun g h1 => (hg g).trans (ho g h1)⟩
  conv => lhs; rw [hu, hm]
  rw [hu]

/-- The same where nothing follows the issue. -/
theorem acts_of {i : Instr} {h : Hd} {s s1 : State} {r : Run} {m : SMap Word} {ps : List Pop} {out : Nat → LaneOut} {whole : Bool}
    {once : List Buffered} {sync : Option SyncReq} {own : Bool} (ins : Ins) (hx : exec i s = issue s h ins) (hown : own = !ins.crossA)
    (hw : onceEntry (cx s s1 h r m) ins = whole)
    (hb : ∀ l, l < 32 → (acts s h r).getLsbD l = true → Ends r (ins.body (cx s s1 h r m) l) (out l))
    (wait : ins.wait (cx s s1 h r m) = none)
    (uni : ∀ e ∈ ins.uni, ∀ k ∈ opndRegs e.1 e.2, differs (curG s).work (acts s h r) k = false)
    (path : acts s h r ≠ 0 → ins.path (cx s s h r []) = none) (stop : acts s h r ≠ 0 → ins.stop (cx s s1 h r m) = none) (always : ins.always (cx s s h r []) = none)
    (ho : ∀ l, l < 32 → (acts s h r).getLsbD l = true → OutOk (out l))
    (honce : onceOf (cx s s1 h r m) ins (stayMask s h r out) = once) (hsync : syncOf (cx s s1 h r m) ins = sync)
    (hp : NoPoison (cx s s1 h r m) ins) (ha : ∀ c st, ins.after c st = st) :
    Acts i h ins.sh s s1 r m ps out whole once sync own :=
  acts_seen ins hx hown hw hb wait uni path stop always ho honce hsync hp fun c st => by rw [ha]

/-- What a load lets its lanes see changes views alone. -/
theorem loadSees_frame (acq : Bool) (sc : Scope) (c : Ctx1) (s : State) :
    loadSees acq sc c s = { s with stale := (loadSees acq sc c s).stale, free := (loadSees acq sc c s).free } := by
  unfold loadSees viewMove
  split <;> split <;> rfl

/-- So does what a load of a line lets them see. -/
theorem lineSees_frame (c : Ctx1) (addr : Nat → Nat) (s : State) : lineSees c addr s = { s with stale := (lineSees c addr s).stale } := by
  unfold lineSees
  induction lanesOf c.act generalizing s with
  | nil => rfl
  | cons l ls ih =>
    rw [List.foldl_cons, ih]
    cases h : lineEmpty s (spadKey c.q.clu (addr l)) <;> simp only [h, if_true, if_false, Bool.false_eq_true] <;> rfl

/-- The run of a path that traps: every lane still in EXM leaves with the trap, and the trace has ended. -/
def runTrapped (r : Run) (t : Trap) : Run :=
  { r with leaves := (lanesOf r.exm).foldl (fun m l => sset none m l (some (Leave.trap t))) r.leaves, exm := 0, ended := true }

/-- A path's trap changes the group's run and what a halt changes. -/
theorem pathTrap_frame {s : State} {g : GKey} {r : Run} (t : Trap) (hr : (getG s g).run = some r) :
    let u := setG s g { getG s g with run := some (runTrapped r t) }
    let v := pathTrap s g t
    v = { u with groups := v.groups, batches := v.batches, ctxs := v.ctxs, saved := v.saved } ∧ ∀ j, atRest (getG u j) = false → getG v j = getG u j := by
  unfold pathTrap
  simp only [hr]
  split
  · exact ⟨rfl, fun _ _ => rfl⟩
  · exact noteTrap_frame _ _ _

/-- A path that fails its checks traps. -/
theorem pathTraps_of {i : Instr} {h : Hd} {s s1 : State} {r : Run} {m : SMap Word} {ps : List Pop} {code : Nat} (ins : Ins)
    (hx : exec i s = issue s h ins) (c : Issues s s1 h ins.sh r m ps (!ins.crossA))
    (hp : pathFails (ctxOf s h r) ins = some { code := code }) : PathTraps i s r code := by
  have e : issue s h ins = .next (pathTrap s s.cur { code := code, off := r.off, word := r.words.getD r.off 0 }) := by
    unfold issue
    change (match (curG s).run with | none => _ | some r => _) = _
    rw [c.run]
    simp only
    rw [if_neg, heldBack_none c, hp]
    · rfl
    · have h1 := c.going; have h2 := c.running; have h3 := c.plain
      simp only [curG] at h2 h3
      simp [h1, h2, h3.2]
  obtain ⟨a, b⟩ := pathTrap_frame { code := code, off := r.off, word := r.words.getD r.off 0 } (show (getG s s.cur).run = some r from c.run)
  generalize hq : setG s s.cur { getG s s.cur with run := some (runTrapped r _) } = u at a b
  have hu : u = { s with groups := u.groups } := by rw [← hq]; rfl
  have hg : getG u s.cur = { getG s s.cur with run := some (runTrapped r { code := code, off := r.off, word := r.words.getD r.off 0 }) } := by
    rw [← hq, getG_setG_same]
  have hcur : (pathTrap s s.cur { code := code, off := r.off, word := r.words.getD r.off 0 }).cur = s.cur := by
    generalize pathTrap s s.cur _ = v at a ⊢
    rw [a, hu]
  have hsame : SameMem s (pathTrap s s.cur { code := code, off := r.off, word := r.words.getD r.off 0 }) := by
    generalize pathTrap s s.cur _ = v at a ⊢
    rw [a, hu]
    exact ⟨rfl, rfl, rfl, rfl⟩
  refine ⟨_, hx.trans e, hsame, runTrapped r { code := code, off := r.off, word := r.words.getD r.off 0 }, ?_, rfl, ?_⟩
  · unfold curG
    rw [hcur, b, hg]
    rw [hg]
    unfold atRest
    simp only
    have := c.running
    unfold curG at this
    show decide ((getP (getG s s.cur) r.path).state = .held) = false
    rw [this]; rfl
  · intro l hl
    simp only [runTrapped]
    rw [sget_foldl_one]
    simp only [mem_lanesOf, hl, true_and]

end Sys2Proof.Machine
end

