-- ==== Sys2Proof/Laws/Key.lean ====
section
/-! SUPPORT. The attestation key is an RSA pair of 4,096 bits: the private operation undoes the public one (R495, R499). -/
namespace Sys2Proof.Machine
open Sys2Proof

theorem powMod_eq (n : Nat) : ∀ f x d, d < 2 ^ f → powMod n f x d = x ^ d % n := by
  intro f
  induction f with
  | zero => intro x d h; have : d = 0 := by omega
            subst this; simp [powMod]
  | succ f ih =>
    intro x d h
    have hd : d / 2 < 2 ^ f := by rw [Nat.pow_succ] at h; omega
    have h2 : (x * x % n) ^ (d / 2) % n = x ^ (2 * (d / 2)) % n := by rw [← Nat.pow_mod, ← pow_two, ← pow_mul]
    simp only [powMod, ih _ _ hd, h2]
    split
    · rename_i ho
      rw [Nat.mul_mod_mod, ← pow_succ']
      congr 2; omega
    · rename_i ho
      congr 2; omega

theorem rsaPublic_eq (x n : Nat) : rsaPublic x n = x ^ 65537 % n := by
  have key : ∀ k, (List.range k).foldl (fun y _ => y * y % n) (x % n) = x ^ 2 ^ k % n := by
    intro k
    induction k with
    | zero => simp
    | succ k ih => rw [List.range_succ, List.foldl_append, ih]; simp only [List.foldl_cons, List.foldl_nil]
                   rw [← Nat.mul_mod, ← pow_add, ← two_mul, ← pow_succ']
  simp only [rsaPublic, key, Nat.mod_mul_mod]
  norm_num [← pow_succ]

theorem somePrimes_prime {p : Nat} (h : p ∈ somePrimes) : p.Prime := by
  simp only [somePrimes, List.mem_filter, List.mem_range, Bool.and_eq_true, decide_eq_true_eq, List.all_eq_true, Bool.or_eq_true, bne_iff_ne] at h
  obtain ⟨hp, h41, hk⟩ := h
  by_contra hn
  have h1 := Nat.minFac_sq_le_self (by omega) hn
  have h2 := Nat.minFac_dvd p
  have h3 := (Nat.minFac_prime (n := p) (by omega)).two_le
  have h4 : p.minFac < 55 := by nlinarith
  rcases hk _ h4 with (h | h) | h
  · omega
  · exact h (Nat.mod_eq_zero_of_dvd h2)
  · rw [h] at h1; nlinarith

theorem somePrimes_exp : (somePrimes.all fun p => (65537 * someExp) % (p - 1) == 1) = true := by decide +kernel
theorem somePrimes_size : (decide (2 ^ 4095 ≤ somePrimes.prod) && decide (somePrimes.prod < 2 ^ 4096)) = true := by decide +kernel

theorem someExp_small : (decide (someExp < 2 ^ 4096)) = true := by decide +kernel

theorem somePrimes_undo (x : Nat) (hx : x < somePrimes.prod) : rsaPublic (powMod somePrimes.prod 4096 x someExp) somePrimes.prod = x := by
  have hd : someExp < 2 ^ 4096 := of_decide_eq_true someExp_small
  rw [rsaPublic_eq, powMod_eq _ _ _ _ hd, ← Nat.pow_mod, ← pow_mul]
  have hco : somePrimes.Pairwise Nat.Coprime := by
    have hn : somePrimes.Nodup := List.nodup_range.filter _
    refine hn.imp_of_mem fun ha hb hne => ?_
    exact (Nat.coprime_primes (somePrimes_prime ha) (somePrimes_prime hb)).2 hne
  have hmod : x ^ (someExp * 65537) ≡ x [MOD somePrimes.prod] := by
    rw [Nat.modEq_list_prod_iff hco]
    intro i
    have hmem : somePrimes.get i ∈ somePrimes := List.get_mem _ _
    have hp := somePrimes_prime hmem
    generalize somePrimes.get i = p at hmem hp
    have he := List.all_eq_true.1 somePrimes_exp p hmem
    simp only [beq_iff_eq] at he
    have hsplit : someExp * 65537 = 1 + (p - 1) * (65537 * someExp / (p - 1)) := by
      have := Nat.div_add_mod (65537 * someExp) (p - 1)
      rw [he] at this; rw [Nat.mul_comm someExp]; omega
    rw [hsplit, pow_add, pow_one, pow_mul]
    by_cases hx0 : p ∣ x
    · have h0 := Nat.modEq_zero_iff_dvd.2 hx0
      exact ((h0.mul_right _).trans (by simp [Nat.ModEq])).trans h0.symm
    · have hf : x ^ (p - 1) ≡ 1 [MOD p] := by
        have := Nat.ModEq.pow_totient ((Nat.Prime.coprime_iff_not_dvd hp).2 hx0).symm
        rwa [Nat.totient_prime hp] at this
      simpa using (hf.pow (65537 * someExp / (p - 1))).mul_left x
  rwa [Nat.ModEq, Nat.mod_eq_of_lt hx] at hmod

theorem isKey_mk {n d : Nat} (hb : (decide (2 ^ 4095 ≤ n) && decide (n < 2 ^ 4096)) = true)
    (h : ∀ x, x < n → rsaPublic (powMod n 4096 x d) n = x) : isKey (n, d) = true := by
  unfold isKey
  rw [hb, Bool.true_and, List.all_eq_true]
  exact fun x hx => beq_iff_eq.2 (h x (List.mem_range.1 hx))

theorem somePair_isKey : isKey (somePrimes.prod, someExp) = true := isKey_mk somePrimes_size somePrimes_undo

theorem attestKey_isKey : isKey attestKey = true := by
  unfold attestKey
  split
  · assumption
  · exact somePair_isKey

/-- The public operation undoes the private one. -/
theorem attestPrivate_undo {x : Nat} (h : x < attestKey.1) : rsaPublic (attestPrivate x) attestKey.1 = x := by
  have hk := attestKey_isKey
  unfold isKey at hk
  rw [Bool.and_eq_true, List.all_eq_true] at hk
  exact beq_iff_eq.1 (hk.2 x (List.mem_range.2 h))

/-- The modulus has 4,096 bits. -/
theorem attestKey_size : 2 ^ 4095 ≤ attestKey.1 ∧ attestKey.1 < 2 ^ 4096 := by
  have hk := attestKey_isKey
  unfold isKey at hk
  rw [Bool.and_eq_true, Bool.and_eq_true] at hk
  exact ⟨of_decide_eq_true hk.1.1, of_decide_eq_true hk.1.2⟩

end Sys2Proof.Machine
end

