-- ==== Sys2Proof/Laws/Lanes.lean ====
section
/-! SUPPORT. When lanes agree, and the completion of an instruction that asks it of them (R98). -/
namespace Sys2Proof.Machine
open Sys2Proof Sys2Proof.Checks

theorem outOk_empty : OutOk {} := ⟨by simp, by simp⟩
theorem outOk_leave (v : Option Leave) : OutOk { leave := v } := ⟨by simp, by simp⟩

/-- Lanes agree when all agree with the first. -/
theorem lanes_same {α : Type} (act : Mask) (f : Nat → α) :
    (∀ a r, lanesOf act = a :: r → ∀ x ∈ r, f x = f a) ↔
    ∀ l j, l < 32 → j < 32 → act.getLsbD l = true → act.getLsbD j = true → f l = f j := by
  constructor
  · intro h l j hl hj al aj
    have ml := (mem_lanesOf act l).2 ⟨hl, al⟩
    have mj := (mem_lanesOf act j).2 ⟨hj, aj⟩
    cases he : lanesOf act with
    | nil => rw [he] at ml; cases ml
    | cons a r =>
      rw [he] at ml mj
      have q : ∀ x, x ∈ a :: r → f x = f a := by
        intro x hx
        rcases List.mem_cons.1 hx with rfl | hx
        · rfl
        · exact h a r he x hx
      rw [q l ml, q j mj]
  · intro h a r he x hx
    have mx : x ∈ lanesOf act := by rw [he]; exact List.mem_cons_of_mem _ hx
    have ma : a ∈ lanesOf act := by rw [he]; exact List.mem_cons_self
    have mx := (mem_lanesOf act x).1 mx
    have ma := (mem_lanesOf act a).1 ma
    exact h x a mx.1 ma.1 mx.2 ma.2

theorem voteUni_iff (act : Mask) (f : Nat → Bool) : voteUni ((lanesOf act).map f) = true ↔
    ∀ l j, l < 32 → j < 32 → act.getLsbD l = true → act.getLsbD j = true → f l = f j := by
  rw [← lanes_same]
  unfold voteUni
  cases he : lanesOf act with
  | nil => simp
  | cons a r => simp

theorem differs_false_iff (v : Vers) (act : Mask) (k : Nat) : differs v act k = false ↔
    ∀ l j, l < 32 → j < 32 → act.getLsbD l = true → act.getLsbD j = true → rdX v l k = rdX v j k := by
  rw [← lanes_same act fun l => rdX v l k]
  unfold differs
  cases he : lanesOf act with
  | nil => simp
  | cons a r => simp

/-- A word with operands that must agree, or a check of its path, completes with what its lanes compute. -/
theorem does_uni {i : Instr} {h : Hd} {sh : Shape} {s s1 : State} {r : Run} {m : SMap Word} {ps : List Pop} {out : Nat → LaneOut}
    (body : Ctx1 → Nat → LaneOut) (uni : List (Opnd × Nat)) (path : Ctx1 → Option Trap)
    (hx : exec i s = issue s h { sh := sh, body := body, uni := uni, path := path })
    (hu : ∀ e ∈ uni, ∀ k ∈ opndRegs e.1 e.2, differs (curG s).work (acts s h r) k = false)
    (hpt : path (cx s s h r []) = none)
    (hb : ∀ l, body (cx s s1 h r m) l = out l) (ho : ∀ l, OutOk (out l)) (he : ∀ l, (out l).effs = []) (hn : ∀ l t, (out l).leave ≠ some (.trap t))
    (hl : ∀ l v, (out l).leave = some v → out l = { leave := some v }) : Does i h sh s s1 r m ps out := by
  intro hI
  have e : body (cx s s1 h r m) = out := funext hb
  have go : Goes s s1 h { sh := sh, body := body, uni := uni, path := path } r m ps :=
    { issues := hI, wait := rfl, uni := hu, always := rfl, path := fun _ => hpt, stop := fun _ => rfl, watch := .inl rfl }
  have cl : Calm s h r (body (cx s s1 h r m)) false :=
    { room := fun l h32 _ => by rw [e]; simp [he l, hI.buffers l h32], noTraps := fun l _ _ t => by rw [e]; exact hn l t
      lone := fun l _ _ v h => by rw [e] at h ⊢; exact hl l v h }
  obtain ⟨t, e1, d, _, q⟩ := issue_did_plain go cl (fun l h32 _ => by simp only; rw [e]; exact ho l) (by intro a ha; cases ha) fun _ _ => rfl
  refine ⟨t, hx.trans e1, ?_, q rfl⟩
  rw [← e]
  exact d

end Sys2Proof.Machine
end

