-- ==== Sys2Proof/Laws/PerInstr.lean ====
section
/-! SUPPORT. The family `roundTrip`: the word of an instruction that passes the checks of R125 decodes to it.
One lemma for each constructor; an event has no word. -/
namespace Sys2Proof.Laws
open Sys2Proof Sys2Proof.Checks Sys2Proof.Decode

/-- Decoding the word of the instruction gives it back, on every core on which it is well formed. -/
def roundTrip.Statement (i : Instr) : Prop := ∀ p v, WellFormed p i → encode i = some v → decode p v = .ok i

theorem roundTrip_of {i : Instr} {opc : Nat} {k : Maker} {f : Fields} (hw : wordOf i = some ⟨opc, f⟩) (ho : opc < 1023)
    (hl : lookup opc opcodeMap = some k) (he : opcOfWord (encodeFields opc f) = opc)
    (hm : ∀ p, WellFormed p i → k.make (encodeFields opc f) = i) : roundTrip.Statement i := by
  intro p v wf e
  have hv : encodeFields opc f = v := by simpa [encode, hw] using e
  subst hv
  unfold decode rawDecode
  rw [he, hl, if_neg (by omega)]
  simp only [Option.map_some, hm p wf]
  rw [show cause p i = none from wf]

theorem roundTrip_a {mk : IW ModA → Instr} {opc : Nat} (w : IW ModA) (hw : wordOf (mk w) = some ⟨opc, .a w⟩)
    (ho : opc < 1023) (hl : lookup opc opcodeMap = some (.a mk)) : roundTrip.Statement (mk w) :=
  roundTrip_of hw ho hl (opcOfWord_packW packA opc (by omega) w) fun _ _ =>
    congrArg mk (unpackW_packW packA unpackA unpackA_packA packA_lt opc w)

theorem roundTrip_i {mk : IW ModI → Instr} {opc : Nat} (w : IW ModI) (hw : wordOf (mk w) = some ⟨opc, .i w⟩)
    (ho : opc < 1023) (hl : lookup opc opcodeMap = some (.i mk)) : roundTrip.Statement (mk w) :=
  roundTrip_of hw ho hl (opcOfWord_packW packI opc (by omega) w) fun _ _ =>
    congrArg mk (unpackW_packW packI unpackI unpackI_packI packI_lt opc w)

theorem roundTrip_m {mk : IW ModM → Instr} {opc : Nat} (w : IW ModM) (hw : wordOf (mk w) = some ⟨opc, .m w⟩)
    (ho : opc < 1023) (hl : lookup opc opcodeMap = some (.m mk)) : roundTrip.Statement (mk w) :=
  roundTrip_of hw ho hl (opcOfWord_packW packM opc (by omega) w) fun _ _ =>
    congrArg mk (unpackW_packW packM unpackM unpackM_packM packM_lt opc w)

theorem roundTrip_g {mk : IW ModG → Instr} {opc : Nat} (w : IW ModG) (hw : wordOf (mk w) = some ⟨opc, .g w⟩)
    (ho : opc < 1023) (hl : lookup opc opcodeMap = some (.g mk)) : roundTrip.Statement (mk w) :=
  roundTrip_of hw ho hl (opcOfWord_packW packG opc (by omega) w) fun _ _ =>
    congrArg mk (unpackW_packW packG unpackG unpackG_packG packG_lt opc w)

theorem roundTrip_t {mk : IW ModT → Instr} {opc : Nat} (w : IW ModT) (hw : wordOf (mk w) = some ⟨opc, .t w⟩)
    (ho : opc < 1023) (hl : lookup opc opcodeMap = some (.t mk)) : roundTrip.Statement (mk w) :=
  roundTrip_of hw ho hl (opcOfWord_packW packT opc (by omega) w) fun _ _ =>
    congrArg mk (unpackW_packW packT unpackT unpackT_packT packT_lt opc w)

theorem roundTrip_c {mk : IW ModC → Instr} {opc : Nat} (w : IW ModC) (hw : wordOf (mk w) = some ⟨opc, .c w⟩)
    (ho : opc < 1023) (hl : lookup opc opcodeMap = some (.c mk)) : roundTrip.Statement (mk w) :=
  roundTrip_of hw ho hl (opcOfWord_packW packC opc (by omega) w) fun _ _ =>
    congrArg mk (unpackW_packW packC unpackC unpackC_packC packC_lt opc w)

theorem roundTrip_s {mk : IW ModS → Instr} {opc : Nat} (w : IW ModS) (hw : wordOf (mk w) = some ⟨opc, .s w⟩)
    (ho : opc < 1023) (hl : lookup opc opcodeMap = some (.s mk)) : roundTrip.Statement (mk w) :=
  roundTrip_of hw ho hl (opcOfWord_packW packS opc (by omega) w) fun _ _ =>
    congrArg mk (unpackW_packW packS unpackS unpackS_packS packS_lt opc w)

/-- CRYP's operations share an opcode; the checks of R125 hold SUB to the operation. -/
theorem roundTrip_cryp {i : Instr} (w : IW ModS) (hw : wordOf i = some ⟨0x371, .s w⟩) (hm : ∀ p, WellFormed p i → cryp w = i) :
    roundTrip.Statement i :=
  roundTrip_of (k := .s cryp) hw (by decide) rfl (opcOfWord_packW packS 0x371 (by decide) w) fun p h =>
    (congrArg cryp (unpackW_packW packS unpackS unpackS_packS packS_lt 0x371 w)).trans (hm p h)

/-- The checks hold SUB of a word whose block accepts one SUB to it. -/
theorem sub_of_wf {w : IW ModS} {sub : Nat} {sa sb : Use} {n : Nat} (h : fieldCause w (mgBlk w sub sa sb n) = none) : w.mod.sub.toNat = sub := by
  unfold fieldCause at h
  split at h; · cases h
  split at h; · cases h
  split at h; · cases h
  rename_i _ _ hm
  simp [mgBlk, sBlk] at hm
  omega

theorem roundTrip_event {i : Instr} (h : wordOf i = none) : roundTrip.Statement i := by
  intro p v _ e
  simp [encode, h] at e

theorem roundTrip.grd (w : IW ModI) : roundTrip.Statement (.grd w) := roundTrip_i (mk := .grd) w rfl (by decide) rfl
theorem roundTrip.grdc (w : IW ModI) : roundTrip.Statement (.grdc w) := roundTrip_i (mk := .grdc) w rfl (by decide) rfl
theorem roundTrip.grdu (w : IW ModI) : roundTrip.Statement (.grdu w) := roundTrip_i (mk := .grdu) w rfl (by decide) rfl
theorem roundTrip.exmr (w : IW ModA) : roundTrip.Statement (.exmr w) := roundTrip_a (mk := .exmr) w rfl (by decide) rfl
theorem roundTrip.exmn (w : IW ModI) : roundTrip.Statement (.exmn w) := roundTrip_i (mk := .exmn) w rfl (by decide) rfl
theorem roundTrip.succ (w : IW ModI) : roundTrip.Statement (.succ w) := roundTrip_i (mk := .succ) w rfl (by decide) rfl
theorem roundTrip.trap (w : IW ModS) : roundTrip.Statement (.trap w) := roundTrip_s (mk := .trap) w rfl (by decide) rfl
theorem roundTrip.bkpt (w : IW ModS) : roundTrip.Statement (.bkpt w) := roundTrip_s (mk := .bkpt) w rfl (by decide) rfl
theorem roundTrip.yld (w : IW ModS) : roundTrip.Statement (.yld w) := roundTrip_s (mk := .yld) w rfl (by decide) rfl
theorem roundTrip.nop (w : IW ModS) : roundTrip.Statement (.nop w) := roundTrip_s (mk := .nop) w rfl (by decide) rfl
theorem roundTrip.add (w : IW ModA) : roundTrip.Statement (.add w) := roundTrip_a (mk := .add) w rfl (by decide) rfl
theorem roundTrip.addc (w : IW ModA) : roundTrip.Statement (.addc w) := roundTrip_a (mk := .addc) w rfl (by decide) rfl
theorem roundTrip.sub (w : IW ModA) : roundTrip.Statement (.sub w) := roundTrip_a (mk := .sub) w rfl (by decide) rfl
theorem roundTrip.subb (w : IW ModA) : roundTrip.Statement (.subb w) := roundTrip_a (mk := .subb) w rfl (by decide) rfl
theorem roundTrip.neg (w : IW ModA) : roundTrip.Statement (.neg w) := roundTrip_a (mk := .neg) w rfl (by decide) rfl
theorem roundTrip.abs (w : IW ModA) : roundTrip.Statement (.abs w) := roundTrip_a (mk := .abs) w rfl (by decide) rfl
theorem roundTrip.mul (w : IW ModA) : roundTrip.Statement (.mul w) := roundTrip_a (mk := .mul) w rfl (by decide) rfl
theorem roundTrip.mulh (w : IW ModA) : roundTrip.Statement (.mulh w) := roundTrip_a (mk := .mulh) w rfl (by decide) rfl
theorem roundTrip.mulw (w : IW ModA) : roundTrip.Statement (.mulw w) := roundTrip_a (mk := .mulw) w rfl (by decide) rfl
theorem roundTrip.mad (w : IW ModA) : roundTrip.Statement (.mad w) := roundTrip_a (mk := .mad) w rfl (by decide) rfl
theorem roundTrip.madw (w : IW ModA) : roundTrip.Statement (.madw w) := roundTrip_a (mk := .madw) w rfl (by decide) rfl
theorem roundTrip.div (w : IW ModA) : roundTrip.Statement (.div w) := roundTrip_a (mk := .div) w rfl (by decide) rfl
theorem roundTrip.rem (w : IW ModA) : roundTrip.Statement (.rem w) := roundTrip_a (mk := .rem) w rfl (by decide) rfl
theorem roundTrip.min (w : IW ModA) : roundTrip.Statement (.min w) := roundTrip_a (mk := .min) w rfl (by decide) rfl
theorem roundTrip.max (w : IW ModA) : roundTrip.Statement (.max w) := roundTrip_a (mk := .max) w rfl (by decide) rfl
theorem roundTrip.and (w : IW ModA) : roundTrip.Statement (.and w) := roundTrip_a (mk := .and) w rfl (by decide) rfl
theorem roundTrip.or (w : IW ModA) : roundTrip.Statement (.or w) := roundTrip_a (mk := .or) w rfl (by decide) rfl
theorem roundTrip.xor (w : IW ModA) : roundTrip.Statement (.xor w) := roundTrip_a (mk := .xor) w rfl (by decide) rfl
theorem roundTrip.not (w : IW ModA) : roundTrip.Statement (.not w) := roundTrip_a (mk := .not) w rfl (by decide) rfl
theorem roundTrip.andn (w : IW ModA) : roundTrip.Statement (.andn w) := roundTrip_a (mk := .andn) w rfl (by decide) rfl
theorem roundTrip.shl (w : IW ModA) : roundTrip.Statement (.shl w) := roundTrip_a (mk := .shl) w rfl (by decide) rfl
theorem roundTrip.shr (w : IW ModA) : roundTrip.Statement (.shr w) := roundTrip_a (mk := .shr) w rfl (by decide) rfl
theorem roundTrip.sar (w : IW ModA) : roundTrip.Statement (.sar w) := roundTrip_a (mk := .sar) w rfl (by decide) rfl
theorem roundTrip.rol (w : IW ModA) : roundTrip.Statement (.rol w) := roundTrip_a (mk := .rol) w rfl (by decide) rfl
theorem roundTrip.clz (w : IW ModA) : roundTrip.Statement (.clz w) := roundTrip_a (mk := .clz) w rfl (by decide) rfl
theorem roundTrip.ctz (w : IW ModA) : roundTrip.Statement (.ctz w) := roundTrip_a (mk := .ctz) w rfl (by decide) rfl
theorem roundTrip.popc (w : IW ModA) : roundTrip.Statement (.popc w) := roundTrip_a (mk := .popc) w rfl (by decide) rfl
theorem roundTrip.brev (w : IW ModA) : roundTrip.Statement (.brev w) := roundTrip_a (mk := .brev) w rfl (by decide) rfl
theorem roundTrip.bfx (w : IW ModA) : roundTrip.Statement (.bfx w) := roundTrip_a (mk := .bfx) w rfl (by decide) rfl
theorem roundTrip.bfi (w : IW ModA) : roundTrip.Statement (.bfi w) := roundTrip_a (mk := .bfi) w rfl (by decide) rfl
theorem roundTrip.sxt (w : IW ModA) : roundTrip.Statement (.sxt w) := roundTrip_a (mk := .sxt) w rfl (by decide) rfl
theorem roundTrip.zxt (w : IW ModA) : roundTrip.Statement (.zxt w) := roundTrip_a (mk := .zxt) w rfl (by decide) rfl
theorem roundTrip.sel (w : IW ModA) : roundTrip.Statement (.sel w) := roundTrip_a (mk := .sel) w rfl (by decide) rfl
theorem roundTrip.cmp (w : IW ModA) : roundTrip.Statement (.cmp w) := roundTrip_a (mk := .cmp) w rfl (by decide) rfl
theorem roundTrip.cmpx (w : IW ModA) : roundTrip.Statement (.cmpx w) := roundTrip_a (mk := .cmpx) w rfl (by decide) rfl
theorem roundTrip.lea (w : IW ModA) : roundTrip.Statement (.lea w) := roundTrip_a (mk := .lea) w rfl (by decide) rfl
theorem roundTrip.add64 (w : IW ModA) : roundTrip.Statement (.add64 w) := roundTrip_a (mk := .add64) w rfl (by decide) rfl
theorem roundTrip.sub64 (w : IW ModA) : roundTrip.Statement (.sub64 w) := roundTrip_a (mk := .sub64) w rfl (by decide) rfl
theorem roundTrip.mov (w : IW ModA) : roundTrip.Statement (.mov w) := roundTrip_a (mk := .mov) w rfl (by decide) rfl
theorem roundTrip.movi (w : IW ModA) : roundTrip.Statement (.movi w) := roundTrip_a (mk := .movi) w rfl (by decide) rfl
theorem roundTrip.movw (w : IW ModA) : roundTrip.Statement (.movw w) := roundTrip_a (mk := .movw) w rfl (by decide) rfl
theorem roundTrip.pand (w : IW ModA) : roundTrip.Statement (.pand w) := roundTrip_a (mk := .pand) w rfl (by decide) rfl
theorem roundTrip.por (w : IW ModA) : roundTrip.Statement (.por w) := roundTrip_a (mk := .por) w rfl (by decide) rfl
theorem roundTrip.pxor (w : IW ModA) : roundTrip.Statement (.pxor w) := roundTrip_a (mk := .pxor) w rfl (by decide) rfl
theorem roundTrip.pnot (w : IW ModA) : roundTrip.Statement (.pnot w) := roundTrip_a (mk := .pnot) w rfl (by decide) rfl
theorem roundTrip.pmov (w : IW ModA) : roundTrip.Statement (.pmov w) := roundTrip_a (mk := .pmov) w rfl (by decide) rfl
theorem roundTrip.lxch (w : IW ModG) : roundTrip.Statement (.lxch w) := roundTrip_g (mk := .lxch) w rfl (by decide) rfl
theorem roundTrip.lxup (w : IW ModG) : roundTrip.Statement (.lxup w) := roundTrip_g (mk := .lxup) w rfl (by decide) rfl
theorem roundTrip.lxdn (w : IW ModG) : roundTrip.Statement (.lxdn w) := roundTrip_g (mk := .lxdn) w rfl (by decide) rfl
theorem roundTrip.lxbf (w : IW ModG) : roundTrip.Statement (.lxbf w) := roundTrip_g (mk := .lxbf) w rfl (by decide) rfl
theorem roundTrip.vote (w : IW ModG) : roundTrip.Statement (.vote w) := roundTrip_g (mk := .vote) w rfl (by decide) rfl
theorem roundTrip.lred (w : IW ModG) : roundTrip.Statement (.lred w) := roundTrip_g (mk := .lred) w rfl (by decide) rfl
theorem roundTrip.lscn (w : IW ModG) : roundTrip.Statement (.lscn w) := roundTrip_g (mk := .lscn) w rfl (by decide) rfl
theorem roundTrip.lcnt (w : IW ModG) : roundTrip.Statement (.lcnt w) := roundTrip_g (mk := .lcnt) w rfl (by decide) rfl
theorem roundTrip.fadd (w : IW ModA) : roundTrip.Statement (.fadd w) := roundTrip_a (mk := .fadd) w rfl (by decide) rfl
theorem roundTrip.fsub (w : IW ModA) : roundTrip.Statement (.fsub w) := roundTrip_a (mk := .fsub) w rfl (by decide) rfl
theorem roundTrip.fmul (w : IW ModA) : roundTrip.Statement (.fmul w) := roundTrip_a (mk := .fmul) w rfl (by decide) rfl
theorem roundTrip.ffma (w : IW ModA) : roundTrip.Statement (.ffma w) := roundTrip_a (mk := .ffma) w rfl (by decide) rfl
theorem roundTrip.fmin (w : IW ModA) : roundTrip.Statement (.fmin w) := roundTrip_a (mk := .fmin) w rfl (by decide) rfl
theorem roundTrip.fmax (w : IW ModA) : roundTrip.Statement (.fmax w) := roundTrip_a (mk := .fmax) w rfl (by decide) rfl
theorem roundTrip.fabs (w : IW ModA) : roundTrip.Statement (.fabs w) := roundTrip_a (mk := .fabs) w rfl (by decide) rfl
theorem roundTrip.fneg (w : IW ModA) : roundTrip.Statement (.fneg w) := roundTrip_a (mk := .fneg) w rfl (by decide) rfl
theorem roundTrip.fcmp (w : IW ModA) : roundTrip.Statement (.fcmp w) := roundTrip_a (mk := .fcmp) w rfl (by decide) rfl
theorem roundTrip.fcls (w : IW ModA) : roundTrip.Statement (.fcls w) := roundTrip_a (mk := .fcls) w rfl (by decide) rfl
theorem roundTrip.frnd (w : IW ModA) : roundTrip.Statement (.frnd w) := roundTrip_a (mk := .frnd) w rfl (by decide) rfl
theorem roundTrip.fdiv (w : IW ModA) : roundTrip.Statement (.fdiv w) := roundTrip_a (mk := .fdiv) w rfl (by decide) rfl
theorem roundTrip.fsqrt (w : IW ModA) : roundTrip.Statement (.fsqrt w) := roundTrip_a (mk := .fsqrt) w rfl (by decide) rfl
theorem roundTrip.frcp (w : IW ModA) : roundTrip.Statement (.frcp w) := roundTrip_a (mk := .frcp) w rfl (by decide) rfl
theorem roundTrip.frsq (w : IW ModA) : roundTrip.Statement (.frsq w) := roundTrip_a (mk := .frsq) w rfl (by decide) rfl
theorem roundTrip.fex2 (w : IW ModA) : roundTrip.Statement (.fex2 w) := roundTrip_a (mk := .fex2) w rfl (by decide) rfl
theorem roundTrip.flg2 (w : IW ModA) : roundTrip.Statement (.flg2 w) := roundTrip_a (mk := .flg2) w rfl (by decide) rfl
theorem roundTrip.fsin (w : IW ModA) : roundTrip.Statement (.fsin w) := roundTrip_a (mk := .fsin) w rfl (by decide) rfl
theorem roundTrip.fcos (w : IW ModA) : roundTrip.Statement (.fcos w) := roundTrip_a (mk := .fcos) w rfl (by decide) rfl
theorem roundTrip.fsig (w : IW ModA) : roundTrip.Statement (.fsig w) := roundTrip_a (mk := .fsig) w rfl (by decide) rfl
theorem roundTrip.ftnh (w : IW ModA) : roundTrip.Statement (.ftnh w) := roundTrip_a (mk := .ftnh) w rfl (by decide) rfl
theorem roundTrip.hadd2 (w : IW ModA) : roundTrip.Statement (.hadd2 w) := roundTrip_a (mk := .hadd2) w rfl (by decide) rfl
theorem roundTrip.hmul2 (w : IW ModA) : roundTrip.Statement (.hmul2 w) := roundTrip_a (mk := .hmul2) w rfl (by decide) rfl
theorem roundTrip.hfma2 (w : IW ModA) : roundTrip.Statement (.hfma2 w) := roundTrip_a (mk := .hfma2) w rfl (by decide) rfl
theorem roundTrip.hmin2 (w : IW ModA) : roundTrip.Statement (.hmin2 w) := roundTrip_a (mk := .hmin2) w rfl (by decide) rfl
theorem roundTrip.hmax2 (w : IW ModA) : roundTrip.Statement (.hmax2 w) := roundTrip_a (mk := .hmax2) w rfl (by decide) rfl
theorem roundTrip.cvtf (w : IW ModA) : roundTrip.Statement (.cvtf w) := roundTrip_a (mk := .cvtf) w rfl (by decide) rfl
theorem roundTrip.cvti (w : IW ModA) : roundTrip.Statement (.cvti w) := roundTrip_a (mk := .cvti) w rfl (by decide) rfl
theorem roundTrip.cvtn (w : IW ModA) : roundTrip.Statement (.cvtn w) := roundTrip_a (mk := .cvtn) w rfl (by decide) rfl
theorem roundTrip.cvtq (w : IW ModG) : roundTrip.Statement (.cvtq w) := roundTrip_g (mk := .cvtq) w rfl (by decide) rfl
theorem roundTrip.cvte (w : IW ModG) : roundTrip.Statement (.cvte w) := roundTrip_g (mk := .cvte) w rfl (by decide) rfl
theorem roundTrip.ld (w : IW ModM) : roundTrip.Statement (.ld w) := roundTrip_m (mk := .ld) w rfl (by decide) rfl
theorem roundTrip.ldnc (w : IW ModM) : roundTrip.Statement (.ldnc w) := roundTrip_m (mk := .ldnc) w rfl (by decide) rfl
theorem roundTrip.st (w : IW ModM) : roundTrip.Statement (.st w) := roundTrip_m (mk := .st) w rfl (by decide) rfl
theorem roundTrip.lds (w : IW ModM) : roundTrip.Statement (.lds w) := roundTrip_m (mk := .lds) w rfl (by decide) rfl
theorem roundTrip.ldsn (w : IW ModM) : roundTrip.Statement (.ldsn w) := roundTrip_m (mk := .ldsn) w rfl (by decide) rfl
theorem roundTrip.sts (w : IW ModM) : roundTrip.Statement (.sts w) := roundTrip_m (mk := .sts) w rfl (by decide) rfl
theorem roundTrip.stn (w : IW ModM) : roundTrip.Statement (.stn w) := roundTrip_m (mk := .stn) w rfl (by decide) rfl
theorem roundTrip.atm (w : IW ModM) : roundTrip.Statement (.atm w) := roundTrip_m (mk := .atm) w rfl (by decide) rfl
theorem roundTrip.cas (w : IW ModM) : roundTrip.Statement (.cas w) := roundTrip_m (mk := .cas) w rfl (by decide) rfl
theorem roundTrip.atms (w : IW ModM) : roundTrip.Statement (.atms w) := roundTrip_m (mk := .atms) w rfl (by decide) rfl
theorem roundTrip.cass (w : IW ModM) : roundTrip.Statement (.cass w) := roundTrip_m (mk := .cass) w rfl (by decide) rfl
theorem roundTrip.fnc (w : IW ModS) : roundTrip.Statement (.fnc w) := roundTrip_s (mk := .fnc) w rfl (by decide) rfl
theorem roundTrip.seal (w : IW ModM) : roundTrip.Statement (.seal w) := roundTrip_m (mk := .seal) w rfl (by decide) rfl
theorem roundTrip.unsl (w : IW ModM) : roundTrip.Statement (.unsl w) := roundTrip_m (mk := .unsl) w rfl (by decide) rfl
theorem roundTrip.prf (w : IW ModM) : roundTrip.Statement (.prf w) := roundTrip_m (mk := .prf) w rfl (by decide) rfl
theorem roundTrip.gath (w : IW ModG) : roundTrip.Statement (.gath w) := roundTrip_g (mk := .gath) w rfl (by decide) rfl
theorem roundTrip.scat (w : IW ModG) : roundTrip.Statement (.scat w) := roundTrip_g (mk := .scat) w rfl (by decide) rfl
theorem roundTrip.rgn (w : IW ModS) : roundTrip.Statement (.rgn w) := roundTrip_s (mk := .rgn) w rfl (by decide) rfl
theorem roundTrip.step (w : IW ModS) : roundTrip.Statement (.step w) := roundTrip_s (mk := .step) w rfl (by decide) rfl
theorem roundTrip.stepq (w : IW ModS) : roundTrip.Statement (.stepq w) := roundTrip_s (mk := .stepq) w rfl (by decide) rfl
theorem roundTrip.fset (w : IW ModM) : roundTrip.Statement (.fset w) := roundTrip_m (mk := .fset) w rfl (by decide) rfl
theorem roundTrip.fclr (w : IW ModM) : roundTrip.Statement (.fclr w) := roundTrip_m (mk := .fclr) w rfl (by decide) rfl
theorem roundTrip.ftst (w : IW ModM) : roundTrip.Statement (.ftst w) := roundTrip_m (mk := .ftst) w rfl (by decide) rfl
theorem roundTrip.bari (w : IW ModS) : roundTrip.Statement (.bari w) := roundTrip_s (mk := .bari) w rfl (by decide) rfl
theorem roundTrip.bara (w : IW ModS) : roundTrip.Statement (.bara w) := roundTrip_s (mk := .bara) w rfl (by decide) rfl
theorem roundTrip.barw (w : IW ModS) : roundTrip.Statement (.barw w) := roundTrip_s (mk := .barw) w rfl (by decide) rfl
theorem roundTrip.barx (w : IW ModS) : roundTrip.Statement (.barx w) := roundTrip_s (mk := .barx) w rfl (by decide) rfl
theorem roundTrip.barq (w : IW ModS) : roundTrip.Statement (.barq w) := roundTrip_s (mk := .barq) w rfl (by decide) rfl
theorem roundTrip.team (w : IW ModS) : roundTrip.Statement (.team w) := roundTrip_s (mk := .team) w rfl (by decide) rfl
theorem roundTrip.cpl (w : IW ModC) : roundTrip.Statement (.cpl w) := roundTrip_c (mk := .cpl) w rfl (by decide) rfl
theorem roundTrip.cplg (w : IW ModC) : roundTrip.Statement (.cplg w) := roundTrip_c (mk := .cplg) w rfl (by decide) rfl
theorem roundTrip.cpt (w : IW ModC) : roundTrip.Statement (.cpt w) := roundTrip_c (mk := .cpt) w rfl (by decide) rfl
theorem roundTrip.cpo (w : IW ModC) : roundTrip.Statement (.cpo w) := roundTrip_c (mk := .cpo) w rfl (by decide) rfl
theorem roundTrip.cpx (w : IW ModC) : roundTrip.Statement (.cpx w) := roundTrip_c (mk := .cpx) w rfl (by decide) rfl
theorem roundTrip.shop (w : IW ModC) : roundTrip.Statement (.shop w) := roundTrip_c (mk := .shop) w rfl (by decide) rfl
theorem roundTrip.pub (w : IW ModC) : roundTrip.Statement (.pub w) := roundTrip_c (mk := .pub) w rfl (by decide) rfl
theorem roundTrip.cpq (w : IW ModC) : roundTrip.Statement (.cpq w) := roundTrip_c (mk := .cpq) w rfl (by decide) rfl
theorem roundTrip.cpc (w : IW ModC) : roundTrip.Statement (.cpc w) := roundTrip_c (mk := .cpc) w rfl (by decide) rfl
theorem roundTrip.cpbs (w : IW ModC) : roundTrip.Statement (.cpbs w) := roundTrip_c (mk := .cpbs) w rfl (by decide) rfl
theorem roundTrip.mpost (w : IW ModT) : roundTrip.Statement (.mpost w) := roundTrip_t (mk := .mpost) w rfl (by decide) rfl
theorem roundTrip.macq (w : IW ModT) : roundTrip.Statement (.macq w) := roundTrip_t (mk := .macq) w rfl (by decide) rfl
theorem roundTrip.mrel (w : IW ModT) : roundTrip.Statement (.mrel w) := roundTrip_t (mk := .mrel) w rfl (by decide) rfl
theorem roundTrip.mzer (w : IW ModT) : roundTrip.Statement (.mzer w) := roundTrip_t (mk := .mzer) w rfl (by decide) rfl
theorem roundTrip.mlda (w : IW ModT) : roundTrip.Statement (.mlda w) := roundTrip_t (mk := .mlda) w rfl (by decide) rfl
theorem roundTrip.mrd (w : IW ModT) : roundTrip.Statement (.mrd w) := roundTrip_t (mk := .mrd) w rfl (by decide) rfl
theorem roundTrip.msta (w : IW ModT) : roundTrip.Statement (.msta w) := roundTrip_t (mk := .msta) w rfl (by decide) rfl
theorem roundTrip.mpub (w : IW ModT) : roundTrip.Statement (.mpub w) := roundTrip_t (mk := .mpub) w rfl (by decide) rfl
theorem roundTrip.msetl (w : IW ModT) : roundTrip.Statement (.msetl w) := roundTrip_t (mk := .msetl) w rfl (by decide) rfl
theorem roundTrip.tadd (w : IW ModT) : roundTrip.Statement (.tadd w) := roundTrip_t (mk := .tadd) w rfl (by decide) rfl
theorem roundTrip.tscl (w : IW ModT) : roundTrip.Statement (.tscl w) := roundTrip_t (mk := .tscl) w rfl (by decide) rfl
theorem roundTrip.taxpy (w : IW ModT) : roundTrip.Statement (.taxpy w) := roundTrip_t (mk := .taxpy) w rfl (by decide) rfl
theorem roundTrip.tmap (w : IW ModT) : roundTrip.Statement (.tmap w) := roundTrip_t (mk := .tmap) w rfl (by decide) rfl
theorem roundTrip.tmul (w : IW ModT) : roundTrip.Statement (.tmul w) := roundTrip_t (mk := .tmul) w rfl (by decide) rfl
theorem roundTrip.tcvt (w : IW ModT) : roundTrip.Statement (.tcvt w) := roundTrip_t (mk := .tcvt) w rfl (by decide) rfl
theorem roundTrip.tstat (w : IW ModT) : roundTrip.Statement (.tstat w) := roundTrip_t (mk := .tstat) w rfl (by decide) rfl
theorem roundTrip.mqui (w : IW ModT) : roundTrip.Statement (.mqui w) := roundTrip_t (mk := .mqui) w rfl (by decide) rfl
theorem roundTrip.mtok (w : IW ModT) : roundTrip.Statement (.mtok w) := roundTrip_t (mk := .mtok) w rfl (by decide) rfl
theorem roundTrip.fwk (w : IW ModS) : roundTrip.Statement (.fwk w) := roundTrip_s (mk := .fwk) w rfl (by decide) rfl
theorem roundTrip.emit (w : IW ModS) : roundTrip.Statement (.emit w) := roundTrip_s (mk := .emit) w rfl (by decide) rfl
theorem roundTrip.sgnl (w : IW ModS) : roundTrip.Statement (.sgnl w) := roundTrip_s (mk := .sgnl) w rfl (by decide) rfl
theorem roundTrip.prio (w : IW ModS) : roundTrip.Statement (.prio w) := roundTrip_s (mk := .prio) w rfl (by decide) rfl
theorem roundTrip.rtkt (w : IW ModS) : roundTrip.Statement (.rtkt w) := roundTrip_s (mk := .rtkt) w rfl (by decide) rfl
theorem roundTrip.rput (w : IW ModS) : roundTrip.Statement (.rput w) := roundTrip_s (mk := .rput) w rfl (by decide) rfl
theorem roundTrip.qbnd (w : IW ModS) : roundTrip.Statement (.qbnd w) := roundTrip_s (mk := .qbnd) w rfl (by decide) rfl
theorem roundTrip.rskp (w : IW ModS) : roundTrip.Statement (.rskp w) := roundTrip_s (mk := .rskp) w rfl (by decide) rfl
theorem roundTrip.govh (w : IW ModS) : roundTrip.Statement (.govh w) := roundTrip_s (mk := .govh) w rfl (by decide) rfl
theorem roundTrip.rdsr (w : IW ModS) : roundTrip.Statement (.rdsr w) := roundTrip_s (mk := .rdsr) w rfl (by decide) rfl
theorem roundTrip.wrsr (w : IW ModS) : roundTrip.Statement (.wrsr w) := roundTrip_s (mk := .wrsr) w rfl (by decide) rfl
theorem roundTrip.time (w : IW ModS) : roundTrip.Statement (.time w) := roundTrip_s (mk := .time) w rfl (by decide) rfl
theorem roundTrip.perf (w : IW ModS) : roundTrip.Statement (.perf w) := roundTrip_s (mk := .perf) w rfl (by decide) rfl
theorem roundTrip.fusr (w : IW ModS) : roundTrip.Statement (.fusr w) := roundTrip_s (mk := .fusr) w rfl (by decide) rfl
theorem roundTrip.crypHash (w : IW ModS) : roundTrip.Statement (.crypHash w) :=
  roundTrip_cryp w rfl fun p h => by
    have hp : inProfile p 0x371 = true := by
      by_contra hn
      simp [WellFormed, cause, wordOf, hn] at h
    have h' : fieldCause w (mgBlk w 0 uX .unused 0) = none := by
      simpa [WellFormed, cause, wordOf, hp, block, Fields.cause] using h
    simp [cryp, sub_of_wf h']
theorem roundTrip.crypVrfy (w : IW ModS) : roundTrip.Statement (.crypVrfy w) :=
  roundTrip_cryp w rfl fun p h => by
    have hp : inProfile p 0x371 = true := by
      by_contra hn
      simp [WellFormed, cause, wordOf, hn] at h
    have h' : fieldCause w (mgBlk w 1 uX .unused 0) = none := by
      simpa [WellFormed, cause, wordOf, hp, block, Fields.cause] using h
    simp [cryp, sub_of_wf h']
theorem roundTrip.crypSign (w : IW ModS) : roundTrip.Statement (.crypSign w) :=
  roundTrip_cryp w rfl fun p h => by
    have hp : inProfile p 0x371 = true := by
      by_contra hn
      simp [WellFormed, cause, wordOf, hn] at h
    have h' : fieldCause w (mgBlk w 2 uX .unused 0) = none := by
      simpa [WellFormed, cause, wordOf, hp, block, Fields.cause] using h
    simp [cryp, sub_of_wf h']
theorem roundTrip.crypVtok (w : IW ModS) : roundTrip.Statement (.crypVtok w) :=
  roundTrip_cryp w rfl fun p h => by
    have hp : inProfile p 0x371 = true := by
      by_contra hn
      simp [WellFormed, cause, wordOf, hn] at h
    have h' : fieldCause w (mgBlk w 3 uX .unused 0) = none := by
      simpa [WellFormed, cause, wordOf, hp, block, Fields.cause] using h
    simp [cryp, sub_of_wf h']
theorem roundTrip.wipe (w : IW ModS) : roundTrip.Statement (.wipe w) := roundTrip_s (mk := .wipe) w rfl (by decide) rfl
theorem roundTrip.mext (w : IW ModS) : roundTrip.Statement (.mext w) := roundTrip_s (mk := .mext) w rfl (by decide) rfl
theorem roundTrip.lcst (w : IW ModS) : roundTrip.Statement (.lcst w) := roundTrip_s (mk := .lcst) w rfl (by decide) rfl
theorem roundTrip.dbgo (w : IW ModS) : roundTrip.Statement (.dbgo w) := roundTrip_s (mk := .dbgo) w rfl (by decide) rfl
theorem roundTrip.traceEntry (g : GKey) : roundTrip.Statement (.traceEntry g) := roundTrip_event rfl
theorem roundTrip.traceFetchComplete (g : GKey) (path : Nat) : roundTrip.Statement (.traceFetchComplete g path) := roundTrip_event rfl
theorem roundTrip.registerBudgetGrant (g : GKey) (path : Nat) : roundTrip.Statement (.registerBudgetGrant g path) := roundTrip_event rfl
theorem roundTrip.traceCommit (g : GKey) : roundTrip.Statement (.traceCommit g) := roundTrip_event rfl
theorem roundTrip.resultArrival (g : GKey) (lane reg : Nat) : roundTrip.Statement (.resultArrival g lane reg) := roundTrip_event rfl
theorem roundTrip.ldsWake (g : GKey) : roundTrip.Statement (.ldsWake g) := roundTrip_event rfl
theorem roundTrip.yldTimeout (g : GKey) : roundTrip.Statement (.yldTimeout g) := roundTrip_event rfl
theorem roundTrip.effectPerformed (i : Nat) : roundTrip.Statement (.effectPerformed i) := roundTrip_event rfl
theorem roundTrip.stnTermLand (i : Nat) : roundTrip.Statement (.stnTermLand i) := roundTrip_event rfl
theorem roundTrip.pageWalkComplete (i : Nat) : roundTrip.Statement (.pageWalkComplete i) := roundTrip_event rfl
theorem roundTrip.haltSkidExpiry (b : BTag) : roundTrip.Statement (.haltSkidExpiry b) := roundTrip_event rfl
theorem roundTrip.trapRecordWrite (b : BTag) : roundTrip.Statement (.trapRecordWrite b) := roundTrip_event rfl
theorem roundTrip.haltComplete (b : BTag) : roundTrip.Statement (.haltComplete b) := roundTrip_event rfl
theorem roundTrip.haltResume (b : BTag) : roundTrip.Statement (.haltResume b) := roundTrip_event rfl
theorem roundTrip.stepComplete (t : Nat) : roundTrip.Statement (.stepComplete t) := roundTrip_event rfl
theorem roundTrip.copyLineLand (job row : Nat) : roundTrip.Statement (.copyLineLand job row) := roundTrip_event rfl
theorem roundTrip.cpbsArrival (job : Nat) : roundTrip.Statement (.cpbsArrival job) := roundTrip_event rfl
theorem roundTrip.pubComplete (i : Nat) : roundTrip.Statement (.pubComplete i) := roundTrip_event rfl
theorem roundTrip.sealComplete (i : Nat) : roundTrip.Statement (.sealComplete i) := roundTrip_event rfl
theorem roundTrip.unsealComplete (i : Nat) : roundTrip.Statement (.unsealComplete i) := roundTrip_event rfl
theorem roundTrip.fenceComplete (g : GKey) (path : Nat) : roundTrip.Statement (.fenceComplete g path) := roundTrip_event rfl
theorem roundTrip.gathElementArrival (g : GKey) (slot lane : Nat) : roundTrip.Statement (.gathElementArrival g slot lane) := roundTrip_event rfl
theorem roundTrip.scatElementPerform (i : Nat) : roundTrip.Statement (.scatElementPerform i) := roundTrip_event rfl
theorem roundTrip.floePassGrant (f : FKey) : roundTrip.Statement (.floePassGrant f) := roundTrip_event rfl
theorem roundTrip.floePassComplete (f : FKey) : roundTrip.Statement (.floePassComplete f) := roundTrip_event rfl
theorem roundTrip.floeTileOpPerform (f : FKey) (i : Nat) : roundTrip.Statement (.floeTileOpPerform f i) := roundTrip_event rfl
theorem roundTrip.churnStart (f : FKey) (root : Nat) : roundTrip.Statement (.churnStart f root) := roundTrip_event rfl
theorem roundTrip.churnStep (f : FKey) : roundTrip.Statement (.churnStep f) := roundTrip_event rfl
theorem roundTrip.statsCountOverflow (f : FKey) (tid : Nat) : roundTrip.Statement (.statsCountOverflow f tid) := roundTrip_event rfl
theorem roundTrip.statsDrainDone (f : FKey) : roundTrip.Statement (.statsDrainDone f) := roundTrip_event rfl
theorem roundTrip.floeQuiescent (f : FKey) : roundTrip.Statement (.floeQuiescent f) := roundTrip_event rfl
theorem roundTrip.pktNop (q : Nat) : roundTrip.Statement (.pktNop q) := roundTrip_event rfl
theorem roundTrip.pktDispatch (q : Nat) : roundTrip.Statement (.pktDispatch q) := roundTrip_event rfl
theorem roundTrip.dispatchRecordEntry (d : Nat) : roundTrip.Statement (.dispatchRecordEntry d) := roundTrip_event rfl
theorem roundTrip.dispatchComplete (d : Nat) : roundTrip.Statement (.dispatchComplete d) := roundTrip_event rfl
theorem roundTrip.pktSignal (q : Nat) : roundTrip.Statement (.pktSignal q) := roundTrip_event rfl
theorem roundTrip.pktWait (q : Nat) : roundTrip.Statement (.pktWait q) := roundTrip_event rfl
theorem roundTrip.waitSatisfied (q : Nat) : roundTrip.Statement (.waitSatisfied q) := roundTrip_event rfl
theorem roundTrip.pktHinval (q : Nat) : roundTrip.Statement (.pktHinval q) := roundTrip_event rfl
theorem roundTrip.pktLoad (q : Nat) : roundTrip.Statement (.pktLoad q) := roundTrip_event rfl
theorem roundTrip.pktUnload (q : Nat) : roundTrip.Statement (.pktUnload q) := roundTrip_event rfl
theorem roundTrip.signalDecrement (i : Nat) : roundTrip.Statement (.signalDecrement i) := roundTrip_event rfl
theorem roundTrip.binTimerExpiry (ctx node : Nat) : roundTrip.Statement (.binTimerExpiry ctx node) := roundTrip_event rfl
theorem roundTrip.batchPlacement (clu core : Nat) (slots : List GKey) : roundTrip.Statement (.batchPlacement clu core slots) := roundTrip_event rfl
theorem roundTrip.batchEnd (b : BTag) : roundTrip.Statement (.batchEnd b) := roundTrip_event rfl
theorem roundTrip.emitRecordEntry (i : Nat) : roundTrip.Statement (.emitRecordEntry i) := roundTrip_event rfl
theorem roundTrip.fwkResponse (i : Nat) : roundTrip.Statement (.fwkResponse i) := roundTrip_event rfl
theorem roundTrip.rtktGrant (i : Nat) : roundTrip.Statement (.rtktGrant i) := roundTrip_event rfl
theorem roundTrip.ringPopGrant (g : GKey) : roundTrip.Statement (.ringPopGrant g) := roundTrip_event rfl
theorem roundTrip.checkpointPageCopied (ctx page : Nat) : roundTrip.Statement (.checkpointPageCopied ctx page) := roundTrip_event rfl
theorem roundTrip.budgetDeadlockEviction (trk : Nat) : roundTrip.Statement (.budgetDeadlockEviction trk) := roundTrip_event rfl
theorem roundTrip.traceStall (g : GKey) : roundTrip.Statement (.traceStall g) := roundTrip_event rfl
theorem roundTrip.bankIdleClose (b : BankId) : roundTrip.Statement (.bankIdleClose b) := roundTrip_event rfl
theorem roundTrip.stopSkidExpiry (clu : Nat) : roundTrip.Statement (.stopSkidExpiry clu) := roundTrip_event rfl
theorem roundTrip.clusterStopped (clu : Nat) : roundTrip.Statement (.clusterStopped clu) := roundTrip_event rfl
theorem roundTrip.checkpointTimerExpiry (ctx : Nat) : roundTrip.Statement (.checkpointTimerExpiry ctx) := roundTrip_event rfl
theorem roundTrip.faultRecordWrite : roundTrip.Statement (.faultRecordWrite) := roundTrip_event rfl
theorem roundTrip.tlbInvalidateDone : roundTrip.Statement (.tlbInvalidateDone) := roundTrip_event rfl
theorem roundTrip.queueQuantumExpiry : roundTrip.Statement (.queueQuantumExpiry) := roundTrip_event rfl
theorem roundTrip.governorTick (b : BTag) : roundTrip.Statement (.governorTick b) := roundTrip_event rfl
theorem roundTrip.eviction (victims : List GKey) : roundTrip.Statement (.eviction victims) := roundTrip_event rfl
theorem roundTrip.batchResume (ctx i : Nat) (clu core : Nat) (slots : List GKey) : roundTrip.Statement (.batchResume ctx i clu core slots) := roundTrip_event rfl
theorem roundTrip.ctxUnbind (ctx : Nat) : roundTrip.Statement (.ctxUnbind ctx) := roundTrip_event rfl
theorem roundTrip.bankRequestService (b : BankId) : roundTrip.Statement (.bankRequestService b) := roundTrip_event rfl
theorem roundTrip.rfmCommandDone (b : BankId) : roundTrip.Statement (.rfmCommandDone b) := roundTrip_event rfl
theorem roundTrip.backoffExpiry (b : BankId) : roundTrip.Statement (.backoffExpiry b) := roundTrip_event rfl
theorem roundTrip.periodicRefresh (b : BankId) (row : Nat) : roundTrip.Statement (.periodicRefresh b row) := roundTrip_event rfl
theorem roundTrip.faultAnswerServiced (i : Nat) : roundTrip.Statement (.faultAnswerServiced i) := roundTrip_event rfl
theorem roundTrip.faultAnswerUnresolvable (i : Nat) : roundTrip.Statement (.faultAnswerUnresolvable i) := roundTrip_event rfl
theorem roundTrip.faultAnswerRetained (i : Nat) : roundTrip.Statement (.faultAnswerRetained i) := roundTrip_event rfl
theorem roundTrip.tlbInvalidateRange (ctx va len : Nat) : roundTrip.Statement (.tlbInvalidateRange ctx va len) := roundTrip_event rfl
theorem roundTrip.tlbInvalidateAll (ctx : Nat) : roundTrip.Statement (.tlbInvalidateAll ctx) := roundTrip_event rfl
theorem roundTrip.queueDoorbell (q : Nat) : roundTrip.Statement (.queueDoorbell q) := roundTrip_event rfl
theorem roundTrip.preemptionStart (victims : List GKey) : roundTrip.Statement (.preemptionStart victims) := roundTrip_event rfl
theorem roundTrip.ctxBind (ctx : Nat) : roundTrip.Statement (.ctxBind ctx) := roundTrip_event rfl
theorem roundTrip.rowCounterConfig (stack : Nat) (v : DWord) : roundTrip.Statement (.rowCounterConfig stack v) := roundTrip_event rfl
theorem roundTrip.memoryError (e : MemErr) : roundTrip.Statement (.memoryError e) := roundTrip_event rfl
theorem roundTrip.patrolScrub (paddr : Nat) : roundTrip.Statement (.patrolScrub paddr) := roundTrip_event rfl
theorem roundTrip.debugStopRequest (clu : Nat) : roundTrip.Statement (.debugStopRequest clu) := roundTrip_event rfl
theorem roundTrip.debugResume (clu : Nat) : roundTrip.Statement (.debugResume clu) := roundTrip_event rfl
theorem roundTrip.debugContextChange (clu : Nat) (v : DWord) : roundTrip.Statement (.debugContextChange clu v) := roundTrip_event rfl
theorem roundTrip.dcmdHold (clu : Nat) : roundTrip.Statement (.dcmdHold clu) := roundTrip_event rfl
theorem roundTrip.dcmdRelease (clu : Nat) (skipb skipw : Bool) : roundTrip.Statement (.dcmdRelease clu skipb skipw) := roundTrip_event rfl
theorem roundTrip.dcmdTstep (clu : Nat) (skipb skipw : Bool) : roundTrip.Statement (.dcmdTstep clu skipb skipw) := roundTrip_event rfl
theorem roundTrip.dcmdIstep (clu : Nat) (skipb skipw : Bool) : roundTrip.Statement (.dcmdIstep clu skipb skipw) := roundTrip_event rfl
theorem roundTrip.dcmdRun (clu : Nat) : roundTrip.Statement (.dcmdRun clu) := roundTrip_event rfl
theorem roundTrip.dcmdAbort (clu : Nat) : roundTrip.Statement (.dcmdAbort clu) := roundTrip_event rfl
theorem roundTrip.drdataWrite (clu : Nat) (v : DWord) : roundTrip.Statement (.drdataWrite clu v) := roundTrip_event rfl
theorem roundTrip.memorySample (i : Nat) (lat qsp qtlb qfab qmsc qbank src last : Nat) : roundTrip.Statement (.memorySample i lat qsp qtlb qfab qmsc qbank src last) := roundTrip_event rfl
theorem roundTrip.groupSample (c : CKey) : roundTrip.Statement (.groupSample c) := roundTrip_event rfl
theorem roundTrip.powerSample (rails : List Nat) : roundTrip.Statement (.powerSample rails) := roundTrip_event rfl
theorem roundTrip.checkpointLogThreshold (ctx : Nat) : roundTrip.Statement (.checkpointLogThreshold ctx) := roundTrip_event rfl
theorem roundTrip.replayDivergenceTimeout (ctx : Nat) : roundTrip.Statement (.replayDivergenceTimeout ctx) := roundTrip_event rfl
theorem roundTrip.hostApertureAccess (a : HostAcc) : roundTrip.Statement (.hostApertureAccess a) := roundTrip_event rfl
theorem roundTrip.registerWrite (offset len : Nat) (v : DWord) : roundTrip.Statement (.registerWrite offset len v) := roundTrip_event rfl
theorem roundTrip.deviceReset (why : ResetCause) : roundTrip.Statement (.deviceReset why) := roundTrip_event rfl
theorem roundTrip.linkWindowArm (w : Nat) : roundTrip.Statement (.linkWindowArm w) := roundTrip_event rfl
theorem roundTrip.linkWindowClose (w : Nat) : roundTrip.Statement (.linkWindowClose w) := roundTrip_event rfl
theorem roundTrip.linkRowReceive (port w offset : Nat) (bytes : List Byte) : roundTrip.Statement (.linkRowReceive port w offset bytes) := roundTrip_event rfl
theorem roundTrip.peerRowAck (job row : Nat) : roundTrip.Statement (.peerRowAck job row) := roundTrip_event rfl
theorem roundTrip.peerRowRefused (job : Nat) (portDown : Bool) : roundTrip.Statement (.peerRowRefused job portDown) := roundTrip_event rfl
theorem roundTrip.flitCrcFail (port : Nat) : roundTrip.Statement (.flitCrcFail port) := roundTrip_event rfl
theorem roundTrip.linkRetrain (port : Nat) (ok : Bool) (margins : List Nat) : roundTrip.Statement (.linkRetrain port ok margins) := roundTrip_event rfl
theorem roundTrip.mailboxDoorbellUnknown : roundTrip.Statement (.mailboxDoorbellUnknown) := roundTrip_event rfl
theorem roundTrip.mgmtCommandDone : roundTrip.Statement (.mgmtCommandDone) := roundTrip_event rfl
theorem roundTrip.cmdLogrd : roundTrip.Statement (.cmdLogrd) := roundTrip_event rfl
theorem roundTrip.cmdCntrd : roundTrip.Statement (.cmdCntrd) := roundTrip_event rfl
theorem roundTrip.cmdSense (temps volts : List Nat) : roundTrip.Statement (.cmdSense temps volts) := roundTrip_event rfl
theorem roundTrip.cmdRecov : roundTrip.Statement (.cmdRecov) := roundTrip_event rfl
theorem roundTrip.cmdRelpark : roundTrip.Statement (.cmdRelpark) := roundTrip_event rfl
theorem roundTrip.cmdTsched : roundTrip.Statement (.cmdTsched) := roundTrip_event rfl
theorem roundTrip.cmdLnkrsv : roundTrip.Statement (.cmdLnkrsv) := roundTrip_event rfl
theorem roundTrip.cmdCkctl : roundTrip.Statement (.cmdCkctl) := roundTrip_event rfl
theorem roundTrip.cmdChal : roundTrip.Statement (.cmdChal) := roundTrip_event rfl
theorem roundTrip.cmdUnlock : roundTrip.Statement (.cmdUnlock) := roundTrip_event rfl
theorem roundTrip.cmdRelock : roundTrip.Statement (.cmdRelock) := roundTrip_event rfl
theorem roundTrip.cmdRtn : roundTrip.Statement (.cmdRtn) := roundTrip_event rfl
theorem roundTrip.cmdQuote : roundTrip.Statement (.cmdQuote) := roundTrip_event rfl
theorem roundTrip.cmdKeyload : roundTrip.Statement (.cmdKeyload) := roundTrip_event rfl
theorem roundTrip.cmdUpdate : roundTrip.Statement (.cmdUpdate) := roundTrip_event rfl
theorem roundTrip.inFieldTestPeriod (u : TestUnit) : roundTrip.Statement (.inFieldTestPeriod u) := roundTrip_event rfl
theorem roundTrip.inFieldTestDone (u : TestUnit) (passed : Bool) : roundTrip.Statement (.inFieldTestDone u passed) := roundTrip_event rfl
theorem roundTrip.thermalLimit (die quarterDegrees : Nat) : roundTrip.Statement (.thermalLimit die quarterDegrees) := roundTrip_event rfl
theorem roundTrip.powerLimit (watts : Nat) : roundTrip.Statement (.powerLimit watts) := roundTrip_event rfl
theorem roundTrip.clockFrequencyChange (clu hundredMHz : Nat) : roundTrip.Statement (.clockFrequencyChange clu hundredMHz) := roundTrip_event rfl
theorem roundTrip.safeTierCopyFailure (ctx : Nat) : roundTrip.Statement (.safeTierCopyFailure ctx) := roundTrip_event rfl
theorem roundTrip.checkpointRestore (ctx k : Nat) : roundTrip.Statement (.checkpointRestore ctx k) := roundTrip_event rfl
theorem roundTrip.testUnitStillBusy (u : TestUnit) : roundTrip.Statement (.testUnitStillBusy u) := roundTrip_event rfl

end Sys2Proof.Laws
end

