-- ==== Sys2Proof/Laws/Values.lean ====
section
/-! SUPPORT. Integer values as bit vectors: what wrapping, widening, dividing, shifting and field extraction give (R142, R144, R146). -/
namespace Sys2Proof.Machine
open Sys2Proof Sys2Proof.Checks

theorem wrap32_add (t : Ty) (a b : Word) : wrap32 (intVal t a + intVal t b) = a + b := by
  unfold wrap32 intVal; split
  · rw [BitVec.ofInt_add, BitVec.ofInt_toInt, BitVec.ofInt_toInt]
  · rw [BitVec.ofInt_add]; simp

theorem ofInt_intVal (t : Ty) (a : Word) : BitVec.ofInt 32 (intVal t a) = a := by
  unfold intVal; split
  · rw [BitVec.ofInt_toInt]
  · simp

theorem wrap32_sub (t : Ty) (a b : Word) : wrap32 (intVal t a - intVal t b) = a - b := by
  rw [wrap32, sub_eq_add_neg, BitVec.ofInt_add, ofInt_intVal, BitVec.ofInt_neg, ofInt_intVal, BitVec.sub_eq_add_neg]

theorem wrap32_mul (t : Ty) (a b : Word) : wrap32 (intVal t a * intVal t b) = a * b := by
  rw [wrap32, BitVec.ofInt_mul, ofInt_intVal, ofInt_intVal]

theorem wrap32_mad (t : Ty) (a b c : Word) : wrap32 (intVal t a * intVal t b + intVal t c) = a * b + c := by
  rw [wrap32, BitVec.ofInt_add, BitVec.ofInt_mul, ofInt_intVal, ofInt_intVal, ofInt_intVal]

theorem wrap32_neg (t : Ty) (a : Word) : wrap32 (-intVal t a) = -a := by
  rw [wrap32, BitVec.ofInt_neg, ofInt_intVal]

theorem finish_plain (m : ModA) (h : m.opx ≠ 1) (v : Int) : finish m v = wrap32 v := by unfold finish; rw [if_neg h]

theorem abs_plain (a : Word) : wrap32 ((intVal .s32 a).natAbs : Int) = if a.msb then -a else a := by
  unfold wrap32 intVal
  simp only [if_true]
  by_cases h : a.msb = true
  · have : a.toInt < 0 := by rw [BitVec.toInt_neg_iff]; have := h; simp [BitVec.msb_eq_decide] at this; omega
    rw [if_pos h, show ((a.toInt.natAbs : Nat) : Int) = -a.toInt by omega, BitVec.ofInt_neg, BitVec.ofInt_toInt]
  · have : 0 ≤ a.toInt := by
      rw [BitVec.toInt_eq_toNat_of_msb (by simpa using h)]; omega
    rw [if_neg h, show ((a.toInt.natAbs : Nat) : Int) = a.toInt by omega, BitVec.ofInt_toInt]

theorem wide_toInt (t : Ty) (a : Word) : (if t = .s32 then a.signExtend 64 else a.setWidth 64) = BitVec.ofInt 64 (intVal t a) := by
  unfold intVal; split
  · rfl
  · simp [BitVec.ofNat_toNat]

theorem wrap64_mul (t : Ty) (a b : Word) : wrap64 (intVal t a * intVal t b) =
    (if t = .s32 then a.signExtend 64 else a.setWidth 64) * (if t = .s32 then b.signExtend 64 else b.setWidth 64) := by
  rw [wide_toInt, wide_toInt, wrap64, BitVec.ofInt_mul]

theorem wrap64_madw (t : Ty) (a b : Word) (c : DWord) : wrap64 (intVal t a * intVal t b + intVal64 t c) =
    (if t = .s32 then a.signExtend 64 else a.setWidth 64) * (if t = .s32 then b.signExtend 64 else b.setWidth 64) + c := by
  rw [wide_toInt, wide_toInt, wrap64, BitVec.ofInt_add, BitVec.ofInt_mul]
  congr 1
  unfold intVal64; split
  · rw [BitVec.ofInt_toInt]
  · simp

theorem hi_of_int (v : Int) : wrap32 (v / 2 ^ 32) = (BitVec.ofInt 64 v).extractLsb' 32 32 := by
  unfold wrap32
  apply BitVec.eq_of_toNat_eq
  rw [BitVec.extractLsb'_toNat, BitVec.toNat_ofInt, BitVec.toNat_ofInt, Nat.shiftRight_eq_div_pow]
  zify
  rw [Int.toNat_of_nonneg (Int.emod_nonneg _ (by norm_num)), Int.toNat_of_nonneg (Int.emod_nonneg _ (by norm_num))]
  norm_num
  omega

theorem mulh_eq (t : Ty) (a b : Word) : wrap32 (intVal t a * intVal t b / 2 ^ 32) =
    ((if t = .s32 then a.signExtend 64 else a.setWidth 64) * (if t = .s32 then b.signExtend 64 else b.setWidth 64)).extractLsb' 32 32 := by
  rw [hi_of_int, wide_toInt, wide_toInt, BitVec.ofInt_mul]

theorem div_s (a b : Word) : divVal .s32 a b = if b = 0 then (if a.msb then 0x80000000#32 else 0x7FFFFFFF#32) else a.sdiv b := by
  unfold divVal
  rw [if_pos rfl]
  by_cases hb : b = 0
  · rw [if_pos hb, if_pos hb]
    congr 1
    rw [BitVec.toInt_neg_iff, BitVec.msb_eq_decide]; simp; omega
  · rw [if_neg hb, if_neg hb]
    split
    · rename_i h; obtain ⟨rfl, rfl⟩ := h; decide
    · rename_i h
      unfold wrap32
      apply BitVec.eq_of_toInt_eq
      rw [BitVec.toInt_ofInt, BitVec.toInt_sdiv]

theorem div_n (t : Ty) (h : t ≠ .s32) (a b : Word) : divVal t a b = if b = 0 then 0xFFFFFFFF#32 else a / b := by
  unfold divVal
  rw [if_neg h]
  by_cases hb : b = 0
  · rw [if_pos hb, if_pos hb]
  · rw [if_neg hb, if_neg hb]
    apply BitVec.eq_of_toNat_eq
    rw [BitVec.toNat_ofNat, BitVec.toNat_udiv, Nat.mod_eq_of_lt]
    exact lt_of_le_of_lt (Nat.div_le_self _ _) a.isLt

theorem rem_s (a b : Word) : remVal .s32 a b = if b = 0 then a else a.srem b := by
  unfold remVal
  by_cases hb : b = 0
  · rw [if_pos hb, if_pos hb]
  · rw [if_neg hb, if_neg hb, if_pos rfl]
    split
    · rename_i h; obtain ⟨rfl, rfl⟩ := h; decide
    · unfold wrap32
      apply BitVec.eq_of_toInt_eq
      rw [BitVec.toInt_ofInt, BitVec.toInt_srem]
      have := (a.srem b).toInt_bmod_cancel
      rw [BitVec.toInt_srem] at this
      exact this

theorem rem_n (t : Ty) (h : t ≠ .s32) (a b : Word) : remVal t a b = if b = 0 then a else a % b := by
  unfold remVal
  by_cases hb : b = 0
  · rw [if_pos hb, if_pos hb]
  · rw [if_neg hb, if_neg hb, if_neg h]
    apply BitVec.eq_of_toNat_eq
    rw [BitVec.toNat_ofNat, BitVec.toNat_umod, Nat.mod_eq_of_lt]
    exact lt_of_le_of_lt (Nat.mod_le _ _) a.isLt

theorem shl_eq (a : Word) (n : Nat) : shlVal a n = a <<< n := by
  unfold shlVal
  split
  · rw [BitVec.shiftLeft_eq_zero (by omega)]; rfl
  · apply BitVec.eq_of_toNat_eq
    simp [BitVec.toNat_shiftLeft, Nat.shiftLeft_eq]

theorem shr_eq (a : Word) (n : Nat) : shrVal a n = a >>> n := by
  unfold shrVal
  split
  · rw [BitVec.ushiftRight_eq_zero (by omega)]; rfl
  · apply BitVec.eq_of_toNat_eq
    rw [BitVec.toNat_ofNat, BitVec.toNat_ushiftRight, Nat.shiftRight_eq_div_pow, Nat.mod_eq_of_lt]
    exact lt_of_le_of_lt (Nat.div_le_self _ _) a.isLt

theorem sar_eq (a : Word) (n : Nat) : sarVal a n = a.sshiftRight n := by
  unfold sarVal wrap32
  apply BitVec.eq_of_toInt_eq
  rw [BitVec.toInt_sshiftRight, Int.shiftRight_eq_div_pow, BitVec.toInt_ofInt]
  have h1 := BitVec.toInt_lt (x := a); have h2 := BitVec.le_toInt (x := a)
  by_cases hn : n ≤ 31
  · rw [show Nat.min n 31 = n from Nat.min_eq_left hn]
    rw [Int.bmod_eq_of_le]
    · norm_cast
    · have : (0:Int) < 2 ^ n := by positivity
      rw [Int.le_ediv_iff_mul_le this]
      norm_num at h2 ⊢
      nlinarith [show (1:Int) ≤ 2 ^ n from one_le_pow₀ (by norm_num)]
    · have : (0:Int) < 2 ^ n := by positivity
      rw [Int.ediv_lt_iff_lt_mul this]
      norm_num at h1 ⊢
      nlinarith [show (1:Int) ≤ 2 ^ n from one_le_pow₀ (by norm_num)]
  · rw [show Nat.min n 31 = 31 from Nat.min_eq_right (by omega)]
    norm_num at h1 h2
    have e : ∀ k, 31 ≤ k → a.toInt / (2 ^ k : Int) = if a.toInt < 0 then -1 else 0 := by
      intro k hk
      have : (2147483648:Int) ≤ 2 ^ k := by
        calc (2147483648:Int) = 2 ^ 31 := by norm_num
          _ ≤ 2 ^ k := pow_le_pow_right₀ (by norm_num) hk
      split
      · rw [Int.ediv_eq_iff_of_pos (by linarith)]; constructor <;> linarith
      · exact Int.ediv_eq_zero_of_lt (by omega) (by linarith)
    rw [e 31 (le_refl _)]
    push_cast
    rw [e n (by omega)]
    split <;> decide

theorem getLsbD_ofNat_mul (x k i : Nat) (hi : i < 32) : (BitVec.ofNat 32 (x * 2 ^ k)).getLsbD i = (decide (k ≤ i) && x.testBit (i - k)) := by
  rw [BitVec.getLsbD_ofNat, Nat.mul_comm, Nat.testBit_two_pow_mul]; simp [hi]

theorem getLsbD_ofNat_div (x k i : Nat) (hi : i < 32) : (BitVec.ofNat 32 (x / 2 ^ k)).getLsbD i = x.testBit (i + k) := by
  rw [BitVec.getLsbD_ofNat, Nat.testBit_div_two_pow]; simp [hi, Nat.add_comm]

theorem rol_eq (a : Word) (n : Nat) : rolVal a n = a.rotateLeft n := by
  unfold rolVal
  rw [← BitVec.rotateLeft_mod_eq_rotateLeft]
  simp only
  by_cases hk : n % 32 = 0
  · rw [if_pos hk, hk]
    apply BitVec.eq_of_getLsbD_eq
    intro i hi
    rw [BitVec.getLsbD_rotateLeft]
    simp [hi]
  · rw [if_neg hk]
    apply BitVec.eq_of_getLsbD_eq
    intro i hi
    rw [BitVec.getLsbD_or, getLsbD_ofNat_mul _ _ _ hi, getLsbD_ofNat_div _ _ _ hi, BitVec.getLsbD_rotateLeft]
    rw [Nat.mod_mod]
    by_cases h : i < n % 32
    · simp only [h, decide_true, cond_true, if_true]
      rw [show decide (n % 32 ≤ i) = false by simpa using h, Bool.false_and, Bool.false_or]
      show a.getLsbD _ = _
      congr 1; omega
    · have h3 : a.getLsbD (i + (32 - n % 32)) = false := BitVec.getLsbD_of_ge _ _ (by omega)
      have h4 : a.toNat.testBit (i + (32 - n % 32)) = false := h3
      rw [h4]
      simp only [h, decide_false, Bool.or_false]
      rw [show decide (n % 32 ≤ i) = true by simp; omega]
      simp [hi]
      rfl

theorem mask_ext {f g : Nat → Bool} (h : ∀ i, i < 32 → f i = g i) : maskOf f = maskOf g := by
  apply BitVec.eq_of_getLsbD_eq; intro i hi; rw [maskOf_getLsbD, maskOf_getLsbD, h i hi]

theorem takeWhile_len (f : Nat → Bool) (n k : Nat) (hk : k ≤ n) (h1 : ∀ i, i < k → f i = true) (h2 : k < n → f k = false) :
    ((List.range n).takeWhile f).length = k := by
  have : List.range n = List.range k ++ (List.range (n - k)).map (k + ·) := by
    rw [← List.range_add]; congr 1; omega
  rw [this, List.takeWhile_append_of_pos (by intro i hi; exact h1 i (List.mem_range.1 hi))]
  by_cases he : n - k = 0
  · rw [he]; simp
  · obtain ⟨j, hj⟩ : ∃ j, n - k = j + 1 := ⟨n - k - 1, by omega⟩
    rw [hj, List.range_succ_eq_map, List.map_cons, List.takeWhile_cons_of_neg (by simp [h2 (by omega)])]
    simp

theorem clz_eq (a : Word) : clzVal a = BitVec.ofNat 32 ((List.range 32).takeWhile fun i => !a.getLsbD (31 - i)).length := by
  unfold clzVal
  congr 1
  by_cases h : a = 0
  · subst h; decide
  · rw [if_neg h]
    have hne : a.toNat ≠ 0 := by intro hc; exact h (BitVec.eq_of_toNat_eq (by simpa using hc))
    have hlt : Nat.log2 a.toNat < 32 := (Nat.log2_lt hne).2 a.isLt
    symm
    apply takeWhile_len
    · omega
    · intro i hi
      rw [Bool.not_eq_true']
      show a.toNat.testBit _ = false
      apply Nat.testBit_lt_two_pow
      exact (Nat.log2_lt hne).1 (by omega)
    · intro _
      rw [show 31 - (31 - a.toNat.log2) = a.toNat.log2 by omega]
      rw [Bool.not_eq_false']
      exact Nat.testBit_log2 hne

theorem ctz_eq (a : Word) : ctzVal a = BitVec.ofNat 32 ((List.range 32).takeWhile fun i => !a.getLsbD i).length := by
  unfold ctzVal allLanes
  congr 1
  cases h : (List.range 32).find? fun i => a.getLsbD i with
  | none =>
    rw [List.find?_eq_none] at h
    symm
    apply takeWhile_len
    · rfl
    · intro i hi; have := h i (List.mem_range.2 hi); simpa using this
    · intro hc; exact absurd hc (by decide)
  | some k =>
    have hk := List.mem_range.1 (List.mem_of_find?_eq_some h)
    have hp := List.find?_some h
    symm
    apply takeWhile_len
    · show k ≤ 32; omega
    · intro i hi
      rw [List.find?_range_eq_some] at h
      exact h.2.2 i hi
    · intro _; simpa using hp

theorem popc_eq (a : Word) : popVal a = BitVec.ofNat 32 ((List.range 32).countP fun i => a.getLsbD i) := by
  unfold popVal allLanes; rw [List.countP_eq_length_filter]

theorem nbits_byte0 (v : Nat) : nbits v 7 0 = v % 256 := by simp [nbits]

theorem nbits_byte1 (v : Nat) : nbits v 15 8 = v / 256 % 256 := by simp [nbits]

theorem nbits_six (v : Nat) : nbits v 5 0 = v % 64 := by simp [nbits]

theorem getLsbD_wrap_signed (w v i : Nat) (hw : 0 < w) (hw32 : w ≤ 32) (hi : i < 32) :
    (wrap32 (toSigned w v)).getLsbD i = if i < w then v.testBit i else v.testBit (w - 1) := by
  have e : wrap32 (toSigned w v) = (BitVec.ofNat w v).signExtend 32 := by
    unfold wrap32
    rw [BitVec.signExtend]
    congr 1
    unfold toSigned
    rw [BitVec.toInt_eq_toNat_cond, BitVec.toNat_ofNat]
    have : 2 ^ w = 2 * 2 ^ (w - 1) := by rw [← pow_succ']; congr 1; omega
    split <;> split <;> first | rfl | omega
  rw [e, BitVec.getLsbD_signExtend]
  by_cases h : i < w
  · rw [if_pos h, BitVec.getLsbD_ofNat]; simp [hi, h]
  · rw [if_neg h]
    rw [BitVec.msb_eq_getLsbD_last, BitVec.getLsbD_ofNat]
    simp [hi, h, hw]

theorem bfx_eq (t : Ty) (a b : Word) : bfxVal t a b = maskOf fun i =>
    let pos := b.toNat % 256
    let width := if 32 ≤ pos then 0 else min (min (b.toNat / 256 % 256) 32) (32 - pos)
    if i < width then a.getLsbD (pos + i) else t = .s32 && decide (width ≠ 0) && a.getLsbD (pos + width - 1) := by
  unfold bfxVal bfWidth bfPos
  rw [nbits_byte0, nbits_byte1]
  simp only [show Nat.min = min from rfl]
  generalize hw : (if 32 ≤ b.toNat % 256 then 0 else min (min (b.toNat / 256 % 256) 32) (32 - b.toNat % 256)) = w
  generalize b.toNat % 256 = pos at hw
  have hwl : w ≤ 32 := by rw [← hw]; split <;> omega
  by_cases h0 : w = 0
  · subst h0
    rw [if_pos rfl]
    apply BitVec.eq_of_getLsbD_eq; intro i hi
    rw [maskOf_getLsbD]; simp
  · rw [if_neg h0]
    apply BitVec.eq_of_getLsbD_eq; intro i hi
    rw [maskOf_getLsbD]
    simp only [hi, decide_true, Bool.true_and]
    by_cases ht : t = .s32
    · rw [if_pos ht, getLsbD_wrap_signed _ _ _ (by omega) hwl hi]
      by_cases h : i < w
      · rw [if_pos h, if_pos h, Nat.testBit_mod_two_pow, Nat.testBit_div_two_pow]
        simp only [h, decide_true, Bool.true_and]
        show _ = a.toNat.testBit _
        rw [Nat.add_comm]
      · rw [if_neg h, if_neg h, Nat.testBit_mod_two_pow, Nat.testBit_div_two_pow]
        simp only [show w - 1 < w by omega, decide_true, Bool.true_and, ht]
        simp only [h0, ne_eq, not_false_eq_true, decide_true, Bool.true_and]
        show _ = a.toNat.testBit _
        congr 1; omega
    · rw [if_neg ht, BitVec.getLsbD_ofNat, Nat.testBit_mod_two_pow, Nat.testBit_div_two_pow]
      by_cases h : i < w
      · simp only [hi, h, decide_true, Bool.true_and, if_true]
        show _ = a.toNat.testBit _
        rw [Nat.add_comm]
      · simp [h, ht]

theorem bfi_eq (a b c : Word) : bfiVal a b c = maskOf fun i =>
    let pos := b.toNat % 256
    let width := if 32 ≤ pos then 0 else min (min (b.toNat / 256 % 256) 32) (32 - pos)
    if pos ≤ i ∧ i < pos + width then a.getLsbD (i - pos) else c.getLsbD i := by
  unfold bfiVal bfWidth bfPos
  rw [nbits_byte0, nbits_byte1]
  simp only [show Nat.min = min from rfl]
  generalize hw : (if 32 ≤ b.toNat % 256 then 0 else min (min (b.toNat / 256 % 256) 32) (32 - b.toNat % 256)) = w
  generalize b.toNat % 256 = pos at hw
  apply BitVec.eq_of_getLsbD_eq; intro i hi
  rw [maskOf_getLsbD, BitVec.getLsbD_or, BitVec.getLsbD_and, BitVec.getLsbD_and, BitVec.getLsbD_not, getLsbD_ofNat_mul _ _ _ hi,
    getLsbD_ofNat_mul _ _ _ hi, Nat.testBit_two_pow_sub_one]
  simp only [hi, decide_true, Bool.true_and]
  by_cases h1 : pos ≤ i
  · by_cases h2 : i < pos + w
    · rw [if_pos ⟨h1, h2⟩]
      simp only [h1, show i - pos < w by omega, decide_true, Bool.true_and, Bool.not_true, Bool.and_false, Bool.false_or, Bool.and_true]
      rfl
    · rw [if_neg (by omega)]
      simp [h1, show ¬ i - pos < w by omega]
  · rw [if_neg (by omega)]
    simp [h1]

theorem sxt_eq (a b : Word) : extVal true a b = maskOf fun i =>
    let n := b.toNat % 64
    decide (n ≠ 0) && if i < n then a.getLsbD i else a.getLsbD (n - 1) := by
  unfold extVal
  rw [nbits_six]
  simp only
  generalize b.toNat % 64 = n
  by_cases h0 : n = 0
  · subst h0
    rw [if_pos rfl]
    apply BitVec.eq_of_getLsbD_eq; intro i hi
    rw [maskOf_getLsbD]; simp
  · rw [if_neg h0]
    by_cases h32 : 32 ≤ n
    · rw [if_pos h32]
      apply BitVec.eq_of_getLsbD_eq; intro i hi
      rw [maskOf_getLsbD]
      simp [hi, h0, show i < n by omega]
    · rw [if_neg h32]
      apply BitVec.eq_of_getLsbD_eq; intro i hi
      rw [maskOf_getLsbD]
      simp only [if_true]
      rw [getLsbD_wrap_signed _ _ _ (by omega) (by omega) hi]
      simp only [hi, decide_true, Bool.true_and, ne_eq, h0, not_false_eq_true]
      rfl

theorem zxt_eq (a b : Word) : extVal false a b = maskOf fun i => decide (i < b.toNat % 64) && a.getLsbD i := by
  unfold extVal
  rw [nbits_six]
  simp only
  generalize b.toNat % 64 = n
  apply BitVec.eq_of_getLsbD_eq; intro i hi
  rw [maskOf_getLsbD]
  by_cases h0 : n = 0
  · subst h0; simp
  · rw [if_neg h0]
    by_cases h32 : 32 ≤ n
    · rw [if_pos h32]
      simp [hi, show i < n by omega]
    · rw [if_neg h32]
      simp only [Bool.false_eq_true, if_false]
      rw [BitVec.getLsbD_ofNat, Nat.testBit_mod_two_pow]
      simp only [hi, decide_true, Bool.true_and]
      rfl

theorem lea_eq (t : Ty) (a : DWord) (b : Word) (k : Nat) : wrap64 ((a.toNat : Int) + intVal t b * 2 ^ k) =
    a + ((if t = .s32 then b.signExtend 64 else b.setWidth 64) <<< k) := by
  rw [wide_toInt, wrap64, BitVec.ofInt_add]
  congr 1
  · simp
  · rw [BitVec.shiftLeft_eq_mul_twoPow, BitVec.ofInt_mul]
    congr 1
    apply BitVec.eq_of_toNat_eq
    rw [BitVec.toNat_ofInt, BitVec.toNat_twoPow]
    zify
    rw [Int.toNat_of_nonneg (Int.emod_nonneg _ (by norm_num))]

end Sys2Proof.Machine
end

