-- ==== Sys2Proof/Tests/Slice0.lean ====
section
/-! SUPPORT. Tests: words written out from the encodings and what they decode to, ill-formed words, single steps with results from the manual, and
witnesses of the statements' hypotheses. -/
namespace Sys2Proof.Tests
open Sys2Proof Sys2Proof.Checks Sys2Proof.Machine
set_option maxRecDepth 100000
set_option Elab.async false


/-! ### Words written out bit by bit (R107, R115 to R121 and the operand table of each block), and what they decode to -/

theorem test_decode_control :
    Decode.decode .trace (rows 0x00003808 0x40000080 0x0 0x7) = .ok (.grd (plainWord { ty := .none, opx := 1, rsv := 0 } fun w => { w with sa := .p 2, imm := 0x7 }))
    ∧ Decode.decode .trace (rows 0x00403800 0x40C00900 0x0 0x2) = .ok (.grdc (plainWord { ty := .s32, opx := 2, rsv := 0 } fun w => { w with sa := .x 2, sb := .x 3, imm := 0x2 }))
    ∧ Decode.decode .trace (rows 0x00803808 0x60000000 0x0 0x123456) = .ok (.grdu (plainWord { ty := .none, opx := 0, rsv := 0 } fun w => { w with sa := .p 3, imm := 0x123456 }))
    ∧ Decode.decode .trace (rows 0x01003801 0x20000000 0x0 0x5) = .ok (.exmn (plainWord { ty := .none, opx := 0, rsv := 0 } fun w => { w with sa := .x 9, imm := 0x5 }))
    ∧ Decode.decode .trace (rows 0x01403800 0xA0000080 0x0 0x0) = .ok (.succ (plainWord { ty := .none, opx := 1, rsv := 0 } fun w => { w with sa := .x 5 })) := by decide

theorem test_decode_control_s :
    Decode.decode .trace (rows 0x01803800 0x00000000 0x0 0xFFFF) = .ok (.trap (plainWord { sub := 0, ord := .none, scope := .ln, rsv := 0 } fun w => { w with imm := 0xFFFF }))
    ∧ Decode.decode .trace (rows 0x01C03800 0x00000000 0x0 0x9) = .ok (.bkpt (plainWord { sub := 0, ord := .none, scope := .ln, rsv := 0 } fun w => { w with imm := 0x9 }))
    ∧ Decode.decode .trace (rows 0x02103800 0x00000000 0x0 0x0) = .ok (.yld (plainWord { sub := 0, ord := .none, scope := .ln, rsv := 0 } fun w => { w with nx := .stop }))
    ∧ Decode.decode .trace (rows 0x02403800 0x00000000 0x0 0x0) = .ok (.nop (plainWord { sub := 0, ord := .none, scope := .ln, rsv := 0 })) := by decide

theorem test_decode_integer_1 :
    Decode.decode .trace (rows 0x00C03870 0x00000000 0x0 0x0) = .ok (.exmr (plainWord { tya := .none, tyb := .none, opx := 0, rnd := .rne } fun w => { w with dst := .x 7 }))
    ∧ Decode.decode .trace (rows 0x04003840 0xA1800808 0x0 0x0) = .ok (.add (plainWord { tya := .s32, tyb := .none, opx := 1, rnd := .rne } fun w => { w with dst := .x 4, sa := .x 5, sb := .x 6 }))
    ∧ Decode.decode .trace (rows 0x04403840 0xA1A09000 0x0 0x0) = .ok (.addc (plainWord { tya := .n32, tyb := .none, opx := 0, rnd := .rne } fun w => { w with dst := .x 4, sa := .x 5, sb := .x 6, sc := .p 1 }))
    ∧ Decode.decode .trace (rows 0x04803840 0xA1801000 0x0 0x0) = .ok (.sub (plainWord { tya := .n32, tyb := .none, opx := 0, rnd := .rne } fun w => { w with dst := .x 4, sa := .x 5, sb := .x 6 }))
    ∧ Decode.decode .trace (rows 0x04C03840 0xA1A11000 0x0 0x0) = .ok (.subb (plainWord { tya := .n32, tyb := .none, opx := 0, rnd := .rne } fun w => { w with dst := .x 4, sa := .x 5, sb := .x 6, sc := .p 2 }))
    ∧ Decode.decode .trace (rows 0x05003840 0xA0000800 0x0 0x0) = .ok (.neg (plainWord { tya := .s32, tyb := .none, opx := 0, rnd := .rne } fun w => { w with dst := .x 4, sa := .x 5 }))
    ∧ Decode.decode .trace (rows 0x05403BF0 0xA0000808 0x0 0x0) = .ok (.abs (plainWord { tya := .s32, tyb := .none, opx := 1, rnd := .rne } fun w => { w with dst := .x 63, sa := .x 5 }))
    ∧ Decode.decode .trace (rows 0x05803840 0xA1800800 0x0 0x0) = .ok (.mul (plainWord { tya := .s32, tyb := .none, opx := 0, rnd := .rne } fun w => { w with dst := .x 4, sa := .x 5, sb := .x 6 }))
    ∧ Decode.decode .trace (rows 0x05C03840 0xA1801000 0x0 0x0) = .ok (.mulh (plainWord { tya := .n32, tyb := .none, opx := 0, rnd := .rne } fun w => { w with dst := .x 4, sa := .x 5, sb := .x 6 }))
    ∧ Decode.decode .trace (rows 0x06003860 0xA1C00800 0x0 0x0) = .ok (.mulw (plainWord { tya := .s32, tyb := .none, opx := 0, rnd := .rne } fun w => { w with dst := .x 6, sa := .x 5, sb := .x 7 }))
    ∧ Decode.decode .trace (rows 0x06403840 0xA1849000 0x0 0x0) = .ok (.mad (plainWord { tya := .n32, tyb := .none, opx := 0, rnd := .rne } fun w => { w with dst := .x 4, sa := .x 5, sb := .x 6, sc := .x 9 }))
    ∧ Decode.decode .trace (rows 0x06803860 0xA1C51000 0x0 0x0) = .ok (.madw (plainWord { tya := .n32, tyb := .none, opx := 0, rnd := .rne } fun w => { w with dst := .x 6, sa := .x 5, sb := .x 7, sc := .x 10 })) := by decide

theorem test_decode_integer_2 :
    Decode.decode .trace (rows 0x06C03840 0xA1800800 0x0 0x0) = .ok (.div (plainWord { tya := .s32, tyb := .none, opx := 0, rnd := .rne } fun w => { w with dst := .x 4, sa := .x 5, sb := .x 6 }))
    ∧ Decode.decode .trace (rows 0x07003840 0xA1801000 0x0 0x0) = .ok (.rem (plainWord { tya := .n32, tyb := .none, opx := 0, rnd := .rne } fun w => { w with dst := .x 4, sa := .x 5, sb := .x 6 }))
    ∧ Decode.decode .trace (rows 0x07403840 0xA1800800 0x0 0x0) = .ok (.min (plainWord { tya := .s32, tyb := .none, opx := 0, rnd := .rne } fun w => { w with dst := .x 4, sa := .x 5, sb := .x 6 }))
    ∧ Decode.decode .trace (rows 0x07803840 0xA1801000 0x0 0x0) = .ok (.max (plainWord { tya := .n32, tyb := .none, opx := 0, rnd := .rne } fun w => { w with dst := .x 4, sa := .x 5, sb := .x 6 })) := by decide

theorem test_decode_logic_1 :
    Decode.decode .trace (rows 0x08003840 0xA1800000 0x0 0x0) = .ok (.and (plainWord { tya := .none, tyb := .none, opx := 0, rnd := .rne } fun w => { w with dst := .x 4, sa := .x 5, sb := .x 6 }))
    ∧ Decode.decode .trace (rows 0x08403840 0xA1800000 0x0 0x0) = .ok (.or (plainWord { tya := .none, tyb := .none, opx := 0, rnd := .rne } fun w => { w with dst := .x 4, sa := .x 5, sb := .x 6 }))
    ∧ Decode.decode .trace (rows 0x08803840 0xA1800000 0x0 0x0) = .ok (.xor (plainWord { tya := .none, tyb := .none, opx := 0, rnd := .rne } fun w => { w with dst := .x 4, sa := .x 5, sb := .x 6 }))
    ∧ Decode.decode .trace (rows 0x08C03840 0xA0000000 0x0 0x0) = .ok (.not (plainWord { tya := .none, tyb := .none, opx := 0, rnd := .rne } fun w => { w with dst := .x 4, sa := .x 5 }))
    ∧ Decode.decode .trace (rows 0x09003840 0xA1800000 0x0 0x0) = .ok (.andn (plainWord { tya := .none, tyb := .none, opx := 0, rnd := .rne } fun w => { w with dst := .x 4, sa := .x 5, sb := .x 6 }))
    ∧ Decode.decode .trace (rows 0x09403840 0xA1800800 0x0 0x0) = .ok (.shl (plainWord { tya := .s32, tyb := .none, opx := 0, rnd := .rne } fun w => { w with dst := .x 4, sa := .x 5, sb := .x 6 }))
    ∧ Decode.decode .trace (rows 0x09803840 0xA1801000 0x0 0x0) = .ok (.shr (plainWord { tya := .n32, tyb := .none, opx := 0, rnd := .rne } fun w => { w with dst := .x 4, sa := .x 5, sb := .x 6 }))
    ∧ Decode.decode .trace (rows 0x09C03840 0xA1800800 0x0 0x0) = .ok (.sar (plainWord { tya := .s32, tyb := .none, opx := 0, rnd := .rne } fun w => { w with dst := .x 4, sa := .x 5, sb := .x 6 }))
    ∧ Decode.decode .trace (rows 0x0A003840 0xA1801000 0x0 0x0) = .ok (.rol (plainWord { tya := .n32, tyb := .none, opx := 0, rnd := .rne } fun w => { w with dst := .x 4, sa := .x 5, sb := .x 6 }))
    ∧ Decode.decode .trace (rows 0x0A403840 0xA0001000 0x0 0x0) = .ok (.clz (plainWord { tya := .n32, tyb := .none, opx := 0, rnd := .rne } fun w => { w with dst := .x 4, sa := .x 5 }))
    ∧ Decode.decode .trace (rows 0x0A803840 0xA0001000 0x0 0x0) = .ok (.ctz (plainWord { tya := .n32, tyb := .none, opx := 0, rnd := .rne } fun w => { w with dst := .x 4, sa := .x 5 }))
    ∧ Decode.decode .trace (rows 0x0AC03840 0xA0001000 0x0 0x0) = .ok (.popc (plainWord { tya := .n32, tyb := .none, opx := 0, rnd := .rne } fun w => { w with dst := .x 4, sa := .x 5 })) := by decide

theorem test_decode_logic_2 :
    Decode.decode .trace (rows 0x0B003840 0xA0001000 0x0 0x0) = .ok (.brev (plainWord { tya := .n32, tyb := .none, opx := 0, rnd := .rne } fun w => { w with dst := .x 4, sa := .x 5 }))
    ∧ Decode.decode .trace (rows 0x0B403840 0xA1800800 0x0 0x0) = .ok (.bfx (plainWord { tya := .s32, tyb := .none, opx := 0, rnd := .rne } fun w => { w with dst := .x 4, sa := .x 5, sb := .x 6 }))
    ∧ Decode.decode .trace (rows 0x0B803840 0xA1848000 0x0 0x0) = .ok (.bfi (plainWord { tya := .none, tyb := .none, opx := 0, rnd := .rne } fun w => { w with dst := .x 4, sa := .x 5, sb := .x 6, sc := .x 9 }))
    ∧ Decode.decode .trace (rows 0x0BC03840 0xA1800000 0x0 0x0) = .ok (.sxt (plainWord { tya := .none, tyb := .none, opx := 0, rnd := .rne } fun w => { w with dst := .x 4, sa := .x 5, sb := .x 6 }))
    ∧ Decode.decode .trace (rows 0x0C003840 0xA1800000 0x0 0x0) = .ok (.zxt (plainWord { tya := .none, tyb := .none, opx := 0, rnd := .rne } fun w => { w with dst := .x 4, sa := .x 5, sb := .x 6 })) := by decide

theorem test_decode_moves_1 :
    Decode.decode .trace (rows 0x10003840 0xA1A18000 0x0 0x0) = .ok (.sel (plainWord { tya := .none, tyb := .none, opx := 0, rnd := .rne } fun w => { w with dst := .x 4, sa := .x 5, sb := .x 6, sc := .p 3 }))
    ∧ Decode.decode .trace (rows 0x10403C10 0xA1800818 0x0 0x0) = .ok (.cmp (plainWord { tya := .s32, tyb := .none, opx := 3, rnd := .rne } fun w => { w with dst := .p 1, sa := .x 5, sb := .x 6 }))
    ∧ Decode.decode .trace (rows 0x10803C10 0xA1A11028 0x0 0x0) = .ok (.cmpx (plainWord { tya := .n32, tyb := .none, opx := 5, rnd := .rne } fun w => { w with dst := .p 1, sa := .x 5, sb := .x 6, sc := .p 2 }))
    ∧ Decode.decode .trace (rows 0x10C03840 0xC2401010 0x0 0x0) = .ok (.lea (plainWord { tya := .n32, tyb := .none, opx := 2, rnd := .rne } fun w => { w with dst := .x 4, sa := .x 6, sb := .x 9 }))
    ∧ Decode.decode .trace (rows 0x11003840 0xC2000000 0x0 0x0) = .ok (.add64 (plainWord { tya := .none, tyb := .none, opx := 0, rnd := .rne } fun w => { w with dst := .x 4, sa := .x 6, sb := .x 8 }))
    ∧ Decode.decode .trace (rows 0x11403840 0xC2000000 0x0 0x0) = .ok (.sub64 (plainWord { tya := .none, tyb := .none, opx := 0, rnd := .rne } fun w => { w with dst := .x 4, sa := .x 6, sb := .x 8 }))
    ∧ Decode.decode .trace (rows 0x11803840 0xA0000000 0x0 0x0) = .ok (.mov (plainWord { tya := .none, tyb := .none, opx := 0, rnd := .rne } fun w => { w with dst := .x 4, sa := .x 5 }))
    ∧ Decode.decode .trace (rows 0x11C0384F 0xE0000000 0x0 0x1234) = .ok (.movi (plainWord { tya := .none, tyb := .none, opx := 0, rnd := .rne } fun w => { w with dst := .x 4, sa := .imm, imm := 0x1234 }))
    ∧ Decode.decode .trace (rows 0x1200384F 0xE0000000 0x12345678 0x9ABCDEF0) = .ok (.movw (plainWord { tya := .none, tyb := .none, opx := 0, rnd := .rne } fun w => { w with dst := .x 4, sa := .imm, imm := 0x123456789ABCDEF0 }))
    ∧ Decode.decode .trace (rows 0x14003C18 0x50C00000 0x0 0x0) = .ok (.pand (plainWord { tya := .none, tyb := .none, opx := 0, rnd := .rne } fun w => { w with dst := .p 1, sa := .p 2, sb := .p 3 }))
    ∧ Decode.decode .trace (rows 0x14403C18 0x50C00000 0x0 0x0) = .ok (.por (plainWord { tya := .none, tyb := .none, opx := 0, rnd := .rne } fun w => { w with dst := .p 1, sa := .p 2, sb := .p 3 }))
    ∧ Decode.decode .trace (rows 0x14803C18 0x50C00000 0x0 0x0) = .ok (.pxor (plainWord { tya := .none, tyb := .none, opx := 0, rnd := .rne } fun w => { w with dst := .p 1, sa := .p 2, sb := .p 3 })) := by decide

theorem test_decode_moves_2 :
    Decode.decode .trace (rows 0x14C03C18 0x40000000 0x0 0x0) = .ok (.pnot (plainWord { tya := .none, tyb := .none, opx := 0, rnd := .rne } fun w => { w with dst := .p 1, sa := .p 2 }))
    ∧ Decode.decode .trace (rows 0x15003C10 0x40000000 0x0 0x0) = .ok (.pmov (plainWord { tya := .none, tyb := .none, opx := 0, rnd := .rne } fun w => { w with dst := .p 1, sa := .x 2 })) := by decide

theorem test_decode_lanes :
    Decode.decode .trace (rows 0x20003840 0xA1A18040 0x0 0x0) = .ok (.lxch (plainWord { ty := .none, opx := 0, chk := true, slot := 0, scope := .ln } fun w => { w with dst := .x 4, sa := .x 5, sb := .x 6, sc := .p 3 }))
    ∧ Decode.decode .trace (rows 0x20403840 0xA1800000 0x0 0x0) = .ok (.lxup (plainWord { ty := .none, opx := 0, chk := false, slot := 0, scope := .ln } fun w => { w with dst := .x 4, sa := .x 5, sb := .x 6 }))
    ∧ Decode.decode .trace (rows 0x20803840 0xA1800000 0x0 0x0) = .ok (.lxdn (plainWord { ty := .none, opx := 0, chk := false, slot := 0, scope := .ln } fun w => { w with dst := .x 4, sa := .x 5, sb := .x 6 }))
    ∧ Decode.decode .trace (rows 0x20C03840 0xA1800000 0x0 0x0) = .ok (.lxbf (plainWord { ty := .none, opx := 0, chk := false, slot := 0, scope := .ln } fun w => { w with dst := .x 4, sa := .x 5, sb := .x 6 }))
    ∧ Decode.decode .trace (rows 0x21003848 0x40000180 0x0 0x0) = .ok (.vote (plainWord { ty := .none, opx := 3, chk := false, slot := 0, scope := .ln } fun w => { w with dst := .x 4, sa := .p 2 }))
    ∧ Decode.decode .trace (rows 0x21403890 0x40000800 0x0 0x0) = .ok (.lred (plainWord { ty := .s32, opx := 0, chk := false, slot := 0, scope := .ln } fun w => { w with dst := .x 9, sa := .x 2 }))
    ∧ Decode.decode .trace (rows 0x21803890 0x40001180 0x0 0x0) = .ok (.lscn (plainWord { ty := .n32, opx := 3, chk := false, slot := 0, scope := .ln } fun w => { w with dst := .x 9, sa := .x 2 }))
    ∧ Decode.decode .trace (rows 0x21C03858 0xE0000080 0x0 0x0) = .ok (.lcnt (plainWord { ty := .none, opx := 1, chk := false, slot := 0, scope := .ln } fun w => { w with dst := .x 5, sa := .p 7 })) := by decide

theorem test_decode_float :
    Decode.decode .trace (rows 0x40003840 0xA1802801 0x0 0x0) = .ok (.fadd (plainWord { tya := .f32, tyb := .none, opx := 0, rnd := .rz } fun w => { w with dst := .x 4, sa := .x 5, sb := .x 6 }))
    ∧ Decode.decode .trace (rows 0x40403840 0xA1802800 0x0 0x0) = .ok (.fsub (plainWord { tya := .f32, tyb := .none, opx := 0, rnd := .rne } fun w => { w with dst := .x 4, sa := .x 5, sb := .x 6 }))
    ∧ Decode.decode .trace (rows 0x40803840 0xA1802802 0x0 0x0) = .ok (.fmul (plainWord { tya := .f32, tyb := .none, opx := 0, rnd := .rp } fun w => { w with dst := .x 4, sa := .x 5, sb := .x 6 }))
    ∧ Decode.decode .trace (rows 0x40C03840 0xA184A803 0x0 0x0) = .ok (.ffma (plainWord { tya := .f32, tyb := .none, opx := 0, rnd := .rm } fun w => { w with dst := .x 4, sa := .x 5, sb := .x 6, sc := .x 9 }))
    ∧ Decode.decode .trace (rows 0x41003840 0xA1802800 0x0 0x0) = .ok (.fmin (plainWord { tya := .f32, tyb := .none, opx := 0, rnd := .rne } fun w => { w with dst := .x 4, sa := .x 5, sb := .x 6 }))
    ∧ Decode.decode .trace (rows 0x41403840 0xA1802800 0x0 0x0) = .ok (.fmax (plainWord { tya := .f32, tyb := .none, opx := 0, rnd := .rne } fun w => { w with dst := .x 4, sa := .x 5, sb := .x 6 }))
    ∧ Decode.decode .trace (rows 0x41803840 0xA0002800 0x0 0x0) = .ok (.fabs (plainWord { tya := .f32, tyb := .none, opx := 0, rnd := .rne } fun w => { w with dst := .x 4, sa := .x 5 }))
    ∧ Decode.decode .trace (rows 0x41C03840 0xA0002800 0x0 0x0) = .ok (.fneg (plainWord { tya := .f32, tyb := .none, opx := 0, rnd := .rne } fun w => { w with dst := .x 4, sa := .x 5 }))
    ∧ Decode.decode .trace (rows 0x42003C10 0xA1802838 0x0 0x0) = .ok (.fcmp (plainWord { tya := .f32, tyb := .none, opx := 7, rnd := .rne } fun w => { w with dst := .p 1, sa := .x 5, sb := .x 6 }))
    ∧ Decode.decode .trace (rows 0x42403840 0xA0002800 0x0 0x0) = .ok (.fcls (plainWord { tya := .f32, tyb := .none, opx := 0, rnd := .rne } fun w => { w with dst := .x 4, sa := .x 5 }))
    ∧ Decode.decode .trace (rows 0x42803840 0xA0002801 0x0 0x0) = .ok (.frnd (plainWord { tya := .f32, tyb := .none, opx := 0, rnd := .rz } fun w => { w with dst := .x 4, sa := .x 5 })) := by decide

theorem test_decode_functions :
    Decode.decode .trace (rows 0x44003840 0xA1802800 0x0 0x0) = .ok (.fdiv (plainWord { tya := .f32, tyb := .none, opx := 0, rnd := .rne } fun w => { w with dst := .x 4, sa := .x 5, sb := .x 6 }))
    ∧ Decode.decode .trace (rows 0x44403840 0xA0002800 0x0 0x0) = .ok (.fsqrt (plainWord { tya := .f32, tyb := .none, opx := 0, rnd := .rne } fun w => { w with dst := .x 4, sa := .x 5 }))
    ∧ Decode.decode .trace (rows 0x44803840 0xA0002800 0x0 0x0) = .ok (.frcp (plainWord { tya := .f32, tyb := .none, opx := 0, rnd := .rne } fun w => { w with dst := .x 4, sa := .x 5 }))
    ∧ Decode.decode .trace (rows 0x44C03840 0xA0002800 0x0 0x0) = .ok (.frsq (plainWord { tya := .f32, tyb := .none, opx := 0, rnd := .rne } fun w => { w with dst := .x 4, sa := .x 5 }))
    ∧ Decode.decode .trace (rows 0x45003840 0xA0002800 0x0 0x0) = .ok (.fex2 (plainWord { tya := .f32, tyb := .none, opx := 0, rnd := .rne } fun w => { w with dst := .x 4, sa := .x 5 }))
    ∧ Decode.decode .trace (rows 0x45403840 0xA0002800 0x0 0x0) = .ok (.flg2 (plainWord { tya := .f32, tyb := .none, opx := 0, rnd := .rne } fun w => { w with dst := .x 4, sa := .x 5 }))
    ∧ Decode.decode .trace (rows 0x45803840 0xA0002800 0x0 0x0) = .ok (.fsin (plainWord { tya := .f32, tyb := .none, opx := 0, rnd := .rne } fun w => { w with dst := .x 4, sa := .x 5 }))
    ∧ Decode.decode .trace (rows 0x45C03840 0xA0002800 0x0 0x0) = .ok (.fcos (plainWord { tya := .f32, tyb := .none, opx := 0, rnd := .rne } fun w => { w with dst := .x 4, sa := .x 5 }))
    ∧ Decode.decode .trace (rows 0x46003840 0xA0002800 0x0 0x0) = .ok (.fsig (plainWord { tya := .f32, tyb := .none, opx := 0, rnd := .rne } fun w => { w with dst := .x 4, sa := .x 5 }))
    ∧ Decode.decode .trace (rows 0x46403840 0xA0002800 0x0 0x0) = .ok (.ftnh (plainWord { tya := .f32, tyb := .none, opx := 0, rnd := .rne } fun w => { w with dst := .x 4, sa := .x 5 })) := by decide

theorem test_decode_packed :
    Decode.decode .trace (rows 0x48003840 0xA1803000 0x0 0x0) = .ok (.hadd2 (plainWord { tya := .bf16, tyb := .none, opx := 0, rnd := .rne } fun w => { w with dst := .x 4, sa := .x 5, sb := .x 6 }))
    ∧ Decode.decode .trace (rows 0x48403840 0xA1803800 0x0 0x0) = .ok (.hmul2 (plainWord { tya := .f16, tyb := .none, opx := 0, rnd := .rne } fun w => { w with dst := .x 4, sa := .x 5, sb := .x 6 }))
    ∧ Decode.decode .trace (rows 0x48803840 0xA184B800 0x0 0x0) = .ok (.hfma2 (plainWord { tya := .f16, tyb := .none, opx := 0, rnd := .rne } fun w => { w with dst := .x 4, sa := .x 5, sb := .x 6, sc := .x 9 }))
    ∧ Decode.decode .trace (rows 0x48C03840 0xA1803000 0x0 0x0) = .ok (.hmin2 (plainWord { tya := .bf16, tyb := .none, opx := 0, rnd := .rne } fun w => { w with dst := .x 4, sa := .x 5, sb := .x 6 }))
    ∧ Decode.decode .trace (rows 0x49003840 0xA1803800 0x0 0x0) = .ok (.hmax2 (plainWord { tya := .f16, tyb := .none, opx := 0, rnd := .rne } fun w => { w with dst := .x 4, sa := .x 5, sb := .x 6 })) := by decide

theorem test_decode_conversions :
    Decode.decode .trace (rows 0x50003840 0x2004B284 0x0 0x0) = .ok (.cvtf (plainWord { tya := .bf16, tyb := .f32, opx := 0, rnd := .rs } fun w => { w with dst := .x 4, sa := .x 1, sc := .x 9 }))
    ∧ Decode.decode .trace (rows 0x50403840 0x20000A81 0x0 0x0) = .ok (.cvti (plainWord { tya := .s32, tyb := .f32, opx := 0, rnd := .rz } fun w => { w with dst := .x 4, sa := .x 1 }))
    ∧ Decode.decode .trace (rows 0x50803840 0x20002850 0x0 0x0) = .ok (.cvtn (plainWord { tya := .f32, tyb := .none, opx := 10, rnd := .rne } fun w => { w with dst := .x 4, sa := .x 1 })) := by decide

theorem test_decode_blocks :
    Decode.decode .trace (rows 0x50C03860 0x5FC05000 0x0 0x140) = .ok (.cvtq (plainWord { ty := .q4, opx := 0, chk := false, slot := 0, scope := .ln } fun w => { w with dst := .x 6, sa := .x 2, sb := .imm, imm := 0x140 }))
    ∧ Decode.decode .trace (rows 0x51003860 0x40C05000 0x0 0x0) = .ok (.cvte (plainWord { ty := .q4, opx := 0, chk := false, slot := 0, scope := .ln } fun w => { w with dst := .x 6, sa := .x 2, sb := .x 3 })) := by decide

theorem test_decode_memory_1 :
    Decode.decode .trace (rows 0x60003820 0x80000B00 0x0 0x40) = .ok (.ld (plainWord { ty := .s32, ord := .acq, scope := .dev, aop := 0, cnt := 0, pair := false } fun w => { w with dst := .x 2, sa := .x 4, imm := 0x40 }))
    ∧ Decode.decode .trace (rows 0x60403820 0x80002001 0x0 0x0) = .ok (.ldnc (plainWord { ty := .n64, ord := .none, scope := .ln, aop := 0, cnt := 0, pair := true } fun w => { w with dst := .x 2, sa := .x 4 }))
    ∧ Decode.decode .trace (rows 0x60803800 0x81C02802 0x0 0x0) = .ok (.st (plainWord { ty := .f32, ord := .none, scope := .ln, aop := 0, cnt := 1, pair := false } fun w => { w with sa := .x 4, sb := .x 7 }))
    ∧ Decode.decode .trace (rows 0x62003820 0x80000800 0x0 0x0) = .ok (.lds (plainWord { ty := .s32, ord := .none, scope := .ln, aop := 0, cnt := 0, pair := false } fun w => { w with dst := .x 2, sa := .x 4 }))
    ∧ Decode.decode .trace (rows 0x62403820 0x80001000 0x0 0x0) = .ok (.ldsn (plainWord { ty := .n32, ord := .none, scope := .ln, aop := 0, cnt := 0, pair := false } fun w => { w with dst := .x 2, sa := .x 4 }))
    ∧ Decode.decode .trace (rows 0x62803800 0x82001800 0x0 0x0) = .ok (.sts (plainWord { ty := .s64, ord := .none, scope := .ln, aop := 0, cnt := 0, pair := false } fun w => { w with sa := .x 4, sb := .x 8 }))
    ∧ Decode.decode .trace (rows 0x62C03800 0xC0C00800 0x0 0x0) = .ok (.stn (plainWord { ty := .s32, ord := .none, scope := .ln, aop := 0, cnt := 0, pair := false } fun w => { w with sa := .x 6, sb := .x 3 }))
    ∧ Decode.decode .trace (rows 0x64003850 0xC0C00930 0x0 0x0) = .ok (.atm (plainWord { ty := .s32, ord := .none, scope := .dev, aop := 6, cnt := 0, pair := false } fun w => { w with dst := .x 5, sa := .x 6, sb := .x 3 }))
    ∧ Decode.decode .trace (rows 0x64403850 0xC0C21140 0x0 0x0) = .ok (.cas (plainWord { ty := .n32, ord := .none, scope := .sys, aop := 0, cnt := 0, pair := false } fun w => { w with dst := .x 5, sa := .x 6, sb := .x 3, sc := .x 4 }))
    ∧ Decode.decode .trace (rows 0x64803850 0xC0C028C0 0x0 0x80) = .ok (.atms (plainWord { ty := .f32, ord := .none, scope := .clu, aop := 0, cnt := 0, pair := false } fun w => { w with dst := .x 5, sa := .x 6, sb := .x 3, imm := 0x80 }))
    ∧ Decode.decode .trace (rows 0x64C03850 0xC0C20880 0x0 0x0) = .ok (.cass (plainWord { ty := .s32, ord := .none, scope := .team, aop := 0, cnt := 0, pair := false } fun w => { w with dst := .x 5, sa := .x 6, sb := .x 3, sc := .x 4 }))
    ∧ Decode.decode .trace (rows 0x66403800 0x81400001 0x0 0x0) = .ok (.seal (plainWord { ty := .none, ord := .none, scope := .ln, aop := 0, cnt := 0, pair := true } fun w => { w with sa := .x 4, sb := .x 5 })) := by decide

theorem test_decode_memory_2 :
    Decode.decode .trace (rows 0x66803800 0x81400001 0x0 0x0) = .ok (.unsl (plainWord { ty := .none, ord := .none, scope := .ln, aop := 0, cnt := 0, pair := true } fun w => { w with sa := .x 4, sb := .x 5 }))
    ∧ Decode.decode .trace (rows 0x66C03800 0x80000000 0x0 0x0) = .ok (.prf (plainWord { ty := .none, ord := .none, scope := .ln, aop := 0, cnt := 0, pair := false } fun w => { w with sa := .x 4 }))
    ∧ Decode.decode .trace (rows 0x81003800 0xC0000000 0x0 0x80) = .ok (.fset (plainWord { ty := .none, ord := .none, scope := .ln, aop := 0, cnt := 0, pair := false } fun w => { w with sa := .x 6, imm := 0x80 }))
    ∧ Decode.decode .trace (rows 0x81403800 0xC0000000 0x0 0x0) = .ok (.fclr (plainWord { ty := .none, ord := .none, scope := .ln, aop := 0, cnt := 0, pair := false } fun w => { w with sa := .x 6 }))
    ∧ Decode.decode .trace (rows 0x81803810 0xC00002C0 0x0 0x0) = .ok (.ftst (plainWord { ty := .none, ord := .acq, scope := .clu, aop := 0, cnt := 0, pair := false } fun w => { w with dst := .x 1, sa := .x 6 })) := by decide

theorem test_decode_gather :
    Decode.decode .trace (rows 0x680038A2 0x80C00810 0x0 0x100) = .ok (.gath (plainWord { ty := .s32, opx := 0, chk := false, slot := 2, scope := .ln } fun w => { w with dst := .x 10, sa := .x 20, sb := .x 3, imm := 0x100 }))
    ∧ Decode.decode .trace (rows 0x68403802 0x80C42838 0x0 0x0) = .ok (.scat (plainWord { ty := .f32, opx := 0, chk := false, slot := 7, scope := .ln } fun w => { w with sa := .x 20, sb := .x 3, sc := .x 8 })) := by decide

theorem test_decode_scratchpad :
    Decode.decode .trace (rows 0x66103800 0x00000500 0x0 0x0) = .ok (.fnc (plainWord { sub := 0, ord := .rel, scope := .dev, rsv := 0 } fun w => { w with nx := .stop }))
    ∧ Decode.decode .trace (rows 0x8010389F 0xE0818000 0x0 0x1) = .ok (.rgn (plainWord { sub := 0, ord := .none, scope := .ln, rsv := 0 } fun w => { w with nx := .stop, dst := .x 9, sa := .imm, sb := .x 2, sc := .x 3, imm := 0x1 }))
    ∧ Decode.decode .trace (rows 0x8060380F 0xE0000000 0x0 0x0) = .ok (.step (plainWord { sub := 0, ord := .none, scope := .ln, rsv := 0 } fun w => { w with nx := .link, sa := .imm }))
    ∧ Decode.decode .trace (rows 0x8080384F 0xE0000000 0x0 0x2) = .ok (.stepq (plainWord { sub := 0, ord := .none, scope := .ln, rsv := 0 } fun w => { w with dst := .x 4, sa := .imm, imm := 0x2 }))
    ∧ Decode.decode .trace (rows 0x8200380F 0xE2048000 0x0 0x0) = .ok (.bari (plainWord { sub := 0, ord := .none, scope := .ln, rsv := 0 } fun w => { w with sa := .imm, sb := .x 8, sc := .x 9 }))
    ∧ Decode.decode .trace (rows 0x82503850 0x02000000 0x0 0x0) = .ok (.bara (plainWord { sub := 0, ord := .none, scope := .ln, rsv := 0 } fun w => { w with nx := .stop, dst := .x 5, sb := .x 8 }))
    ∧ Decode.decode .trace (rows 0x82903850 0x02000800 0x0 0x0) = .ok (.barw (plainWord { sub := 1, ord := .none, scope := .ln, rsv := 0 } fun w => { w with nx := .stop, dst := .x 5, sb := .x 8 }))
    ∧ Decode.decode .trace (rows 0x82C0380F 0xE2000000 0x0 0x1000) = .ok (.barx (plainWord { sub := 0, ord := .none, scope := .ln, rsv := 0 } fun w => { w with sa := .imm, sb := .x 8, imm := 0x1000 }))
    ∧ Decode.decode .trace (rows 0x83003850 0x02001800 0x0 0x0) = .ok (.barq (plainWord { sub := 3, ord := .none, scope := .ln, rsv := 0 } fun w => { w with dst := .x 5, sb := .x 8 }))
    ∧ Decode.decode .trace (rows 0x84103800 0x81400000 0x0 0x0) = .ok (.team (plainWord { sub := 0, ord := .none, scope := .ln, rsv := 0 } fun w => { w with nx := .stop, sa := .x 4, sb := .x 5 })) := by decide

theorem test_decode_copies :
    Decode.decode .trace (rows 0x900038A0 0x82C00100 0x0 0x100) = .ok (.cpl (plainWord { slot := 0, bcnt := false, sub := 2, rsv := 0 } fun w => { w with dst := .x 10, sa := .x 4, sb := .x 11, imm := 0x100 }))
    ∧ Decode.decode .trace (rows 0x904038A0 0x82C00000 0x0 0x0) = .ok (.cplg (plainWord { slot := 0, bcnt := false, sub := 0, rsv := 0 } fun w => { w with dst := .x 10, sa := .x 4, sb := .x 11 }))
    ∧ Decode.decode .trace (rows 0x90803940 0x820B3800 0x0 0x0) = .ok (.cpt (plainWord { slot := 3, bcnt := true, sub := 0, rsv := 0 } fun w => { w with dst := .x 20, sa := .x 4, sb := .x 8, sc := .x 22 }))
    ∧ Decode.decode .trace (rows 0x90C03940 0x82001000 0x0 0x0) = .ok (.cpo (plainWord { slot := 1, bcnt := false, sub := 0, rsv := 0 } fun w => { w with dst := .x 20, sa := .x 4, sb := .x 8 }))
    ∧ Decode.decode .trace (rows 0x910038A0 0x80000000 0x0 0x0) = .ok (.cpx (plainWord { slot := 0, bcnt := false, sub := 0, rsv := 0 } fun w => { w with dst := .x 10, sa := .x 4 }))
    ∧ Decode.decode .trace (rows 0x91403850 0x80000100 0x0 0x0) = .ok (.shop (plainWord { slot := 0, bcnt := false, sub := 2, rsv := 0 } fun w => { w with dst := .x 5, sa := .x 4 }))
    ∧ Decode.decode .trace (rows 0x91903800 0xA0000000 0x0 0x0) = .ok (.pub (plainWord { slot := 0, bcnt := false, sub := 0, rsv := 0 } fun w => { w with nx := .stop, sa := .x 5 }))
    ∧ Decode.decode .trace (rows 0x91C03850 0x00000100 0x0 0x0) = .ok (.cpq (plainWord { slot := 0, bcnt := false, sub := 2, rsv := 0 } fun w => { w with dst := .x 5 }))
    ∧ Decode.decode .trace (rows 0x92003800 0x00004000 0x0 0x0) = .ok (.cpc (plainWord { slot := 4, bcnt := false, sub := 0, rsv := 0 }))
    ∧ Decode.decode .trace (rows 0x92403850 0x00007000 0x0 0x0) = .ok (.cpbs (plainWord { slot := 7, bcnt := false, sub := 0, rsv := 0 } fun w => { w with dst := .x 5 })) := by decide

theorem test_decode_floe_1 :
    Decode.decode .trace (rows 0xA0103D01 0x02880000 0x0 0x0) = .ok (.mpost (plainWord { tya := .none, tyb := .none, prov := false, rnd := .rne, rsv := 0 } fun w => { w with nx := .stop, dst := .a 0, sa := .x 8, sb := .x 10, sc := .x 16 }))
    ∧ Decode.decode .trace (rows 0xA040385A 0x20000000 0x0 0x0) = .ok (.macq (plainWord { tya := .none, tyb := .none, prov := false, rnd := .rne, rsv := 0 } fun w => { w with dst := .x 5, sa := .a 1 }))
    ∧ Decode.decode .trace (rows 0xA080380A 0x20000000 0x0 0x0) = .ok (.mrel (plainWord { tya := .none, tyb := .none, prov := false, rnd := .rne, rsv := 0 } fun w => { w with sa := .a 1 }))
    ∧ Decode.decode .trace (rows 0xA0C03D20 0x00000000 0x0 0x0) = .ok (.mzer (plainWord { tya := .none, tyb := .none, prov := false, rnd := .rne, rsv := 0 } fun w => { w with dst := .a 2 }))
    ∧ Decode.decode .trace (rows 0xA1003D20 0xA0000000 0x0 0x8000) = .ok (.mlda (plainWord { tya := .none, tyb := .none, prov := false, rnd := .rne, rsv := 0 } fun w => { w with dst := .a 2, sa := .x 5, imm := 0x8000 }))
    ∧ Decode.decode .trace (rows 0xA140385A 0x60000000 0x0 0x0) = .ok (.mrd (plainWord { tya := .none, tyb := .none, prov := false, rnd := .rne, rsv := 0 } fun w => { w with dst := .x 5, sa := .a 3 }))
    ∧ Decode.decode .trace (rows 0xA180385A 0x60000000 0x0 0x8000) = .ok (.msta (plainWord { tya := .none, tyb := .none, prov := false, rnd := .rne, rsv := 0 } fun w => { w with dst := .x 5, sa := .a 3, imm := 0x8000 }))
    ∧ Decode.decode .trace (rows 0xA1C0385A 0x61800000 0x0 0x0) = .ok (.mpub (plainWord { tya := .none, tyb := .none, prov := false, rnd := .rne, rsv := 0 } fun w => { w with dst := .x 5, sa := .a 3, sb := .x 6 }))
    ∧ Decode.decode .trace (rows 0xA210380A 0x20000000 0x0 0x0) = .ok (.msetl (plainWord { tya := .none, tyb := .none, prov := false, rnd := .rne, rsv := 0 } fun w => { w with nx := .stop, sa := .a 1 }))
    ∧ Decode.decode .trace (rows 0xA4003D1A 0x54C02800 0x0 0x0) = .ok (.tadd (plainWord { tya := .f32, tyb := .none, prov := false, rnd := .rne, rsv := 0 } fun w => { w with dst := .a 1, sa := .a 2, sb := .a 3 }))
    ∧ Decode.decode .trace (rows 0xA4403D1A 0x06002808 0x0 0x3) = .ok (.tscl (plainWord { tya := .f32, tyb := .none, prov := false, rnd := .rz, rsv := 0 } fun w => { w with dst := .a 1, sa := .a 0, sb := .x 24, imm := 0x3 }))
    ∧ Decode.decode .trace (rows 0xA4803D1A 0x54C4A800 0x0 0x0) = .ok (.taxpy (plainWord { tya := .f32, tyb := .none, prov := false, rnd := .rne, rsv := 0 } fun w => { w with dst := .a 1, sa := .a 2, sb := .a 3, sc := .x 9 })) := by decide

theorem test_decode_floe_2 :
    Decode.decode .trace (rows 0xA4C03A2A 0x00002800 0x0 0x8404) = .ok (.tmap (plainWord { tya := .f32, tyb := .none, prov := false, rnd := .rne, rsv := 0 } fun w => { w with dst := .x 34, sa := .a 0, imm := 0x8404 }))
    ∧ Decode.decode .trace (rows 0xA5003A2A 0x14402800 0x0 0x8000) = .ok (.tmul (plainWord { tya := .f32, tyb := .none, prov := false, rnd := .rne, rsv := 0 } fun w => { w with dst := .x 34, sa := .a 0, sb := .a 1, imm := 0x8000 }))
    ∧ Decode.decode .trace (rows 0xA540399A 0x00004280 0x0 0x2004) = .ok (.tcvt (plainWord { tya := .e4m3, tyb := .f32, prov := false, rnd := .rne, rsv := 0 } fun w => { w with dst := .x 25, sa := .a 0, imm := 0x2004 }))
    ∧ Decode.decode .trace (rows 0xA8003850 0x00000000 0x0 0x4) = .ok (.tstat (plainWord { tya := .none, tyb := .none, prov := false, rnd := .rne, rsv := 0 } fun w => { w with dst := .x 5, imm := 0x4 }))
    ∧ Decode.decode .trace (rows 0xA8403850 0x00000000 0x0 0x0) = .ok (.mqui (plainWord { tya := .none, tyb := .none, prov := false, rnd := .rne, rsv := 0 } fun w => { w with dst := .x 5 }))
    ∧ Decode.decode .trace (rows 0xA8803840 0xE0000000 0x0 0x0) = .ok (.mtok (plainWord { tya := .none, tyb := .none, prov := false, rnd := .rne, rsv := 0 } fun w => { w with dst := .x 4, sa := .x 7 })) := by decide

theorem test_decode_launch_1 :
    Decode.decode .trace (rows 0xC0103800 0x01028000 0x0 0x3) = .ok (.fwk (plainWord { sub := 0, ord := .none, scope := .ln, rsv := 0 } fun w => { w with nx := .stop, sb := .x 4, sc := .x 5, imm := 0x3 }))
    ∧ Decode.decode .trace (rows 0xC0503800 0x01000000 0x0 0x3) = .ok (.emit (plainWord { sub := 0, ord := .none, scope := .ln, rsv := 0 } fun w => { w with nx := .stop, sb := .x 4, imm := 0x3 }))
    ∧ Decode.decode .trace (rows 0xC090380F 0xE1000D40 0x0 0x1) = .ok (.sgnl (plainWord { sub := 1, ord := .rel, scope := .sys, rsv := 0 } fun w => { w with nx := .stop, sa := .imm, sb := .x 4, imm := 0x1 }))
    ∧ Decode.decode .trace (rows 0xC21038A0 0x01C00000 0x0 0x0) = .ok (.rtkt (plainWord { sub := 0, ord := .none, scope := .ln, rsv := 0 } fun w => { w with nx := .stop, dst := .x 10, sb := .x 7 }))
    ∧ Decode.decode .trace (rows 0xC2533801 0x41C00000 0x0 0x0) = .ok (.rput (plainWord { sub := 0, ord := .none, scope := .ln, rsv := 0 } fun w => { w with nx := .stop, la := true, lb := true, sa := .x 10, sb := .x 7 }))
    ∧ Decode.decode .trace (rows 0xC2913800 0x01C00000 0x0 0x2) = .ok (.qbnd (plainWord { sub := 0, ord := .none, scope := .ln, rsv := 0 } fun w => { w with nx := .stop, lb := true, sb := .x 7, imm := 0x2 }))
    ∧ Decode.decode .trace (rows 0xC2D03801 0x41C00000 0x0 0x0) = .ok (.rskp (plainWord { sub := 0, ord := .none, scope := .ln, rsv := 0 } fun w => { w with nx := .stop, sa := .x 10, sb := .x 7 }))
    ∧ Decode.decode .trace (rows 0xC400385F 0xE0000000 0x0 0x2) = .ok (.prio (plainWord { sub := 0, ord := .none, scope := .ln, rsv := 0 } fun w => { w with dst := .x 5, sa := .imm, imm := 0x2 }))
    ∧ Decode.decode .trace (rows 0xC4403800 0x01000000 0x0 0x0) = .ok (.govh (plainWord { sub := 0, ord := .none, scope := .ln, rsv := 0 } fun w => { w with sb := .x 4 }))
    ∧ Decode.decode .trace (rows 0xD0003850 0x00000000 0x0 0x10) = .ok (.rdsr (plainWord { sub := 0, ord := .none, scope := .ln, rsv := 0 } fun w => { w with dst := .x 5, imm := 0x10 }))
    ∧ Decode.decode .trace (rows 0xD0403800 0xA0000000 0x0 0x20) = .ok (.wrsr (plainWord { sub := 0, ord := .none, scope := .ln, rsv := 0 } fun w => { w with sa := .x 5, imm := 0x20 }))
    ∧ Decode.decode .trace (rows 0xD0803840 0x00000000 0x0 0x0) = .ok (.time (plainWord { sub := 0, ord := .none, scope := .ln, rsv := 0 } fun w => { w with dst := .x 4 })) := by decide

theorem test_decode_launch_2 :
    Decode.decode .trace (rows 0xD0C03850 0x00000000 0x0 0x9) = .ok (.perf (plainWord { sub := 0, ord := .none, scope := .ln, rsv := 0 } fun w => { w with dst := .x 5, imm := 0x9 })) := by decide

theorem test_decode_management :
    Decode.decode .mgmt (rows 0xDC103850 0x00000000 0x0 0x20) = .ok (.fusr (plainWord { sub := 0, ord := .none, scope := .ln, rsv := 0 } fun w => { w with nx := .stop, dst := .x 5, imm := 0x20 }))
    ∧ Decode.decode .mgmt (rows 0xDC503830 0x40000000 0x0 0x0) = .ok (.crypHash (plainWord { sub := 0, ord := .none, scope := .ln, rsv := 0 } fun w => { w with nx := .stop, dst := .x 3, sa := .x 2 }))
    ∧ Decode.decode .mgmt (rows 0xDC503830 0x40000800 0x0 0x0) = .ok (.crypVrfy (plainWord { sub := 1, ord := .none, scope := .ln, rsv := 0 } fun w => { w with nx := .stop, dst := .x 3, sa := .x 2 }))
    ∧ Decode.decode .mgmt (rows 0xDC503830 0x40001000 0x0 0x0) = .ok (.crypSign (plainWord { sub := 2, ord := .none, scope := .ln, rsv := 0 } fun w => { w with nx := .stop, dst := .x 3, sa := .x 2 }))
    ∧ Decode.decode .mgmt (rows 0xDC503830 0x40001800 0x0 0x0) = .ok (.crypVtok (plainWord { sub := 3, ord := .none, scope := .ln, rsv := 0 } fun w => { w with nx := .stop, dst := .x 3, sa := .x 2 }))
    ∧ Decode.decode .mgmt (rows 0xDC903840 0x00000000 0x0 0x1) = .ok (.wipe (plainWord { sub := 0, ord := .none, scope := .ln, rsv := 0 } fun w => { w with nx := .stop, dst := .x 4, imm := 0x1 }))
    ∧ Decode.decode .mgmt (rows 0xDCD33870 0x42000000 0x0 0x3) = .ok (.mext (plainWord { sub := 0, ord := .none, scope := .ln, rsv := 0 } fun w => { w with nx := .stop, la := true, lb := true, dst := .x 7, sa := .x 2, sb := .x 8, imm := 0x3 }))
    ∧ Decode.decode .mgmt (rows 0xDD103850 0x00000000 0x0 0x2) = .ok (.lcst (plainWord { sub := 0, ord := .none, scope := .ln, rsv := 0 } fun w => { w with nx := .stop, dst := .x 5, imm := 0x2 }))
    ∧ Decode.decode .mgmt (rows 0xDD503860 0x00000000 0x0 0x3) = .ok (.dbgo (plainWord { sub := 0, ord := .none, scope := .ln, rsv := 0 } fun w => { w with nx := .stop, dst := .x 6, imm := 0x3 })) := by decide

/-! ### Ill-formed words: one for each check of R125, refused with its cause -/

theorem test_illegal_opcode : Decode.decode .trace (rows 0xFFC00000 0 0 0) = .error .illegal := by decide

theorem test_management_word_on_a_trace_core : ¬ WellFormed .trace (.lcst (plainWord { sub := 0, ord := .none, scope := .ln, rsv := 0 } fun w => { w with nx := .stop, dst := .x 5, imm := 0x2 })) ∧ cause .trace (.lcst (plainWord { sub := 0, ord := .none, scope := .ln, rsv := 0 } fun w => { w with nx := .stop, dst := .x 5, imm := 0x2 })) = some .profile := by unfold WellFormed; decide

/-- Operand code 76 is reserved (R110). -/
theorem test_reserved_operand : ¬ WellFormed .trace (.not (plainWord { tya := .none, tyb := .none, opx := 0, rnd := .rne } fun w => { w with dst := .x 4, sa := .rsvA 0 })) := by unfold WellFormed; decide

theorem test_predicate_as_a_number : ¬ WellFormed .trace (.add (plainWord { tya := .s32, tyb := .none, opx := 0, rnd := .rne } fun w => { w with dst := .x 4, sa := .p 2, sb := .x 6 })) ∧ cause .trace (.add (plainWord { tya := .s32, tyb := .none, opx := 0, rnd := .rne } fun w => { w with dst := .x 4, sa := .p 2, sb := .x 6 })) = some .operandClass := by unfold WellFormed; decide

theorem test_odd_pair : ¬ WellFormed .trace (.mulw (plainWord { tya := .s32, tyb := .none, opx := 0, rnd := .rne } fun w => { w with dst := .x 7, sa := .x 5, sb := .x 6 })) ∧ cause .trace (.mulw (plainWord { tya := .s32, tyb := .none, opx := 0, rnd := .rne } fun w => { w with dst := .x 7, sa := .x 5, sb := .x 6 })) = some .operandClass := by unfold WellFormed; decide

theorem test_cvtf_rs_to_f32 : ¬ WellFormed .trace (.cvtf (plainWord { tya := .f32, tyb := .f32, opx := 0, rnd := .rs } fun w => { w with dst := .x 4, sa := .x 1, sc := .x 9 })) ∧ cause .trace (.cvtf (plainWord { tya := .f32, tyb := .f32, opx := 0, rnd := .rs } fun w => { w with dst := .x 4, sa := .x 1, sc := .x 9 })) = some .modOrImm := by unfold WellFormed; decide

theorem test_cvtq_control_bit_9 : ¬ WellFormed .trace (.cvtq (plainWord { ty := .q4, opx := 0, chk := false, slot := 0, scope := .ln } fun w => { w with dst := .x 6, sa := .x 2, sb := .imm, imm := 0x340 })) ∧ cause .trace (.cvtq (plainWord { ty := .q4, opx := 0, chk := false, slot := 0, scope := .ln } fun w => { w with dst := .x 6, sa := .x 2, sb := .imm, imm := 0x340 })) = some .modOrImm := by unfold WellFormed; decide

/-- A negated p7 as the guard of a word (R109). -/
theorem test_negated_p7 : cause .trace (.nop (plainWord { sub := 0, ord := .none, scope := .ln, rsv := 0 } fun w => { w with psns := true })) = some .pred := by decide

theorem test_sync_word_that_goes_on : ¬ WellFormed .trace (.bara (plainWord { sub := 0, ord := .none, scope := .ln, rsv := 0 } fun w => { w with dst := .x 5, sb := .x 8 })) ∧ cause .trace (.bara (plainWord { sub := 0, ord := .none, scope := .ln, rsv := 0 } fun w => { w with dst := .x 5, sb := .x 8 })) = some .syncNx := by unfold WellFormed; decide

/-! ### Helpers -/


/-- The registers of a lane of the current group set. -/
def setLane (s : State) (l : Nat) (rs : List (Nat × Word)) : State :=
  updG s s.cur fun q => { q with work := rs.foldl (fun v e => wrX v l e.1 e.2) q.work }

/-- A word held right after reset, with registers of lane 0 set. -/
def held (a b c d : Nat) (rs : List (Nat × Word)) : State := setLane (holdWord State.reset (rows a b c d)) 0 rs

/-- A register of lane 0 after a step. -/
def after (o : Host.Outcome State Fault Refusal) (k : Nat) : Option Word :=
  match o with
  | .next t => some (rdX (curG t).work 0 k)
  | _ => none

/-! ### Single steps and results, by hand from the manual's effects -/

/-- A register of lane `l` after a step. -/
def lane (o : Host.Outcome State Fault Refusal) (l k : Nat) : Option Word :=
  match o with
  | .next t => some (rdX (curG t).work l k)
  | _ => none
/-- Predicate `k` of lane 0 after a step. -/
def flag (o : Host.Outcome State Fault Refusal) (k : Nat) : Option Bool :=
  match o with
  | .next t => some (rdP (curG t).work 0 k)
  | _ => none

/-- R142: 2^31 − 1 + 1 saturates -/
theorem test_add_saturates : let o := step (held 0x04003840 0x20800808 0x0 0x0 [(1, 0x7FFFFFFF), (2, 0x1)]); after o 4 = some 0x7FFFFFFF := by decide +kernel

/-- R142: the sum wraps -/
theorem test_add_wraps : let o := step (held 0x04003840 0x20801000 0x0 0x0 [(1, 0xFFFFFFFF), (2, 0x2)]); after o 4 = some 0x1 := by decide +kernel

/-- R142: the carry leaves in C -/
theorem test_addc_carries : let o := step (held 0x04403840 0x20A09000 0x0 0x0 [(1, 0xFFFFFFFF), (2, 0x1)]); after o 4 = some 0x0 ∧ flag o 1 = some true := by decide +kernel

/-- R142: the borrow leaves in C -/
theorem test_subb_borrows : let o := step (held 0x04C03840 0x20A09000 0x0 0x0 [(1, 0x0), (2, 0x1)]); after o 4 = some 0xFFFFFFFF ∧ flag o 1 = some true := by decide +kernel

/-- R142: −(−2^31) saturates -/
theorem test_neg_least : let o := step (held 0x05003840 0x20000808 0x0 0x0 [(1, 0x80000000)]); after o 4 = some 0x7FFFFFFF := by decide +kernel

/-- R142: bits 63:32 of −1 × 2 -/
theorem test_mulh_signed : let o := step (held 0x05C03840 0x20800800 0x0 0x0 [(1, 0xFFFFFFFF), (2, 0x2)]); after o 4 = some 0xFFFFFFFF := by decide +kernel

/-- R142: (2^32 − 1)^2, the sources being the destination -/
theorem test_mulw_same_register : let o := step (held 0x06003840 0x81001000 0x0 0x0 [(4, 0xFFFFFFFF)]); after o 4 = some 0x1 ∧ after o 5 = some 0xFFFFFFFE := by decide +kernel

/-- R142: max(−1, 1) -/
theorem test_max_signed : let o := step (held 0x07803840 0x20800800 0x0 0x0 [(1, 0xFFFFFFFF), (2, 0x1)]); after o 4 = some 0x1 := by decide +kernel

/-- R144: a shift by 32 gives 0 -/
theorem test_shl_by_32 : let o := step (held 0x09403840 0x20801000 0x0 0x0 [(1, 0x5), (2, 0x20)]); after o 4 = some 0x0 := by decide +kernel

/-- R144: a shift by 31 or more gives the sign -/
theorem test_sar_by_100 : let o := step (held 0x09C03840 0x20800800 0x0 0x0 [(1, 0x80000000), (2, 0x64)]); after o 4 = some 0xFFFFFFFF := by decide +kernel

/-- R144: 36 mod 32 = 4 -/
theorem test_rol_by_36 : let o := step (held 0x0A003840 0x20801000 0x0 0x0 [(1, 0x80000001), (2, 0x24)]); after o 4 = some 0x18 := by decide +kernel

/-- R144 -/
theorem test_clz_of_zero : let o := step (held 0x0A403840 0x20001000 0x0 0x0 []); after o 4 = some 0x20 := by decide +kernel

/-- R144: 0x0804 takes bits 11:4 -/
theorem test_bfx_of_the_manual : let o := step (held 0x0B403840 0x3FC01000 0x0 0x804 [(1, 0xABC)]); after o 4 = some 0xAB := by decide +kernel

/-- R144: at position 28 a width of 8 becomes 4 -/
theorem test_bfx_signed_past_the_end : let o := step (held 0x0B403840 0x3FC00800 0x0 0x81C [(1, 0x90000000)]); after o 4 = some 0xFFFFFFF9 := by decide +kernel

/-- R144: four bits at position 4 -/
theorem test_bfi : let o := step (held 0x0B803840 0x20818000 0x0 0x0 [(1, 0xFF), (2, 0x404), (3, 0xFFFFF000)]); after o 4 = some 0xFFFFF0F0 := by decide +kernel

/-- R144 -/
theorem test_sxt_of_a_byte : let o := step (held 0x0BC03840 0x20800000 0x0 0x0 [(1, 0x180), (2, 0x8)]); after o 4 = some 0xFFFFFF80 := by decide +kernel

/-- R182: 2 × 3 + 1 = 7 -/
theorem test_ffma : let o := step (held 0x40C03850 0x2081A800 0x0 0x0 [(1, 0x40000000), (2, 0x40400000), (3, 0x3F800000)]); after o 5 = some 0x40E00000 := by decide +kernel

/-- R166: halfway between 1 and the next BF16 value -/
theorem test_cvtf_ties_to_even : let o := step (held 0x50003840 0x20003280 0x0 0x0 [(1, 0x3F808000)]); after o 4 = some 0x3F80 := by decide +kernel

/-- R110, R146: the low word in the even register -/
theorem test_movw : let o := step (held 0x1200384F 0xE0000000 0x12345678 0x9ABCDEF0 []); after o 4 = some 0x9ABCDEF0 ∧ after o 5 = some 0x12345678 := by decide +kernel

/-- R146 -/
theorem test_add64_carries : let o := step (held 0x11003840 0xC2000000 0x0 0x0 [(6, 0xFFFFFFFF), (8, 0x1)]); after o 4 = some 0x0 ∧ after o 5 = some 0x1 := by decide +kernel

/-- R142: division by zero and of the least number by −1. -/
theorem test_division_corners :
    divVal .s32 0x80000000 0xFFFFFFFF = 0x80000000 ∧ remVal .s32 0x80000000 0xFFFFFFFF = 0 ∧ divVal .n32 7 0 = 0xFFFFFFFF ∧ remVal .n32 7 0 = 7
    ∧ divVal .s32 7 0 = 0x7FFFFFFF ∧ divVal .s32 0xFFFFFFF9 0 = 0x80000000 ∧ divVal .s32 0xFFFFFFF9 2 = 0xFFFFFFFD ∧ remVal .s32 0xFFFFFFF9 2 = 0xFFFFFFFF := by decide

/-- R172: 1 + 2^(−9) to BF16 goes up exactly when h < 0x4000_0000. -/
theorem test_stochastic_rounding :
    (fRound fmtBf16 .rs false false 0x3FFFFFFF (fDecode fmtF32 0x3F804000)).code = 0x3F81 ∧ (fRound fmtBf16 .rs false false 0x40000000 (fDecode fmtF32 0x3F804000)).code = 0x3F80 := by decide +kernel

/-- "One group worked through", after R176: 2^24, 1 and −2^(−30) with S at +0, without the last, and with S at −1 and at 1. -/
theorem test_group_sums :
    let b := FVal.fin false 1 24
    let d := FVal.fin true 1 (-30)
    groupSum [.fin false 0 0, b, .fin false 1 0, d, .fin false 0 0] = 0x4B800001 ∧ groupSum [.fin false 0 0, b, .fin false 1 0, .fin false 0 0] = 0x4B800000
    ∧ groupSum [.fin true 1 0, b, .fin false 1 0, d] = 0x4B800000 ∧ groupSum [.fin false 1 0, b, .fin false 1 0, d] = 0x4B800001 := by decide +kernel

/-- "One block worked through", after R200: cvtq.q4 x6, x2, 0x140, with x2 of lanes 0 to 7 as its table gives it. -/
def aBlock : State :=
  (List.zip (List.range 8) [0x3F400000, 0xBFA66666, 0x40200000, 0x41200000, 0xC1400000, 0x3DCCCCCD, 0x7FC00000, 0x7F800000]).foldl (fun s e => setLane s e.1 [(2, e.2)])
    (held 0x50C03860 0x5FC05000 0 0x140 [])
theorem test_cvtq_block :
    let o := step aBlock
    lane o 0 6 = some 0x700F6291 ∧ lane o 4 6 = some 0x700F6291 ∧ lane o 28 6 = some 0x700F6291 ∧ lane o 1 6 = some 0 ∧ lane o 0 7 = some 0x61 ∧ lane o 31 7 = some 0x61 := by decide +kernel

/-- The same block read back: cvte.f32.q4 x8, x6, x7. -/
def aCoded : State := (List.range 32).foldl (fun s l => setLane s l [(6, if l % 4 = 0 then 0x700F6291 else 0), (7, 0x61)]) (held 0x51003880 0xC1C05000 0x0 0x0 [])
theorem test_cvte_block :
    let o := step aCoded
    (List.range 9).map (fun l => lane o l 8) = [0x3F800000, 0xBF800000, 0x40000000, 0x41000000, 0xC1400000, 0, 0, 0x41400000, 0].map some := by decide +kernel

/-- "Worked example: packing nonzero values": with lanes 3, 7, 8, 20 and 31 left, lred.add.s32 x9, x2 gives 23 and lcnt.ex x5, p7 gives ranks 0 to 4. -/
def packing (a b : Nat) : State :=
  let s := [(3, 5), (7, 9), (8, 0xFFFFFFFC), (20, 12), (31, 1)].foldl (fun s e => setLane s e.1 [(2, e.2)]) (held a b 0 0 [])
  updG s s.cur fun q => { q with run := q.run.map fun r => { r with exm := 0x80100188 } }
theorem test_lred_of_the_manual : lane (step (packing 0x21403890 0x40000800)) 3 9 = some 23 ∧ lane (step (packing 0x21403890 0x40000800)) 31 9 = some 23 := by decide +kernel
theorem test_lcnt_of_the_manual : [3, 7, 8, 20, 31].map (fun l => lane (step (packing 0x21C03858 0xE0000080)) l 5) = [some 0, some 1, some 2, some 3, some 4] := by decide +kernel

/-! ### Witnesses: states and operands that meet the hypotheses of the statements

`wit_X` is for `Obligations.X` or for its part `Parts.X`. The others: `wit_SourcesClaims` and `wit_Buffers` for SourcesClaimsAndBuffers, `wit_Floats` for FloatArithmetic,
FunctionUnits, PackedArithmetic, FloatMinMaxCompareClass, RoundToIntegral, ConvertFloatToFloat and ConvertToAndFromIntegers, `wit_Retire` for the lanes left over in ReturnFromAHalt,
`wit_PktSignal` for the signal of QueuesAndPackets, `wit_CopiesLand` and `wit_Publish` for CopiesLandAndPublish, `wit_Links`, `wit_LinkTimes`, `wit_RefusedPort`, `wit_PortOfARow` and the `Window` ones for LinksAndWindows,
`wit_HostWindow` and `wit_Aperture` for HostWindowAndAperture. -/

/-- Register x1 holds `a` in lane 0 and `b` in the others. -/
def base (a b : Word) : State := (List.range 31).foldl (fun s l => setLane s (l + 1) [(1, b)]) (held 0 0 0 0 [(1, a)])

/-- The running trace of the current group. -/
def runOf (s : State) : Run := (curG s).run.getD { path := 0, tix := 0, entry := 0, exm := 0, words := [] }

/-- An instruction issues in a state with no q operand: everything that `Issues` asks, decided. -/
def issuesB (s : State) (h : Hd) (sh : Shape) (own : Bool) : Bool :=
  decide ((curG s).run = some (runOf s)) && !(runOf s).ended && decide ((getP (curG s) (runOf s).path).state = .running)
    && decide ((curG s).step ≠ .inst ∧ (curG s).step ≠ .settle)
    && (!h.s || decide (∀ e ∈ (curG s).work.pend ++ (curG s).com.pend ++ (curG s).work.ghost ++ (curG s).com.ghost, (curG s).live.getLsbD (e.1 / 64) = true → markerWaits (runOf s) e.2 = false))
    && !anyPend (curG s).work (if h.u then (runOf s).exm else acts s h (runOf s)) (srcRegs h (if own then sh else { sh with na := 0 }))
      (fun p => isScored p || isLoadPend p || isHeldPend p)
    && (!h.u || !uniformBreak (curG s) (runOf s) h sh) && decide (qOpnd h = none) && decide (∀ k ∈ srcRegs h sh, k < 64)
    && (List.range 32).all fun l => decide (bufCount (runOf s) l ≤ 16)

theorem issues_of {s : State} {h : Hd} {sh : Shape} {own : Bool} (e : issuesB s h sh own = true) : Issues s s h sh (runOf s) [] [] own := by
  simp only [issuesB, Bool.and_eq_true, decide_eq_true_eq, Bool.not_eq_true', Bool.or_eq_true] at e
  obtain ⟨⟨⟨⟨⟨⟨⟨⟨⟨a, b⟩, c⟩, d⟩, m⟩, p⟩, u⟩, q⟩, n⟩, f⟩ := e
  refine ⟨a, b, c, d, fun x => ?_, p, fun x => ?_, ?_, n, fun l hl => ?_⟩
  · exact m.resolve_left (by simp [x])
  · exact u.resolve_left (by simp [x])
  · simp [Feeds, q]
  · simpa using List.all_eq_true.mp f l (List.mem_range.mpr hl)

theorem issues_all {s : State} {h : Hd} {own : Bool} {shs : List Shape} (e : (shs.all fun sh => issuesB s h sh own) = true) :
    ∀ sh ∈ shs, Issues s s h sh (runOf s) [] [] own := fun _ m => issues_of (List.all_eq_true.mp e _ m)

/-- A word with no L bit, guard or claim. -/
def wd {M : Type} (mod : M) (d a : Opnd) (b : Opnd := .imm) (c : Opnd := .imm) (v : DWord := 0) (un : Bool := false) : IW M :=
  { nx := .seq, u := un, s := false, la := false, lb := false, lc := false, psns := false, pidx := 7, dst := d, sa := a, sb := b, sc := c, mod := mod, imm := v }

def mA (t : Ty) (o : BitVec 4 := 0) (t2 : Ty := .n32) (m : Rnd := .rne) : ModA := ⟨t, t2, o, m⟩
def x (n : Fin 64) : Opnd := .x n
def p (n : Fin 8) : Opnd := .p n

-- Integer and logic: under every MOD, with a pair at the highest register that has one
theorem wit_IntegerArithmetic :
    (∀ md : ModA, ∀ sh ∈ [({ nb := 1 } : Shape), { nb := 1, nc := 1 }, {}, { nb := 1, nc := 2 }],
      Issues (base 1 2) (base 1 2) (hd (wd md (x 62) (x 1) (x 2) (x 4))) sh (runOf (base 1 2)) [] [])
    ∧ opndReg (x 62) + 1 < 64 :=
  ⟨fun _ => issues_all (h := hd (wd (mA .s32) (x 62) (x 1) (x 2) (x 4))) (by decide +kernel), by decide +kernel⟩

theorem wit_LogicShiftsBitFields : ∀ sh ∈ [({ nb := 1 } : Shape), {}, { nb := 1, nc := 1 }],
    Issues (base 1 2) (base 1 2) (hd (wd (mA .s32) (x 2) (x 1) (x 3) (x 4))) sh (runOf (base 1 2)) [] [] := issues_all (by decide +kernel)

theorem wit_CompareSelectMovePredicates :
    (∀ md : ModA, ∀ sh ∈ [({ nb := 1 } : Shape), { na := 2, nb := 2 }, { na := 2, nb := 1 }, { na := 2 }, {}],
      Issues (base 1 2) (base 1 2) (hd (wd md (x 62) (x 2) (x 4) (p 6))) sh (runOf (base 1 2)) [] [])
    ∧ (5 : BitVec 4).toNat < 6 ∧ opndReg (x 62) + 1 < 64 :=
  ⟨fun _ => issues_all (h := hd (wd (mA .s32) (x 62) (x 2) (x 4) (p 6))) (by decide +kernel), by decide +kernel, by decide +kernel⟩

-- Guards and the mask: sources that agree, and sources that do not
def mI (t : Ty) (o : BitVec 4 := 0) : ModI := ⟨t, o, 0⟩

/-- p6 is set in lane 0 alone. -/
def oneP : State := updG (base 1 2) (base 1 2).cur fun q => { q with work := wrP q.work 0 6 true }

theorem base_all (a : Fin 2) (l : Nat) (h : l < 32) : rdX (curG (base (BitVec.ofNat 32 a) (BitVec.ofNat 32 a))).work l 1 = BitVec.ofNat 32 a := by
  revert a; interval_cases l <;> decide

theorem wit_GuardsAndTheMask :
    (∀ md : ModI, ∀ sh ∈ [({} : Shape), { nb := 1 }, { na := 2, nb := 2 }],
      Issues (base 1 1) (base 1 1) (hd (wd md (x 2) (x 1) (x 4))) sh (runOf (base 1 1)) [] [])
    ∧ (∀ l j, l < 32 → j < 32 → rdX (curG (base 1 1)).work l 1 = rdX (curG (base 1 1)).work j 1)
    ∧ Issues oneP oneP (hd (wd (mI .n32) .imm (p 6))) {} (runOf oneP) [] []
    ∧ (¬ ∀ l j, l < 32 → j < 32 → rdP (curG oneP).work l 6 = rdP (curG oneP).work j 6)
    ∧ Issues (base 1 2) (base 1 2) (hd (wd (mI .n32) .imm (x 1))) {} (runOf (base 1 2)) [] []
    ∧ (¬ ∀ l j, l < 32 → j < 32 → rdX (curG (base 1 2)).work l 1 = rdX (curG (base 1 2)).work j 1) :=
  ⟨fun _ => issues_all (h := hd (wd (mI .n32) (x 2) (x 1) (x 4))) (by decide +kernel),
    fun l j hl hj => (base_all 1 l hl).trans (base_all 1 j hj).symm,
    issues_of (by decide +kernel), fun h => absurd (h 0 1 (by decide +kernel) (by decide +kernel)) (by decide +kernel), issues_of (by decide +kernel),
    fun h => absurd (h 0 1 (by decide +kernel) (by decide +kernel)) (by decide +kernel)⟩

-- TRAP, BKPT, NOP and YLD: a context that can handle a trap, one that masks breakpoints, and one that the debug block stops
def mS (o : BitVec 4 := 0) : ModS := ⟨o, .none, .ln, 0⟩

/-- Context 0 handles traps at node 1 of package 0, whose records take 16 bytes. -/
def handling (s : State) : State :=
  updC s 0 fun c => { c with trapa := 64, trapn := 0x80000001, pkgs := [{ num := 0, nodes := [{ record := 16 }, { record := 16 }] }] }

/-- The debug block of cluster 0 acts on context 0. -/
def debugging (s : State) (act : Nat) : State := updD s 0 fun d => { d with en := true, bkact := act }

theorem wit_TrapBreakpointYieldNop :
    let t := handling (base 1 2)
    let u := debugging (base 1 2) 2
    let v := updB (base 1 2) 0 fun b => { b with masked := true }
    Issues t t (hd (wd (mS) .imm .imm)) { na := 0 } (runOf t) [] [] ∧ acts t (hd (wd (mS) .imm .imm)) (runOf t) ≠ 0
    ∧ (curG t).prof ≠ .mgmt ∧ fatalTrap t (curG t).btag 0x13 0 = none ∧ fatalTrap t (curG t).btag 0x14 0 = none
    ∧ (runOf t).skipB = false ∧ debugged t (curG t) = false ∧ (getB t (curG t).btag).masked = false
    ∧ Issues v v (hd (wd (mS) .imm .imm)) { na := 0 } (runOf v) [] [] ∧ debugged v (curG v) = false ∧ (getB v (curG v).btag).masked = true
    ∧ Issues u u (hd (wd (mS) .imm .imm)) { na := 0 } (runOf u) [] [] ∧ (runOf u).skipB = false ∧ acts u (hd (wd (mS) .imm .imm)) (runOf u) ≠ 0
    ∧ debugged u (curG u) = true ∧ (getD u (curG u).clu).bkact = 2 ∧ (getD u (curG u).clu).istep = false ∧ (getD u (curG u).clu).stopped = false := by
  refine ⟨issues_of (by decide +kernel), ?_, ?_, ?_, ?_, ?_, ?_, ?_, issues_of (by decide +kernel), ?_, ?_, issues_of (by decide +kernel), ?_, ?_, ?_, ?_, ?_, ?_⟩ <;> decide

-- Cross-lane reads: nothing waits, a register that waits for a load, and a scoreboarded one
def mG (t : Ty) (o : BitVec 4 := 0) (c : Bool := false) : ModG := ⟨t, o, c, 0, .ln⟩

/-- A register of lane 31 is pending. -/
def pending (n : Nat) : State := updG (base 1 1) (base 1 1).cur fun q => { q with work := setPend q.work 31 2 n }

theorem wit_CrossLaneReads :
    (∀ n ∈ [0, 1, 2, 3], Issues (pending n) (pending n) (hd (wd (mG .s32) (x 3) (x 2) (x 1) (p 0))) { nb := 1 } (runOf (pending n)) [] [] false
      ∧ (runOf (pending n)).exm.getLsbD 31 = true ∧ (curG (pending n)).live.getLsbD 31 = true ∧ rdPend (curG (pending n)).work 31 2 % 4 = n)
    ∧ acts (base 1 1) (hd (wd (mG .s32) (x 3) (x 2) (x 1) (p 0))) (runOf (base 1 1)) = BitVec.allOnes 32 := by
  refine ⟨fun n h => ?_, by decide +kernel⟩
  fin_cases h <;> exact ⟨issues_of (by decide +kernel), by and_intros <;> decide +kernel⟩

-- Votes, reductions and counts under each OPX at the edges of its ranges
theorem wit_VotesReductionsCounts : ∀ md : ModG, Issues (base 1 2) (base 1 2) (hd (wd md (x 3) (x 1))) {} (runOf (base 1 2)) [] [] :=
  fun _ => issues_of (h := hd (wd (mG .s32) (x 3) (x 1))) (by decide +kernel)

theorem wit_VotesReductionsCounts_opx :
    ((mG .n32 0).opx.toNat = 0 ∧ (mG .n32 1).opx.toNat = 1 ∧ (mG .n32 2).opx.toNat = 2 ∧ (mG .n32 3).opx.toNat = 3)
    ∧ ((mG .f32 2).opx.toNat < 3 ∧ (mG .n32 5).opx.toNat < 6 ∧ (mG .f32 10).opx.toNat % 8 < 3 ∧ 8 ≤ (mG .f32 8).opx.toNat ∧ (mG .n32 13).opx.toNat < 14) := by
  decide

-- Floating point, function units, packed arithmetic and conversions
theorem wit_RoundingChoosesTheNearestCode : fmtF32 ∈ [fmtF32, fmtBf16, fmtF16, fmtE4m3, fmtE5m2] ∧ Rnd.rne ≠ .rs ∧ (1 : Nat) ≠ 0 := by decide +kernel

theorem wit_Floats :
    (∀ md : ModA, ∀ sh ∈ [({ nb := 1 } : Shape), { nb := 1, nc := 1 }, {}, { nc := 1 }],
      Issues (base 0x3F800000 0x40000000) (base 0x3F800000 0x40000000) (hd (wd md (x 3) (x 1) (x 2) (x 4))) sh (runOf (base 0x3F800000 0x40000000)) [] [])
    ∧ (mA .f32).rnd ≠ .rs ∧ (mA .bf16).tya = .bf16 ∧ (mA .f32 7).opx.toNat < 8 ∧ (∀ k, x 3 ≠ .p k) ∧ p 2 = .p 2
    ∧ isFin fmtF32 0x3F800000 = true ∧ isFin fmtF32 0x7F800000 = false ∧ f32NaN 0x7FC00000 = true ∧ (mA .f32 8).opx.getLsbD 3 = true
    ∧ (mA .s32 0).opx.getLsbD 3 = false ∧ (mA .s32 0 .f32 .rs).rnd = .rs :=
  ⟨fun _ => issues_all (h := hd (wd (mA .s32) (x 3) (x 1) (x 2) (x 4))) (by decide +kernel), by and_intros <;> decide +kernel⟩

-- Blocks: a scale control that agrees, and one that does not
theorem wit_FourBitBlocks :
    (∀ md : ModG, ∀ sh ∈ [({ nb := 1 } : Shape), { nb := 1, nc := 1 }],
      Issues (base 1 1) (base 1 1) (hd (wd md (x 62) (x 3) (x 1))) sh (runOf (base 1 1)) [] []
      ∧ Issues (base 1 2) (base 1 2) (hd (wd md (x 62) (x 3) (x 1))) sh (runOf (base 1 2)) [] [])
    ∧ (∀ l j, l < 32 → j < 32 → rdX (curG (base 1 1)).work l 1 = rdX (curG (base 1 1)).work j 1)
    ∧ (rdX (curG (base 1 2)).work 0 1).extractLsb' 0 9 ≠ (rdX (curG (base 1 2)).work 1 1).extractLsb' 0 9 ∧ opndReg (x 62) + 1 < 64 := by
  refine ⟨fun md sh m => ⟨?_, ?_⟩, fun l j hl hj => (base_all 1 l hl).trans (base_all 1 j hj).symm, by decide +kernel, by decide +kernel⟩
  · exact issues_all (h := hd (wd (mG .s32) (x 62) (x 3) (x 1))) (shs := [{ nb := 1 }, { nb := 1, nc := 1 }]) (by decide +kernel) sh m
  · exact issues_all (h := hd (wd (mG .s32) (x 62) (x 3) (x 1))) (shs := [{ nb := 1 }, { nb := 1, nc := 1 }]) (by decide +kernel) sh m

-- Global accesses at each edge: an address out of range, a misaligned one, a page that a TLB holds, writable or not, and one that it does not hold
/-- The cluster holds one page of context 0 for reading at 0 and one for writing at 0x4000. -/
def paged : State := { base 1 2 with
  tlb := [⟨0, 0, 0, 0x4000, 0x8000, false, false, false, none⟩, ⟨0, 0, 0x4000, 0x4000, 0xC000, true, false, false, some 0⟩] }

/-- What the lanes of a state read with a word. -/
def ctx1 (s : State) (h : Hd) : Ctx1 := cx s s h (runOf s) []

theorem wit_GlobalAccessChecks :
    let c := ctx1 paged (hd (wd (mG .s32) (x 3) (x 1)))
    c.q.prof ≠ .mgmt ∧ c.s.ckpts = [] ∧ 2 ^ 57 ≤ 2 ^ 57 ∧ 2 ^ 57 - 1 < 2 ^ 57 ∧ 2 % 4 ≠ 0
    ∧ (∃ t, tlbFind c.s c.q.clu c.q.core c.q.ctx 0x3FFC = some t ∧ t.w = false) ∧ (∃ t, tlbFind c.s c.q.clu c.q.core c.q.ctx 0x4000 = some t ∧ t.w = true)
    ∧ tlbFind c.s c.q.clu c.q.core c.q.ctx 0x8000 = none ∧ (0x8000 / 16384, false) ∉ c.q.walkFault ∧ (0x8000 / 16384, true) ∉ c.q.walkFault
    ∧ (let q : Group := { c.q with walkFault := [(2, false), (3, true), (4, false), (4, true)] }
      tlbFind c.s q.clu q.core q.ctx 0x10000 = none ∧ (0x8000 / 16384, false) ∈ q.walkFault ∧ (0xC000 / 16384, true) ∈ q.walkFault
        ∧ (0x10000 / 16384, false) ∈ q.walkFault ∧ (0x10000 / 16384, true) ∈ q.walkFault) := by
  refine ⟨by decide +kernel, by decide +kernel, by decide +kernel, by decide +kernel, by decide +kernel, ⟨_, rfl, rfl⟩, ⟨_, rfl, rfl⟩, by and_intros <;> decide +kernel⟩

-- Scratchpad accesses: no such bytes, outside the batch, misaligned, a dual region and none, members and not, types that match and not
/-- A region-table entry of 128 bytes at the batch's start, of team-table entry `tmx`, rule `rule` and type 1. -/
def region (tmx rule : Nat) : Nat := 2 ^ 63 + 2 ^ 62 + rule * 2 ^ 59 + 2 ^ 57 + tmx * 2 ^ 48 + 2 ^ 26

/-- A batch of 1 KiB with that region, whose group is a member of team-table entry 1. -/
def spadded (tmx rule : Nat) (s : State) : State :=
  setT (updB s 0 fun b => { b with sps := 1024, regions := [(0, region tmx rule)] }) (tkey 0 1) { v := true, members := 1 }

theorem wit_ScratchpadChecks :
    let c := fun tmx rule => ctx1 (spadded tmx rule (base 1 2)) (hd (wd (mG .s32) (x 3) (x 1)))
    let b := getB (c 1 1).s (c 1 1).q.btag
    ¬ (0x30000 % 2 ^ 18 < 0x30000) ∧ 0x30000 < 2 ^ 26 ∧ ¬ (192 * 2 ^ 18 / 2 ^ 18 < 192) ∧ 192 * 2 ^ 18 < 2 ^ 26
    ∧ (1021 % 2 ^ 18 < 0x30000 ∧ ¬ (b.spb ≤ 1021 ∧ 1021 + 4 ≤ b.spb + b.sps + b.mbox))
    ∧ (b.spb ≤ 1020 ∧ 1020 + 4 ≤ b.spb + b.sps + b.mbox ∧ 1018 % 4 ≠ 0)
    ∧ (∃ e, dualAt b (0 - b.spb) = some e ∧ isMember (c 1 1).s (c 1 1).q (rgnTmx e.2) = true ∧ rgnRule e.2 = 1 ∧ rgnStype e.2 = 1)
    ∧ (∃ e, dualAt (getB (c 2 0).s (c 2 0).q.btag) 127 = some e ∧ isMember (c 2 0).s (c 2 0).q (rgnTmx e.2) = false ∧ rgnRule e.2 ≠ 1)
    ∧ dualAt b (128 - b.spb) = none := by
  refine ⟨by decide +kernel, by decide +kernel, by decide +kernel, by decide +kernel, by decide +kernel, by decide +kernel, ⟨(0, region 1 1), ?_⟩, ⟨(0, region 2 0), ?_⟩, by decide +kernel⟩ <;> decide

-- Loads, stores and atomics: pages that are held, room in the buffers, lines that are full and one that is empty
theorem each_lane {s : State} {h : Hd} {r : Run} {q : Nat → Prop} (e : ∀ l ∈ List.range 32, q l) : ∀ l, Acting s h r l → q l :=
  fun l a => e l (List.mem_range.mpr a.1)

theorem room_empty {s : State} {h : Hd} {r : Run} {out : Nat → LaneOut} {once : Bool} (e : r.bufs = []) (n : ∀ l, (out l).effs.length ≤ 15) :
    Room s h r out once := by
  intro l _ _
  have a := List.length_filter_le (fun b => takesEntry b.eff) (out l).effs
  have b := n l
  simp only [bufCount, e, List.filter_nil, List.length_nil, Nat.zero_add]
  split <;> omega

def mM (t : Ty) (n : BitVec 2 := 0) (o : BitVec 3 := 0) : ModM := ⟨t, .none, .ln, o, n, false⟩

/-- Every lane's x1 holds 0x4000. -/
def onPage : State := { base 0x4000 0x4000 with tlb := paged.tlb }

/-- The same with every lane's x1 at 0 in a batch of 1 KiB, the line there empty. -/
def onSpad (empty : Bool) : State := { spadded 1 1 (base 0 0) with emptyLine := if empty then [(0, true)] else [] }

theorem wit_LoadsAndStores :
    let h := fun md => hd (wd md (x 4) (x 1) (x 2))
    (∀ md : ModM, ∀ sh ∈ [({ na := 1 } : Shape), { nb := 1 }],
      Issues onPage onPage (h md) sh (runOf onPage) [] [] ∧ ∀ e ∈ [true, false], Issues (onSpad e) (onSpad e) (h md) sh (runOf (onSpad e)) [] [])
    ∧ debugged onPage (curG onPage) = false ∧ (runOf onPage).bufs = [] ∧ cpbsOwed onPage onPage.cur (acts onPage (h (mM .s32)) (runOf onPage)) = false
    ∧ (∀ l, Acting onPage (h (mM .s32)) (runOf onPage) l → globalAcc (ctx1 onPage (h (mM .s32))) (accAddr (wd (mM .s32) (x 4) (x 1) (x 2)) (ctx1 onPage (h (mM .s32))) l) 4 .store = .ok .dev 0xC000)
    ∧ poisonAt onPage .dev 0xC000 4 = none ∧ opndReg (x 4) + 1 ≤ 64
    ∧ (∀ e ∈ [true, false], lineEmpty (onSpad e) (spadKey 0 0) = e ∧ spadCheck (ctx1 (onSpad e) (h (mM .s32))) 0 4 4 .read = none
        ∧ cpbsOwed (onSpad e) (onSpad e).cur (acts (onSpad e) (h (mM .s32)) (runOf (onSpad e))) = false ∧ debugged (onSpad e) (curG (onSpad e)) = false) := by
  refine ⟨fun md sh m => ⟨?_, fun e f => ?_⟩, by decide +kernel, by decide +kernel, by decide +kernel, each_lane (by decide +kernel), by and_intros <;> decide +kernel⟩
  · exact issues_all (h := hd (wd (mM .s32) (x 4) (x 1) (x 2))) (shs := [{ na := 1 }, { nb := 1 }]) (by decide +kernel) sh m
  · fin_cases f <;> exact issues_all (h := hd (wd (mM .s32) (x 4) (x 1) (x 2))) (shs := [{ na := 1 }, { nb := 1 }]) (by decide +kernel) sh m

theorem wit_Atomics : ∀ md : ModM, ∀ sh ∈ [({ nb := 1 } : Shape), { nb := 1, nc := 1 }, { nb := 2, nc := 2 }],
    Issues onPage onPage (hd (wd md (x 62) (x 1) (x 2) (x 4))) sh (runOf onPage) [] [] ∧ (∀ d ∈ opndRegs (x 62) 2, d < 64)
    ∧ ∀ l, Acting onPage (hd (wd md (x 62) (x 1) (x 2) (x 4))) (runOf onPage) l →
        globalAcc (ctx1 onPage (hd (wd md (x 62) (x 1) (x 2) (x 4)))) 0x4000 4 .atomic = .ok .dev 0xC000 :=
  fun _ sh m => ⟨issues_all (h := hd (wd (mM .s32) (x 62) (x 1) (x 2) (x 4))) (shs := [{ nb := 1 }, { nb := 1, nc := 1 }, { nb := 2, nc := 2 }]) (by decide +kernel) sh m,
    by decide +kernel, fun _ _ => show globalAcc (ctx1 onPage (hd (wd (mM .s32) (x 62) (x 1) (x 2) (x 4)))) 0x4000 4 .atomic = .ok .dev 0xC000 by decide +kernel⟩

theorem wit_FenceSealPrefetch :
    (∀ md : ModM, ∀ sh ∈ [({ na := 0 } : Shape), { na := 1, nb := 1 }], Issues onPage onPage (hd (wd md (x 3) (x 1) (x 1))) sh (runOf onPage) [] [])
    ∧ (∀ k, x 1 ≠ .q k) ∧ (∀ d ∈ opndRegs (x 3) 1, d < 64)
    ∧ (∀ l j, l < 32 → j < 32 → rdX (curG (base 1 1)).work l 1 = rdX (curG (base 1 1)).work j 1)
    ∧ (curG (base 1 1)).prof ≠ .mgmt ∧ tlbFind (base 1 1) (curG (base 1 1)).clu (curG (base 1 1)).core (curG (base 1 1)).ctx 1 = none ∧ (1 / 16384, false) ∉ (curG (base 1 1)).walkFault :=
  ⟨fun _ => issues_all (h := hd (wd (mM .s32) (x 3) (x 1) (x 1))) (by decide +kernel), by decide +kernel, by decide +kernel,
    fun l j hl hj => (base_all 1 l hl).trans (base_all 1 j hj).symm, by and_intros <;> decide +kernel⟩

-- Gathers: a slot that is done, preset or bound, or named before
/-- x2 and x1 of every lane make the address 0x4000 (x3 and x4 are 0), and slot 0 is in a state. -/
def slotted (st : CpbState) : State := updG onPage onPage.cur fun q => { q with cpb := [(0, { st := st, val := 1 })] }

theorem wit_GatherScatter :
    (∀ st ∈ [CpbState.done, .preset, .bound], ∀ sh ∈ [({ na := 2, nb := 1 } : Shape), { na := 2, nb := 1, nc := 1 }],
      Issues (slotted st) (slotted st) (hd (wd (mG .s32) (x 6) (x 2) (x 1) (x 8))) sh (runOf (slotted st)) [] [])
    ∧ (∀ st ∈ [CpbState.done, .preset, .bound], (sget ({} : Cpb) (curG (slotted st)).cpb 0).st = st ∧ 0 ∉ (runOf (slotted st)).slots
        ∧ cpbsOwed (slotted st) (slotted st).cur 0xFFFFFFFF#32 = false ∧ debugged (slotted st) (curG (slotted st)) = false ∧ (runOf (slotted st)).bufs = [])
    ∧ (∀ l, Acting (slotted .done) (hd (wd (mG .s32) (x 6) (x 2) .imm (x 8) 0x4000)) (runOf (slotted .done)) l →
        globalAcc (ctx1 (slotted .done) (hd (wd (mG .s32) (x 6) (x 2) .imm (x 8) 0x4000))) 0x4000 4 .gath = .ok .dev 0xC000) := by
  refine ⟨fun st f sh m => ?_, by decide +kernel, fun _ _ => by decide +kernel⟩
  fin_cases f <;> exact issues_all (shs := [{ na := 2, nb := 1 }, { na := 2, nb := 1, nc := 1 }]) (by decide +kernel) sh m

theorem wit_FullEmptyBits : ∀ e ∈ [true, false], Issues (onSpad e) (onSpad e) (hd (wd (mM .none) (x 4) (x 1))) {} (runOf (onSpad e)) [] []
    ∧ debugged (onSpad e) (curG (onSpad e)) = false ∧ cpbsOwed (onSpad e) (onSpad e).cur 0xFFFFFFFF#32 = false
    ∧ spadCheck (ctx1 (onSpad e) (hd (wd (mM .none) (x 4) (x 1)))) 0 1 0 .line = none := by
  intro e f; fin_cases f <;> exact ⟨issues_of (by decide +kernel), by and_intros <;> decide +kernel⟩

-- Teams, barriers, launch, rings and system registers: uniform operands, a team slot that is filled and one that is empty
theorem agree_all {s : State} {h : Hd} {r : Run} {ks : List Nat} (e : ∀ k ∈ ks, ∀ l ∈ List.range 32, rdX (curG s).work l k = rdX (curG s).work 0 k) :
    Agree s h r ks := fun k m l j a b => (e k m l (List.mem_range.mpr a.1)).trans (e k m j (List.mem_range.mpr b.1)).symm

/-- x1 is 0 in every lane, team slot 0 names team-table entry 1. -/
def teamed : State := updG (onSpad false) (onSpad false).cur fun q => { q with team := [(0, 257)] }

theorem wit_RegionsTeamsSteps :
    (∀ md : ModS, ∀ sh ∈ [({ na := 0 } : Shape), { na := 1 }, { na := 1, nb := 1 }, { na := 1, nb := 1, nc := 1 }],
      Issues teamed teamed (hd (wd md (x 63) (x 1) (x 2) (x 3))) sh (runOf teamed) [] [])
    ∧ (∀ md : ModS, Agree teamed (hd (wd md (x 63) (x 1) (x 2) (x 3))) (runOf teamed) [1, 2, 3]) ∧ (∀ d ∈ opndRegs (x 63) 1, d < 64) ∧ (∀ k, x 1 ≠ .q k)
    ∧ sget 0 (curG teamed).team 0 ≠ 0 ∧ sget 0 (curG teamed).team 3 = 0 ∧ isMember teamed (curG teamed) 1 = true ∧ debugged teamed (curG teamed) = false :=
  ⟨fun _ => issues_all (h := hd (wd (mS) (x 63) (x 1) (x 2) (x 3))) (by decide +kernel), fun _ => agree_all (by decide +kernel), by and_intros <;> decide +kernel⟩

/-- A barrier object for two of team-table entry 1, valid and with nobody arrived, at 0x80. -/
def barred : State := { teamed with spad := memWrite teamed.spad (spadKey 0 0x80) (leBytes 16 (2 ^ 81 + 2 ^ 82 + 2 * 2 ^ 101)) }

theorem wit_Barriers :
    (∀ md : ModS, ∀ sh ∈ [({ na := 0, nb := 1 } : Shape), { na := 0, nb := 1, nc := 1 }, { na := 1, nb := 1 }],
      Issues barred barred (hd (wd md (x 5) (x 1) .imm (x 3) 0x80)) sh (runOf barred) [] [])
    ∧ Agree barred (hd (wd (mS) (x 5) (x 1) .imm (x 3) 0x80)) (runOf barred) [1, 3] ∧ (∀ d ∈ opndRegs (x 5) 1, d < 64)
    ∧ spadCheck (ctx1 barred (hd (wd (mS) (x 5) (x 1) .imm (x 3) 0x80))) 0x80 16 16 .barrier = none
    ∧ field (leNat (memRead barred.spad (spadKey 0 0x80) 16)) 81 81 = 1 ∧ field (leNat (memRead barred.spad (spadKey 0 0x80) 16)) 111 101 = 2
    ∧ isMember barred (curG barred) (field (leNat (memRead barred.spad (spadKey 0 0x80) 16)) 89 82) = true ∧ (runOf barred).bufs = []
    ∧ (mS 0).sub = 0 ∧ (mS 1).sub = 1 ∧ (mS 2).sub ≠ 1 :=
  ⟨fun _ => issues_all (h := hd (wd (mS) (x 5) (x 1) .imm (x 3) 0x80)) (by decide +kernel), agree_all (by decide +kernel), by and_intros <;> decide +kernel⟩

/-- A ring of 256 bytes of 16-byte records (or bytes) at the batch's start, its header at 0x80. -/
def ringed (bytes : Bool) : State :=
  { teamed with spad := memWrite teamed.spad (spadKey 0 0x80) (leBytes 64 (2 ^ 63 + (if bytes then 2 ^ 62 else 4 * 2 ^ 58) + 256)) }

theorem wit_LaunchRingsGovernor :
    (∀ md : ModS, ∀ sh ∈ [({ na := 0, nb := 1, nc := 1 } : Shape), { na := 0, nb := 1 }, { na := 1, nb := 2 }, { na := 1 }, { nb := 1 }, { na := 0 }],
      Issues teamed teamed (hd (wd md (x 5) (x 1) (x 2) (x 3))) sh (runOf teamed) [] [])
    ∧ Agree teamed (hd (wd (mS) (x 5) (x 1) (x 2) (x 3))) (runOf teamed) [1, 2, 3] ∧ (∀ k, x 1 ≠ .q k) ∧ (∀ d ∈ opndRegs (x 5) 1, d < 64)
    ∧ (∀ e ∈ [true, false], (ringHdr (ringed e) (getB (ringed e) 0) 0x80).v = true ∧ (ringHdr (ringed e) (getB (ringed e) 0) 0x80).bad = false
        ∧ (ringHdr (ringed e) (getB (ringed e) 0) 0x80).byteRing = e ∧ spadCheck (ctx1 (ringed e) (hd (wd (mS) (x 5) (x 1) (x 2) (x 3)))) 0x80 64 64 .read = none)
    ∧ (∀ l, Acting onPage (hd (wd (mS) (x 5) (x 1) (x 2) (x 3))) (runOf onPage) l →
        globalAcc (ctx1 onPage (hd (wd (mS) (x 5) (x 1) (x 2) (x 3)))) 0x4000 16 .atomic ≠ .wait) :=
  ⟨fun _ => issues_all (h := hd (wd (mS) (x 5) (x 1) (x 2) (x 3))) (by decide +kernel), agree_all (by decide +kernel), by decide +kernel, by decide +kernel, by decide +kernel, fun _ _ => by decide +kernel⟩

theorem wit_SystemRegisters :
    (∀ md : ModS, ∀ n ∈ [(0 : DWord), 5, 8, 0x0B, 0x10, 0x18, 0x20, 0x27], ∀ sh ∈ [({ na := 0 } : Shape), {}],
      Issues (base 1 1) (base 1 1) (hd (wd md (x 62) (x 1) .imm .imm n)) sh (runOf (base 1 1)) [] [])
    ∧ Agree (base 1 1) (hd (wd (mS) (x 62) (x 1) .imm .imm 0x20)) (runOf (base 1 1)) [1] ∧ opndReg (x 62) + 1 < 64
    ∧ Issues (base 1 1) (base 1 1) (hd (wd (mS) (x 4) .imm .imm .imm 0 true)) { na := 0 } (runOf (base 1 1)) [] []
    ∧ Acting (base 1 1) (hd (wd (mS) (x 4) .imm .imm .imm 0 true)) (runOf (base 1 1)) 0
    ∧ Acting (base 1 1) (hd (wd (mS) (x 4) .imm .imm .imm 0 true)) (runOf (base 1 1)) 1 ∧ BitVec.ofNat 32 0 ≠ BitVec.ofNat 32 1 := by
  refine ⟨fun md n f sh m => ?_, agree_all (by decide +kernel), by decide +kernel, issues_of (by decide +kernel), ⟨by decide +kernel, by decide +kernel⟩, ⟨by decide +kernel, by decide +kernel⟩, by decide +kernel⟩
  exact issues_all (h := hd (wd (mS) (x 62) (x 1) .imm .imm n)) (shs := [{ na := 0 }, {}]) (by fin_cases f <;> decide) sh m

-- Handles: a table entry of each kind behind the page tables of a context
/-- Context 0 sees device memory from 0 to 1 GiB at the same addresses; its handle table, at 0x4000, has one entry of generation 1. -/
def mapped (s : State) (entry : Nat) : State :=
  { updC s 0 (fun c => { c with bound := true, nh := 1, htab := 0x4000 }) with
    dmem := memWrite (memWrite [(0, 0x01), (1, 0x10), (0x1000, 0x01), (0x1001, 0x20), (0x2000, 0x07)] 0x4000 (leBytes 32 entry)) 0x5000 (leBytes 8 0x8000) }

/-- A range of 256 bytes that may be read and written, its page list at 0x5000. -/
def range256 (v rd w shd : Nat) (sst : Nat := 0) : Nat :=
  256 * 2 ^ 144 + 2 ^ 132 + v * 2 ^ 131 + w * 2 ^ 130 + rd * 2 ^ 129 + shd * 2 ^ 128 + 0x5000 * 2 ^ 64 + sst * 2 ^ 20

theorem wit_CopyChecks :
    let raw := fun e => leNat (memRead (mapped (base 1 1) e).dmem ((getC (mapped (base 1 1) e) 0).htab + 32 * 0) 32)
    (∀ e ∈ [range256 0 1 1 0, range256 1 1 1 0, range256 1 0 0 0, range256 1 1 1 1 1, range256 1 1 1 1 3], raw e = e)
    ∧ (range256 0 1 1 0).testBit 131 = false ∧ (range256 1 1 1 0).testBit 131 = true ∧ (range256 1 0 0 0).testBit 129 = false
    ∧ 0x100000 / 2 ^ 20 = field (range256 1 1 1 0) 143 132 ∧ 0x200000 / 2 ^ 20 ≠ field (range256 1 1 1 0) 143 132 ∧ field (range256 1 1 1 0) 191 144 = 256
    ∧ (range256 1 1 1 1 1).testBit 128 = true ∧ field (range256 1 1 1 1 1) 21 20 = 1 ∧ field (range256 1 1 1 1 3) 21 20 = 3
    ∧ plistAt (mapped (base 1 1) (range256 1 1 1 0)) 0x5000 0 = 0x8000 ∧ isPeer 0x8000 = false
    ∧ codePage (mapped (base 1 1) (range256 1 1 1 0)) 0x8000 0x4000 = false
    ∧ codePage (updC (mapped (base 1 1) (range256 1 1 1 0)) 0 fun c => { c with pkgs := [{ num := 0, nodes := [], pages := [0x8000] }] }) 0x8000 0x4000 = true
    ∧ 2 ^ 128 - 1 < 2 ^ 128 ∧ 15 < 16 ∧ 2 ^ 32 - 1 < 2 ^ 32 := by decide +kernel

/-- Context 0 has the one handle, which every lane's x1 names; the batch has 1 KiB. -/
def handled : State := mapped (spadded 1 1 (base 0x100000 0x100000)) (range256 1 1 1 0)

/-- Slot 0 is bound. -/
def boundSlot (s : State) : State := updG s s.cur fun q => { q with cpb := [(0, { st := .bound })] }

def mC (sub : BitVec 4) (b : Bool := false) (slot : Fin 8 := 0) : ModC := ⟨slot, b, sub, 0⟩

theorem wit_CopiesAtIssue :
    (∀ md : ModC, ∀ sh ∈ [({ nb := 1, nc := 0, nd := 1 } : Shape), { nb := 1, nc := 1, nd := 1 }, { nb := 0, nc := 0 }, { nb := 0, nc := 1 }, { nb := 1, nc := 1 },
        { nb := 4, nc := 1, nd := 1 }, { na := 0 }, { na := 1 }, {}],
      Issues handled handled (hd (wd md (x 4) (x 1) (x 60) (x 3))) sh (runOf handled) [] [])
    ∧ Agree handled (hd (wd (mC 2) (x 4) (x 1) (x 60) (x 3))) (runOf handled) [1, 3, 4, 60, 61, 62, 63] ∧ (∀ k, x 1 ≠ .q k) ∧ (∀ k, x 3 ≠ .q k)
    ∧ x 60 ≠ .imm ∧ (∃ k, x 60 = .x k ∧ k.val ≤ 60)
    ∧ (∀ k ∈ opndRegs (x 60) (4 * 2 ^ 2 / 4), k < 64) ∧ (mC 2).sub.toNat < 3 ∧ (mC 2).sub.getLsbD 2 = false ∧ (mC 7).sub.getLsbD 2 = true
    ∧ (sget ({} : Cpb) (curG handled).cpb 0).st ≠ .bound ∧ 0 ∉ (runOf handled).slots ∧ debugged handled (curG handled) = false ∧ (runOf handled).bufs = []
    ∧ cpbsOwed handled handled.cur 0xFFFFFFFF#32 = false
    ∧ (sget ({} : Cpb) (curG (boundSlot handled)).cpb 0).st = .bound ∧ acts handled (hd (wd (mC 2) (x 4) (x 1) (x 60) (x 3))) (runOf handled) ≠ 0
    ∧ hCheck handled 0 0x100000 { rd := true, ivs := [(240, 16)] } = none ∧ boundsCheck (getB handled 0) 1008 16 true = none
    ∧ boundsCheck (getB handled 0) 1009 16 true = some 0 ∧ boundsCheck (getB handled 0) 0 16 true = some 1 ∧ boundsCheck (getB handled 0) 1009 16 false = some 2 :=
  ⟨fun _ => issues_all (h := hd (wd (mC 2) (x 4) (x 1) (x 60) (x 3))) (by decide +kernel), agree_all (by decide +kernel), by decide +kernel, by decide +kernel, by decide +kernel, ⟨60, rfl, by decide +kernel⟩,
    by and_intros <;> decide +kernel⟩

/-- Effects of lane 0 on its way: a store to 0xC000, one to the scratchpad's first bytes, and its first line's bit. -/
def behind (s : State) : State := { s with
  flight := ([.store .dev 0x4000 0xC000 [1, 2, 3, 4], .store .spad 0 (spadKey 0 0) [1, 2, 3, 4], .line 0 false] : List Eff).map fun e =>
    { g := s.cur, btag := 0, lanes := 1, tno := 0, eff := e } }

/-- An acquiring atomic of lane 0 on its way. -/
def acquiring (s : State) : State := { s with flight := [{ g := s.cur, btag := 0, lanes := 1, tno := 0, eff := .atom .dev 0x4000 0xC000 .add .n32 1 0 (64 * 7 + 5), ord := .acq }] }

theorem wit_Settled :
    (∀ s ∈ [onPage, onSpad true, onSpad false, slotted .done, teamed, barred, ringed true, ringed false, handled], s.flight = [] ∧ acqOwed s s.cur 0xFFFFFFFF#32 = false)
    ∧ (let s := acquiring onPage; acqOwed s s.cur 1 = true ∧ ∃ f ∈ s.flight, f.g = s.cur ∧ f.lanes.getLsbD 0 = true ∧ f.ord = .acq)
    ∧ (∀ sh ∈ [({} : Shape), { na := 1 }], Issues (acquiring onPage) (acquiring onPage) (hd (wd (mM .s32) (x 4) (x 1))) sh (runOf (acquiring onPage)) [] [])
    ∧ (∀ e ∈ [true, false], ¬ Settled (ctx1 (behind (onSpad e)) (hd (wd (mM .s32) (x 4) (x 1)))) 0 2 0 4 ∧ ¬ Settled (ctx1 (behind (onSpad e)) (hd (wd (mM .s32) (x 4) (x 1)))) 0 4 0 1
        ∧ Issues (behind (onSpad e)) (behind (onSpad e)) (hd (wd (mM .s32) (x 4) (x 1))) {} (runOf (behind (onSpad e))) [] [])
    ∧ ¬ Settled (ctx1 (behind onPage) (hd (wd (mM .s32) (x 4) (x 1)))) 0 (spaceNo .dev) (placeAt .dev 0xC000) 4
    ∧ Issues (behind onPage) (behind onPage) (hd (wd (mM .s32) (x 4) (x 1))) { na := 1 } (runOf (behind onPage)) [] [] := by
  refine ⟨fun s m => by fin_cases m <;> exact ⟨rfl, by decide +kernel⟩, ⟨by decide +kernel, _, List.mem_singleton_self _, rfl, by decide +kernel, rfl⟩,
    issues_all (by decide +kernel), fun e m => ?_, fun h => ?_, issues_of (by decide +kernel)⟩
  · fin_cases m <;> exact ⟨fun h => absurd (h _ (.tail _ (.head _)) (by decide +kernel) (by decide +kernel) 0 4 (by decide +kernel)) (by decide +kernel),
      fun h => absurd (h _ (.tail _ (.tail _ (.head _))) (by decide +kernel) (by decide +kernel) 0 1 (by decide +kernel)) (by decide +kernel), issues_of (by decide +kernel)⟩
  · exact absurd (h _ (.head _) (by decide +kernel) (by decide +kernel) 0xC000 4 (by decide +kernel)) (by decide +kernel)

-- The floe: handles bound, free and released in the trace; rows in the batch, misaligned, out of it, and in a dual region
def a (n : Fin 8) : Opnd := .a n
def mT (t : Ty := .none) (m : Rnd := .rne) : ModT := ⟨t, .none, false, m, 0⟩

/-- A batch of 64 KiB with a dual region of 128 bytes at its start; handles a0 to a2 name tiles 0 to 2, and an MREL of a2 is buffered. Every x1 holds 0x80. -/
def floed : State := updG (updB (spadded 1 1 (base 0x80 0x80)) 0 fun b => { b with sps := 65536 }) (base 0 0).cur fun q =>
  { q with hnd := [(0, 8), (1, 9), (2, 10)], run := q.run.map fun r => { r with bufs := [{ lanes := 0xFFFFFFFF, eff := .tile { kind := .mrel, a := 2, h := 2 } }] } }

theorem wit_FloeChecks :
    let c := ctx1 floed (hd (wd (mT) (a 0) (x 1)))
    sget 0 c.q.hnd 3 = 0 ∧ sget 0 c.q.hnd 0 ≠ 0 ∧ (∀ b ∈ c.r.bufs, ∀ t, b.eff = .tile t → t.h ≠ 0)
    ∧ (∃ b ∈ c.r.bufs, ∃ t, b.eff = .tile t ∧ (t.kind = .mrel ∨ t.kind = .mpub) ∧ t.h = 2)
    ∧ 8 % 16 ≠ 0 ∧ 0x80 % 16 = 0 ∧ spadRange (getB c.s c.q.btag) (0x80 + 16 * 8 * 31) 128 = none
    ∧ spadRange (getB c.s c.q.btag) (65536 - 127) 128 = some 1 ∧ touchesDual (getB c.s c.q.btag) 127 1 = true
    ∧ (∀ r, r < 32 → touchesDual (getB c.s c.q.btag) (0x80 + 16 * 8 * r) 128 = false) := by
  refine ⟨by decide +kernel, by decide +kernel, ?_, ⟨_, List.mem_singleton_self _, _, rfl, by decide +kernel, by decide +kernel⟩, by decide +kernel, by decide +kernel, by decide +kernel, by decide +kernel, by decide +kernel, ?_⟩
  · intro b m t e; rw [List.mem_singleton.mp m] at e; cases e; decide
  · intro r h; interval_cases r <;> decide

theorem wit_FloeAtIssue :
    (∀ md : ModT, ∀ sh ∈ [({ na := 0 } : Shape), { na := 0, nb := 1 }, {}, { na := 0, nd := 1 }, { na := 0, nc := 1 }, { na := 0, nb := 1, nc := 1, nd := 1 }],
      ∀ d ∈ [a 0, x 62], ∀ u ∈ [a 1, x 1], Issues floed floed (hd (wd md d u (x 2) (x 3))) sh (runOf floed) [] [])
    ∧ Agree floed (hd (wd (mT) (x 62) (a 1) (x 2) (x 3))) (runOf floed) [1, 2, 3, 62] ∧ (∀ k, x 1 ≠ .q k) ∧ (∀ d ∈ opndRegs (x 62) 1, d < 64)
    ∧ (∀ l, bufCount (runOf floed) l ≤ 1) ∧ debugged floed (curG floed) = false ∧ opndReg (x 62) + 1 < 64
    ∧ unbound (ctx1 floed (hd (wd (mT) (a 0) (a 1)))) [a 0, a 1] = none ∧ unbound (ctx1 floed (hd (wd (mT) (a 0) (a 2)))) [a 0, a 2] = some 2
    ∧ overflows (opLineage (viewF (ctx1 floed (hd (wd (mT) (a 0) (a 1))))) { kind := .tadd, d := 0, a := 1, b := 1 } 0 0) false = none := by
  refine ⟨fun md sh m d e u f => ?_, agree_all (by decide +kernel), by decide +kernel, by decide +kernel, fun l => ?_, by and_intros <;> decide +kernel⟩
  · exact issues_all (h := hd (wd (mT) d u (x 2) (x 3))) (shs := [{ na := 0 }, { na := 0, nb := 1 }, {}, { na := 0, nd := 1 }, { na := 0, nc := 1 }, { na := 0, nb := 1, nc := 1, nd := 1 }])
      (by fin_cases e <;> fin_cases f <;> decide) sh m
  · exact List.length_filter_le _ _

theorem wit_PostsAtIssue :
    (∀ md : ModT, Issues floed floed (hd (wd md (a 0) (x 2) (x 4) (x 56))) { na := 2, nb := 2, nc := 8 } (runOf floed) [] []
      ∧ Issues floed floed (hd (wd md (a 0) (x 2) (x 4) (x 56) 3)) { na := 32, nb := 32, nc := 8 } (runOf floed) [] []
      ∧ Issues floed floed (hd (wd md (a 0) (a 1) (x 4) (x 56))) { na := 0, nb := 2, nc := 8 } (runOf floed) [] [])
    ∧ Agree floed (hd (wd (mT) (a 0) (x 2) (x 4) (x 56))) (runOf floed) (opndRegs (x 2) 2 ++ opndRegs (x 4) 2 ++ opndRegs (x 56) 8)
    ∧ (∃ k : Fin 64, x 56 = .x k ∧ k.val ≤ 56) ∧ (∀ k, x 2 ≠ .q k) ∧ debugged floed (curG floed) = false := by
  refine ⟨fun md => ⟨?_, ?_, ?_⟩, agree_all (by decide +kernel), ⟨56, rfl, by decide +kernel⟩, by decide +kernel, by decide +kernel⟩
  · exact issues_of (h := hd (wd (mT) (a 0) (x 2) (x 4) (x 56))) (by decide +kernel)
  · exact issues_of (h := hd (wd (mT) (a 0) (x 2) (x 4) (x 56) 3)) (by decide +kernel)
  · exact issues_of (h := hd (wd (mT) (a 0) (a 1) (x 4) (x 56))) (by decide +kernel)

-- The management core, where a word of its profile is held
def managing : State := holdWord State.reset (rows 0xDC000000 0 0 0)

theorem wit_ManagementAtIssue :
    (∀ md : ModS, ∀ sh ∈ [({ na := 0 } : Shape), {}, { nb := 1 }], Issues managing managing (hd (wd md (x 63) (x 1) (x 2))) sh (runOf managing) [] [])
    ∧ Agree managing (hd (wd (mS) (x 63) (x 1) (x 2))) (runOf managing) [1, 2] ∧ (∀ k, x 1 ≠ .q k) ∧ (∀ d ∈ opndRegs (x 63) 1, d < 64)
    ∧ (curG managing).prof = .mgmt ∧ debugged managing (curG managing) = false ∧ (runOf managing).bufs = [] :=
  ⟨fun _ => issues_all (h := hd (wd (mS) (x 63) (x 1) (x 2))) (by decide +kernel), agree_all (by decide +kernel), by and_intros <;> decide +kernel⟩

-- What holds an instruction back: a register of each pending state, and a claim that is false
theorem wit_SourcesClaims :
    (∀ n ∈ [0, 1, 2, 3], let s := pending n; let h := hd (wd (mA .s32) (x 3) (x 2) (x 1))
      (curG s).run = some (runOf s) ∧ (runOf s).ended = false ∧ (getP (curG s) (runOf s).path).state = .running ∧ (curG s).step ≠ .inst ∧ (curG s).step ≠ .settle
      ∧ h.s = false ∧ (∀ k ∈ srcRegs h { nb := 1 }, k < 64) ∧ 2 ∈ srcRegs h { nb := 1 } ∧ (acts s h (runOf s)).getLsbD 31 = true ∧ rdPend (curG s).work 31 2 % 4 = n)
    ∧ (hd (wd (mA .s32) (x 3) (x 2) (x 1) .imm 0 true)).u = true ∧ (runOf (base 1 2)).exm.getLsbD 0 = true ∧ (runOf (base 1 2)).exm.getLsbD 31 = true
    ∧ rdX (curG (base 1 2)).work 0 1 ≠ rdX (curG (base 1 2)).work 31 1 := by decide +kernel

/-- Sixteen stores of lane 0 are buffered. -/
def fullBuffer : State := updG (onSpad false) (onSpad false).cur fun q =>
  { q with run := q.run.map fun r => { r with bufs := List.replicate 16 { lanes := 1, eff := .store .spad 0x80 0x80 [0] } } }

theorem wit_Buffers :
    (∀ md : ModM, Issues fullBuffer fullBuffer (hd (wd md .imm (x 1) (x 2) .imm 0x80)) { nb := 1 } (runOf fullBuffer) [] [])
    ∧ debugged fullBuffer (curG fullBuffer) = false ∧ Acting fullBuffer (hd (wd (mM .s32) .imm (x 1) (x 2) .imm 0x80)) (runOf fullBuffer) 0
    ∧ spadCheck (ctx1 fullBuffer (hd (wd (mM .s32) .imm (x 1) (x 2) .imm 0x80))) 0x80 4 4 .single = none ∧ bufCount (runOf fullBuffer) 0 = 16 :=
  ⟨fun _ => issues_of (h := hd (wd (mM .s32) .imm (x 1) (x 2) .imm 0x80)) (by decide +kernel), by decide +kernel, ⟨by decide +kernel, by decide +kernel⟩, by decide +kernel, by decide +kernel⟩

-- Traces: entries of a table that fail at each check, and one that does not
/-- A trace-table entry: its first word, the words less 1, the successor kind and link, registers, successor and return index. -/
def entry (start len sk link regs succ retix : Nat) : Nat :=
  start * 2 ^ 224 + len * 2 ^ 216 + sk * 2 ^ 213 + link * 2 ^ 207 + regs * 2 ^ 192 + succ * 2 ^ 168 + retix * 2 ^ 136

/-- NOP words that stop, go on and link, and a word of no instruction. -/
def words : List IWord := [rows 0x02503800 0 0 0, rows 0x02403800 0 0 0, rows 0x02603800 0 0 0, rows 0xFFD03800 0 0 0]

/-- A group of one path at an index, in a batch whose trace table is at 0x6000 and whose code is at 0x7000. -/
def single (tix : Nat) (st : PState := .ready) : State :=
  setG (updB (updC State.reset 0 fun c => { c with bound := true }) 0 fun b =>
      { b with res := true, ttBase := 0x6000, ttNum := 7, codeBase := 0x7000, codeLen := 0x200, groups := [(0, 0)], ngroups := 1 }) 0
    { res := true, live := 0xFFFFFFFF, paths := [(0, { tix := tix, state := st, mask := 0xFFFFFFFF })], com := { uni := BitVec.allOnes 64 } }

/-- The same with its table and its words in memory, and those lines in the core. -/
def coded (tix : Nat) (st : PState := .ready) : State :=
  let m := memWrite (mapped State.reset 0).dmem 0x6000 (([entry 0 0 0 0 4 9 0, entry 0 0 6 0 0 0 0, entry 0x400 0 0 0 0 0 0, entry 16 0 0 0 0 0 0, entry 32 0 0 0 0 0 0,
    entry 48 0 0 0 0 0 0, entry 128 0 0 0 0 0 0].map (leBytes 32)).flatten)
  { single tix st with
    dmem := memWrite m 0x7000 ((words.map fun w => leBytes 16 w.toNat).flatten)
    code := [⟨0, 0, 0xC0, false, false⟩, ⟨0, 0, 0xC1, false, false⟩, ⟨0, 0, 0xE0, false, false⟩] }

/-- The line of its first word is held poisoned. -/
def spoilt (tix : Nat) : State := { coded tix with code := (coded tix).code.map fun c => if c.line = 0xE0 then { c with poison := true } else c }

theorem wit_EntryChecks :
    let s := coded 0
    let q := getG s 0
    let raw := fun t => leNat (ctxRead s 0 (0x6000 + 32 * t) 32)
    (getB s q.btag).ttNum ≤ 7 ∧ 6 < (getB s q.btag).ttNum ∧ (∀ k, 0xC0 ≤ k → k * 128 < 0x6000 + 256 → ∃ c ∈ s.code, c.dropped = false ∧ c.core = coreOf q ∧ c.ctx = q.ctx ∧ c.line = k)
    ∧ (∃ c, lineOf (spoilt 0) 0 0 0xE0 = some c ∧ c.poison = true)
    ∧ field (raw 1) 215 213 = 6 ∧ field (raw 2) 255 224 = 0x400 ∧ field (raw 0) 215 213 = 0 ∧ field (raw 0) 199 192 = 4
    ∧ (List.range 4).map (fun i => Decode.wordOfBytes (ctxRead s 0 (0x7000 + 16 * i) 16)) = words
    ∧ words.map (fun w => field w.toNat 117 116) = [1, 0, 2, 1] ∧ Decode.decode q.prof (rows 0xFFD03800 0 0 0) = .error .illegal
    ∧ (Decode.decode q.prof (rows 0x02503800 0 0 0)).toOption.isSome = true
    ∧ (0x7000 + 0) / 128 ≤ 0xE0 ∧ 0xE0 * 128 < 0x7000 + 0 + 16 := by
  refine ⟨by decide +kernel, by decide +kernel, fun k h g => ?_, ⟨_, rfl, rfl⟩, by and_intros <;> decide +kernel⟩
  have : k = 0xC0 ∨ k = 0xC1 := by omega
  rcases this with rfl | rfl
  · exact ⟨⟨0, 0, 0xC0, false, false⟩, by decide +kernel, rfl, by decide +kernel, by decide +kernel, rfl⟩
  · exact ⟨⟨0, 0, 0xC1, false, false⟩, by decide +kernel, rfl, by decide +kernel, by decide +kernel, rfl⟩

/-- The words and the registers of a trace whose entry passes its checks. -/
def begun : EntryRes → Option (List IWord × Nat)
  | .ok e ws => some (ws, e.regs)
  | _ => none

theorem wit_TraceEntry :
    (∀ st ∈ [PState.ready, .budgetWait, .fetchWait], let q := getG (single 0 st) 0
      q.res = true ∧ q.rescat = false ∧ q.run = none ∧ q.stopped = false ∧ q.recoveryStop = false ∧ q.evict = false ∧ q.debugStop = false ∧ q.frozen = false ∧ q.step = .off
      ∧ (getP q 0).state = st ∧ (∀ j ∈ List.range 32, j ≠ 0 → (getP q j).state = .empty) ∧ footprint q.alloc q.com.uni + 4 ≤ 192 ∧ 4 ≤ trackFree (single 0 st) q)
    ∧ begun (entryCheck (coded 0) (getG (coded 0) 0) 0) = some ([rows 0x02503800 0 0 0], 4)
    ∧ entryCheck (coded 6) (getG (coded 6) 0) 6 = .fetch [0xE1]
    ∧ oldestWait (single 0) (getG (single 0) 0) = none ∧ oldestWait (single 0 .budgetWait) (getG (single 0 .budgetWait) 0) = some (0, 0, 0) := by
  decide +kernel

/-- A trace of all lanes at its end, its successor kind given, every lane with one return index on its stack; and one whose lanes all left with a trap. -/
def ending (sk : Nat) (trap : Option Trap := none) (ready : Bool := true) : State :=
  let s := if ready then handling (single 0) else single 0
  updG s 0 fun q => { q with
    paths := [(0, { tix := 0, state := .running, mask := 0xFFFFFFFF })], link := (List.range 32).map fun l => (l, [9]), work := q.com
    run := some { runOf (base 0 0) with sk := sk, succ := 9, nx := .stop, ended := true, exm := if trap.isSome then 0 else 0xFFFFFFFF
                                        leaves := match trap with | some t => (List.range 32).map fun l => (l, some (.trap t)) | none => [] } }

theorem wit_CommitOfATrace : ∀ sk ∈ [0, 1, 2, 3, 5],
    let s := ending sk
    let q := getG s 0
    let r := q.run.getD (runOf s)
    q.res = true ∧ q.run = some r ∧ r.ended = true ∧ (getP q r.path).state = .running ∧ r.path < 32 ∧ (∀ j ∈ List.range 32, j ≠ r.path → getP q j = noPath)
    ∧ q.prof ≠ .mgmt ∧ q.step = .off ∧ q.frozen = false ∧ r.hold = 0 ∧ r.bufs = [] ∧ r.sync = none ∧ r.gath = [] ∧ r.scats = [] ∧ r.sending = none ∧ r.pops = [] ∧ r.leaves = [] ∧ r.vread = []
    ∧ r.nx = .stop ∧ r.exm ≠ 0 ∧ r.exm = q.live ∧ (∀ l ∈ List.range 32, (sget [] q.link l).length < 16 ∧ sget [] q.link l = [9])
    ∧ s.flight = [] ∧ s.jobs = [] ∧ (getB s q.btag).halt = none
    ∧ (getC s q.ctx).failed = false ∧ (getD s q.clu).stopping = false ∧ (getD s q.clu).stopped = false := by decide +kernel

theorem wit_TakingATrap : ∀ ready ∈ [true, false],
    let s := ending 0 (some { code := 9 }) ready
    let q := getG s 0
    let b := getB s q.btag
    let r := q.run.getD (runOf s)
    q.res = true ∧ q.run = some r ∧ r.ended = true ∧ (getP q r.path).state = .running ∧ r.path < 32 ∧ (∀ j ∈ List.range 32, j ≠ r.path → getP q j = noPath)
    ∧ q.prof ≠ .mgmt ∧ q.step = .off ∧ q.frozen = false ∧ r.hold = 0 ∧ b.ctx = q.ctx ∧ r.exm = 0 ∧ r.entry = 0xFFFFFFFF#32 ∧ r.bufs = [] ∧ r.gath = [] ∧ r.scats = [] ∧ r.sending = none ∧ r.pops = []
    ∧ r.vread = [] ∧ (∀ l ∈ List.range 32, sget none r.leaves l = some (.trap { code := 9 }))
    ∧ s.flight = [] ∧ s.jobs = [] ∧ (getD s q.clu).stopping = false ∧ (getD s q.clu).stopped = false ∧ (getC s b.ctx).failed = false ∧ b.masked = false
    ∧ canHandle (getC s b.ctx) = ready := by decide +kernel

-- Halts: a trace that stalls, the skid, a record that takes slot 0, the table, and each response
/-- The record of a trap of every lane of the group at key 0. -/
def recOf (slot : Option Nat) : HaltRec :=
  { g := 0, path := 0, lanes := 0xFFFFFFFF, exms := 0xFFFFFFFF, tix := 0, trap := { code := 9 }, gnum := 0, clu := 0, core := 0, trk := 0, slot := slot, ended := true }

/-- A batch whose one group stands halted, with the trap area at 0x8000 and a response in slot 0. -/
def halting (slot : Option Nat) (running : Bool) (disp : Nat) : State :=
  let s := handling (single 0 .halted)
  let s := updC (updG (updB s 0 fun b => { b with halt := some { seq := 0, recs := [recOf slot], expired := true, running := running } }) 0 fun q => { q with stopped := true }) 0
    fun c => { c with trapa := 0x8000, slots := if slot.isSome then 1 else 0 }
  { s with dmem := [(0, 0x01), (1, 0x10), (0x1000, 0x01), (0x1001, 0x20), (0x2000, 0x07)] ++ if disp = 0 then [] else [(0x8040, BitVec.ofNat 8 disp)] }

theorem wit_HaltOfABatch :
    (let s := base 1 2; (curG s).run = some (runOf s) ∧ (getP (curG s) (runOf s).path).state = .running ∧ (runOf s).exm ≠ 0 ∧ (runOf s).sending = none ∧ (getG (single 0) 0).run = none)
    ∧ (let s := updB (single 0) 0 fun b => { b with halt := some { seq := 0 } }
      (∃ h, (getB s 0).halt = some h ∧ h.expired = false) ∧ residents s 0 = [0] ∧ (getG s 0).prof ≠ .mgmt)
    ∧ (let s := halting none false 0
      (getB s 0).halt = some { seq := 0, recs := [recOf none], expired := true } ∧ (recOf none).slot = none ∧ (recOf none).collision = none
        ∧ (getC s (getB s 0).ctx).slots.testBit 0 = false ∧ (getC s (getB s 0).ctx).slots < 2 ^ 64)
    ∧ (let s := halting (some 0) false 0
      (getB s 0).halt = some { seq := 0, recs := [recOf (some 0)], expired := true } ∧ (getC s (getB s 0).ctx).failed = false ∧ (recOf (some 0)).slot = some 0
        ∧ residents s 0 = [0] ∧ (getG s 0).stopped = true ∧ s.flight = [] ∧ s.sigs = [] ∧ s.saved = [] ∧ s.teams = []) := by
  refine ⟨by decide +kernel, ⟨⟨{ seq := 0 }, by decide +kernel, by decide +kernel⟩, by decide +kernel, by decide +kernel⟩, by decide +kernel, by decide +kernel⟩

theorem wit_RecordLayouts : (recOf none).trap.addr < 2 ^ 64 ∧ (0 : Nat) < 2 ^ 64 ∧ (recOf none).tix < 2 ^ 24 ∧ (recOf none).trap.off < 256 ∧ (recOf none).trap.code < 256
    ∧ (recOf none).trap.cause < 256 ∧ (recOf none).trap.tcode < 2 ^ 16 ∧ (recOf none).gnum < 1024 ∧ (recOf none).clu < 8 ∧ (recOf none).core < 256 ∧ (recOf none).trk < 8
    ∧ (recOf none).path < 32 ∧ (let q := { getG (single 0) 0 with hdisc := true, hskid := 2048, stopTix := 2 ^ 24 - 1 }; q.hdisc = true ∧ q.stopTix < 2 ^ 24 ∧ q.hskid ≤ 2048)
    ∧ (∀ st ∈ [PState.budgetWait, .fetchWait, .ready, .held, .syncWait], let q := getG (single 0 st) 0; q.hdisc = false ∧ q.hskid ≤ 2048 ∧ (getP q 0).state = st ∧ (getP q 0).tix < 2 ^ 24
      ∧ ∀ j ∈ List.range 32, j ≠ 0 → (getP q j).state = .empty) := by decide +kernel

theorem wit_ReturnFromAHalt : ∀ disp ∈ [0, 1, 2, 3],
    let s := halting (some 0) true disp
    let n := leNat (ctxRead s 0 0x8040 64)
    let q := getG s 0
    (getB s 0).halt = some { seq := 0, recs := [recOf (some 0)], expired := true, running := true } ∧ (getC s 0).failed = false ∧ residents s 0 = [0] ∧ q.gnum = (recOf (some 0)).gnum ∧ s.faults = [] ∧ q.res = true
    ∧ q.prof ≠ .mgmt ∧ (recOf (some 0)).lanes ≠ 0 ∧ (getC s 0).slots.testBit 0 = true ∧ (getP q 0).state = .halted ∧ (getP q 0).mask = (recOf (some 0)).lanes
    ∧ (∀ j ∈ List.range 32, j ≠ 0 → getP q j = noPath) ∧ field n 511 128 = 0 ∧ field n 32 2 = 0 ∧ field n 1 0 = disp := by decide +kernel

/-- The same halt for lane 0 alone: the other lanes stay live. -/
theorem wit_Retire : (getG (halting (some 0) true 2) 0).live &&& ~~~(1#32) ≠ 0 := by decide +kernel

-- Arrivals: a register that waits for a load, an element on its way to a scoreboarded register, a page walk that finds a page and one that does not
def arriving : State := updG (base 1 2) 0 fun q => { q with
  sbw := [(0, 3, 0, 64 * 7 + 5, 9)], work := setPend (setPend q.work 0 4 1) 0 5 (4 * 7 + 3), cpb := [(3, { st := .bound })] }

/-- A walk to a mapped page and one to none, for reads or for writes. -/
def walking (wr : Bool) : State := { mapped arriving 0 with walks := [⟨0, 0, 0, 0x4000, some 0, wr⟩, ⟨0, 0, 0, 2 ^ 30, some 0, wr⟩] }

/-- Sixty-four walks of its die stand before the last. -/
def manyWalks : State := { State.reset with walks := (List.range 64).map (fun k => ⟨0, 0, 0, 0x4000 * k, some 0, false⟩) ++ [⟨0, 0, 0, 2 ^ 30, some 0, true⟩] }

theorem wit_Arrivals :
    (getG arriving 0).step ≠ .settle ∧ isLoadPend (rdPend (getG arriving 0).work 0 4) = true ∧ (getG arriving 0).run = some (runOf arriving)
    ∧ (getG arriving 0).sbw.filter (fun x => x.1 = 0 && x.2.1 = 3 && x.2.2.1 = 0) = [(0, 3, 0, 64 * 7 + 5, 9)]
    ∧ isScored (rdPend (getG arriving 0).work 0 ((64 * 7 + 5) % 64)) = true ∧ rdPend (getG arriving 0).work 0 ((64 * 7 + 5) % 64) / 4 = (64 * 7 + 5) / 64
    ∧ (∀ wr ∈ [true, false], let s := walking wr
      (∀ w ∈ s.walks, w.wr = wr ∧ w.g = some 0 ∧ walkRuns s w = true ∧ ∀ y ∈ s.walks, w.same y = true → y = w) ∧ s.poison = []
        ∧ (∃ e, walk s 0 0 0x4000 = .leaf ⟨0, 0, 0, 2 ^ 30, 0, true, false, false, none⟩ e) ∧ walk s 0 0 (2 ^ 30) = .bad
        ∧ ∃ e, walk { s with dmem := memWrite s.dmem 0x2000 [5] } 0 0 0x4000 = .leaf ⟨0, 0, 0, 2 ^ 30, 0, false, false, false, none⟩ e)
    ∧ walkRuns manyWalks ⟨0, 0, 0, 2 ^ 30, some 0, true⟩ = false := by
  refine ⟨by decide +kernel, by decide +kernel, rfl, by decide +kernel, by decide +kernel, by decide +kernel, fun wr m => ?_, by decide +kernel⟩
  fin_cases m <;> exact ⟨by decide +kernel, rfl, ⟨0x2000, by decide +kernel⟩, by decide +kernel, ⟨0x2000, by decide +kernel⟩⟩

-- Effects that are ready to be performed, one at a time
/-- One committed effect of lane 0 of a group (of the management core where `mg`) stands alone; x5 of that lane waits for its return. -/
def flying (e : Eff) (mg : Bool := false) : State :=
  let g := if mg then mgmtKey else 0
  let q := wordGroup (if mg then .mgmt else .trace) []
  { spadded 1 1 (setG (mapped State.reset 0) g { q with run := none, paths := [], com := setPend (setPend q.com 0 5 30) 0 6 30 }) with
    flight := [{ g := g, btag := 0, lanes := 1, tno := 0, eff := e }] }

theorem noWaits_of {s : State} {g : GKey} (e : ((List.range 32).all fun i => !waitsSync (getP (getG s g) i)) = true) : NoWaits s g :=
  fun i h => by simpa using List.all_eq_true.mp e i (List.mem_range.mpr h)

/-- The effect is ready and no lanes of its group wait. -/
def readyB (s : State) : Bool := decide (flightReady s 0 = true) && match s.flight[0]? with
  | some f => (List.range 32).all fun i => !waitsSync (getP (getG s f.g) i)
  | none => false

theorem ready_of {s : State} {f : Flight} (h : s.flight[0]? = some f) (e : readyB s = true) : flightReady s 0 = true ∧ NoWaits s f.g := by
  simp only [readyB, h, Bool.and_eq_true, decide_eq_true_eq] at e
  exact ⟨e.1, noWaits_of e.2⟩

/-- R64, R67: a release waits for the other effects of its trace, but for a later one to the same bytes, which waits for it. -/
def releasing (others : List Flight) : State := { flying (.line 0 true) with
  flight := [{ g := 0, btag := 0, lanes := 1, tno := 0, eff := .store .dev 0 0x9000 [1], ord := .rel },
             { g := 0, btag := 0, lanes := 1, tno := 0, eff := .store .dev 0 0x9000 [2] }] ++ others }
theorem test_release_and_its_trace :
    let other : Flight := { g := 0, btag := 0, lanes := 1, tno := 0, eff := .store .dev 0 0xA000 [3] }
    (List.range 3).map (flightReady (releasing [other])) = [false, false, true] ∧ (List.range 2).map (flightReady (releasing [])) = [true, false] := by decide +kernel

/-- R328: serials wrap, and their order is that of the signed difference. R386: CPQD reads 0 at reset. -/
theorem test_serials_wrap : serLt 0xFFFFFFFF 0 = true ∧ serLt 0 0xFFFFFFFF = false := by decide +kernel
theorem test_cpqd_at_reset : cpQueue State.reset 0 = 0 := by decide +kernel

theorem wit_StoresAndAtomicsPerformed :
    (∀ e ∈ [Eff.store .dev 0 0x9000 [1, 2], .atom .spad 0 0x9000 .add .s64 1 2 (64 * 7 + 5), .atom .host 0 0x9000 .exch .n32 1 2 (64 * 7 + 5), .scat .dev 0 0x9000 [1] 3, .line 0x80 true],
      ∃ f, (flying e).flight[0]? = some f ∧ f.eff = e ∧ rev1 (flying e) f = false ∧ (getG (flying e) f.g).rescat = false ∧ flightReady (flying e) 0 = true ∧ NoWaits (flying e) f.g)
    ∧ (let s := updC (flying (.store .dev 0 0x9000 [1, 2])) 0 fun c => { c with rev1 := true }
      ∀ f ∈ s.flight, rev1 s f = true ∧ restOf s f.g = [] ∧ NoWaits s f.g ∧ f.tno = 0 ∧ f.eff = .store .dev 0 0x9000 [1, 2])
    ∧ (let s := updG (flying (.scat .dev (2 ^ 30) 0x9000 [1] 3)) 0 fun q => { q with rescat := true }
      flightReady s 0 = true ∧ (getG s 0).rescat = true ∧ ∀ f ∈ s.flight, rev1 s f = false ∧ NoWaits s f.g ∧ scatMoved s f = none)
    ∧ (getK (flying (.line 0 true)) 0).replay = [] ∧ poisonAt (flying (.line 0 true)) .dev 0x9000 8 = none
    ∧ rdPend (getG (flying (.line 0 true)) 0).com 0 ((64 * 7 + 5) % 64) = 4 * ((64 * 7 + 5) / 64) + 2 ∧ (64 * 7 + 5) % 64 + 1 < 64
    ∧ rdPend (getG (flying (.line 0 true)) 0).com 0 ((64 * 7 + 5) % 64 + 1) = 4 * ((64 * 7 + 5) / 64) + 2 := by
  refine ⟨fun e m => ?_, fun f m => ?_, ⟨by decide +kernel, rfl, fun f m => ?_⟩, by and_intros <;> decide +kernel⟩
  · fin_cases m <;> exact ⟨_, rfl, rfl, rfl, rfl, ready_of rfl (by decide +kernel)⟩
  · obtain rfl := List.mem_singleton.mp m
    exact ⟨rfl, rfl, noWaits_of (by decide +kernel), rfl, rfl⟩
  · obtain rfl := List.mem_singleton.mp m
    exact ⟨rfl, noWaits_of (by decide +kernel), by decide +kernel⟩

/-- A region-table place of one line at `base`, and a configuration of entry 1. -/
def place (base size : Nat) : Word := BitVec.ofNat 32 (size * 2 ^ 16 + base)
def config (en dual : Nat) (low : Nat := 0) : Word := BitVec.ofNat 32 (2 ^ 28 + en * 2 ^ 27 + dual * 2 ^ 26 + low)

theorem wit_ScratchpadEffectsPerformed :
    (∀ e ∈ [Eff.bari 0x80 1 1024, .bari 0x80 0 1, .barx 0x80 (2 ^ 32 - 1), .rgn 0 (place 1 1) (config 1 0) (64 * 7 + 5), .rgn 0 (place 1 1) (config 1 0 1) (64 * 7 + 5),
        .rgn 0 (place 0 1) (config 1 0) (64 * 7 + 5), .rgn 0 (place 1 0) (config 0 0) (64 * 7 + 5), .stn 0 .n32 [7]],
      ∃ f, (flying e).flight[0]? = some f ∧ f.eff = e ∧ rev1 (flying e) f = false ∧ flightReady (flying e) 0 = true ∧ NoWaits (flying e) f.g)
    ∧ rdPend (getG (flying (.line 0 true)) 0).com 0 ((64 * 7 + 5) % 64) = 4 * ((64 * 7 + 5) / 64) + 2 ∧ field (config 1 0 1).toNat 20 0 ≠ 0
    ∧ rgnEn (region 1 1) = true ∧ rgnBase (region 1 1) < field (place 0 1).toNat 10 0 + field (place 0 1).toNat 26 16
    ∧ dualAt (getB (flying (.stn 0 .n32 [7])) 0) 0 = some (0, region 1 1) ∧ rgnRule (region 1 1) = 1 ∧ rgnStype (region 1 1) ≠ 3 ∧ rgnRule (region 1 0) ≠ 1
    ∧ rgnStype (region 1 1 + 2 * 2 ^ 57) = 3 := by
  refine ⟨fun e m => ?_, by and_intros <;> decide +kernel⟩
  fin_cases m <;> exact ⟨_, rfl, rfl, rfl, ready_of rfl (by decide +kernel)⟩

/-- Lanes of path 0 wait for a synchronising effect. -/
def waiting (y : Sync) : State :=
  setT (setG (spadded 1 1 State.reset) 0 { res := true, live := 0xFFFFFFFF, paths := [(0, { tix := 5, state := .syncWait, mask := 0xFFFFFFFF, sync := y })] }) (tkey 0 1)
    { v := true, members := 1, nmem := 1, nlive := 1, narr := 1, arrived := 1 }

/-- The 2 MiB from 0 are one writable page. -/
def sealing (undo : Bool) (va len : Nat) : State := { flying (.seal undo va len (64 * 7 + 5)) with
  dmem := [(0, 0x01), (1, 0x10), (0x1000, 0x01), (0x1001, 0x20), (0x2000, 0x01), (0x2001, 0x30), (0x3000, if undo then 0x17 else 0x07)] }

/-- An UNSL of a range that is not sealed. -/
def unsealing : State := { sealing true 0 0x200000 with dmem := (sealing false 0 0x200000).dmem }

theorem wit_FencesSealsSteps :
    (∀ ord ∈ [Ord2.acq, .rel], let s := waiting (.fence ord .clu); let p := getP (getG s 0) 0
      p.state = .syncWait ∧ p.sync = .fence ord .clu ∧ p.wakeHold = 0 ∧ (∀ j ∈ List.range 32, j ≠ 0 → (getP (getG s 0) j).state ≠ .ready) ∧ s.flight = [] ∧ p.mask ≠ 0)
    ∧ (∀ undo ∈ [true, false], (∃ ls, sealRange (sealing undo 0 0x200000) 0 0 0x200000 = some ls ∧ ∀ e ∈ ls, e.1.sealed = undo)
      ∧ sealRange (sealing undo 0 0x4000) 0 0 0x4000 = none ∧ rangeOwed (sealing undo 0 0x200000) 0 0 0x200000 = false ∧ readyB (sealing undo 0 0x200000) = true
      ∧ readyB (sealing undo 1 0x4000) = true)
    ∧ (∃ ls, sealRange (unsealing) 0 0 0x200000 = some ls ∧ ∃ e ∈ ls, e.1.sealed = false)
    ∧ (1 % 0x4000 ≠ 0 ∧ ¬ (0 % 0x4000 ≠ 0 ∨ 0x200000 % 0x4000 ≠ 0 ∨ 0x200000 = 0 ∨ 2 ^ 40 < 0x200000))
    ∧ (let s := waiting (.step 1 0 0 0)
      let t := getT s 1
      let b := getB s t.btag
      t.v = true ∧ t.narr ≠ 0 ∧ t.narr = t.nlive ∧ swf 0 none b.regions = true ∧ s.flight = [] ∧ b.terms = [] ∧ (∀ e ∈ s.groups, e.2.vhold = []) ∧ s.saved = []
        ∧ rgnEn (sget 0 b.regions 0) = true ∧ rgnDual (sget 0 b.regions 0) = true ∧ rgnTmx (sget 0 b.regions 0) = 1) := by
  refine ⟨by decide +kernel, fun undo m => ?_, ⟨_, by rfl, _, List.mem_singleton_self _, by decide +kernel⟩, by decide +kernel, by decide +kernel⟩
  fin_cases m
  · exact ⟨⟨[(⟨0, 0, 0, 0x200000, 0, true, true, false, none⟩, 0x3000)], by decide +kernel, by decide +kernel⟩, by and_intros <;> decide +kernel⟩
  · exact ⟨⟨[(⟨0, 0, 0, 0x200000, 0, true, false, false, none⟩, 0x3000)], by decide +kernel, by decide +kernel⟩, by and_intros <;> decide +kernel⟩

/-- The management core in a life cycle, with a token for a state of it and a descriptor of 64 bytes to hash at 0x100. -/
def managed (lcs : Nat) (e : Eff) (tok : Option Nat) (keys : SMap (List Byte) := []) : State :=
  { flying e true with mg := { lcs := lcs, vtok := tok.map fun n => (n, []), keys := keys }, sram := memWrite [] 0x108 [64], ctxs := [] }

theorem wit_ManagementEffects :
    (∀ x ∈ [(0, Eff.fusr 9 0, none), (0, .fusr 0x3F 0, none), (0, .fusr 0x40 0, none), (0, .wipe 31 0, none), (0, .mext 15 0 0x400000 0, none), (0, .mext 16 0 1 0, none),
        (2, .dbgo 3 0, none), (1, .dbgo 3 0, none), (0, .lcst 1 0, none), (0, .lcst 3 0, some 3), (0, .lcst 3 0, none), (1, .lcst 2 0, some 2), (2, .lcst 1 0, none),
        (3, .lcst 1 0, none), (2, .lcstWipe 0, none), (0, .cryp 0 0x100 0, none)],
      let s := managed x.1 x.2.1 x.2.2
      (∃ f, s.flight[0]? = some f ∧ f.eff = x.2.1 ∧ flightReady s 0 = true ∧ rev1 s f = false ∧ NoWaits s f.g ∧ (getG s f.g).prof = .mgmt) ∧ (¬ ∃ e ∈ s.ctxs, e.2.bound = true)
        ∧ s.mg.lcs = x.1 ∧ s.mg.testing = [] ∧ s.mg.keys = [])
    ∧ (∃ e ∈ (updC (managed 0 (.wipe 31 0) none) 0 fun c => { c with bound := true }).ctxs, e.2.bound = true)
    ∧ (managed 1 (.lcst 2 0) (some 2) [(0, [1])]).mg.keys ≠ []
    ∧ (let word := fun o => leNat (memRead (managed 0 (.cryp 0 0x100 0) none).sram (0x100 + o) 8)
      word 8 = 64 ∧ word 0 = 0 ∧ word 0x18 = 0 ∧ word 0x20 = 0 ∧ leNat (memRead (managed 0 (.cryp 0 0x100 0) none).sram (0x100 + 0x28) 24) = 0) := by
  refine ⟨fun x m => ?_, ⟨(0, { noCtx with bound := true }), by decide +kernel, rfl⟩, by decide +kernel, by decide +kernel⟩
  fin_cases m <;> exact ⟨⟨_, rfl, rfl, (ready_of rfl (by decide +kernel)).1, rfl, (ready_of rfl (by decide +kernel)).2, by decide +kernel⟩, by simp [managed], rfl, rfl, rfl⟩

-- Queues: a packet of each operation at which a resident queue stands, one that is malformed, a WAIT whose condition holds, a decrement on its way
/-- Queue 0 of context 0 stands at a packet at 0x9000. Its descriptor, at 0xA000, may be malformed. -/
def queued (pkt : List Byte) (bad : Bool := false) (k : Queue → Queue := id) : State :=
  let s := handling (mapped State.reset 0)
  { setQ s 0 (k { resident := true, rbase := 0x9000, rsize := 16, enabled := true, widx := 1 }) with
    dmem := memWrite (memWrite [(0, 0x01), (1, 0x10), (0x1000, 0x01), (0x1001, 0x20), (0x2000, 0x07)] 0x9000 pkt) 0xA000 (leBytes 64 (0x9000 + 16 * 2 ^ 64 + 2 ^ 98 + 2 ^ 192 + if bad then 2 ^ 99 else 0))
    regs := { s.regs with qtbase := 0xA000, qtn := 1 }
    sigs := [{ ctx := 0, sp := .dev, addr := 0xB000, amount := 1 }] }

/-- A packet: operation, and the fields at 8, 16 and 20. -/
def packet (op p q r : Nat) (flags : Nat := 1) : List Byte := leBytes 8 (op + 256 * flags) ++ leBytes 8 p ++ leBytes 4 q ++ leBytes 4 r

theorem wit_QueuesAndPackets :
    (∀ bs ∈ [packet 0 0 0 0, packet 1 0xB000 65536 1, packet 2 0xB000 1 0, packet 3 0xB000 0 0, packet 4 0 0 0, packet 5 0xB000 0x100 0, packet 6 0 0 0],
      let s := queued bs
      let k := getQ s 0
      let c := getC s k.ctx
      (k.resident = true ∧ k.stopped = false ∧ k.waiting = false ∧ c.bound = true ∧ c.failed = false ∧ c.stoppedQueues = false ∧ c.unbinding = false
        ∧ (getK s k.ctx).cutting = false ∧ k.ridx < k.widx) ∧ k.inProg = [] ∧ parseTurn s = some 0 ∧ pktBad s k.ctx (ctxRead s k.ctx 0x9000 64) = false ∧ 0 < s.regs.qtn.toNat ∧ s.regs.qtn.toNat ≤ 32)
    ∧ (freeNums (getC (queued (packet 5 0xB000 0x100 0)) 0)).length = 255 ∧ (∃ p ∈ (getC (queued (packet 6 0 0 0)) 0).pkgs, p.num = 0)
    ∧ leNat ((ctxRead (queued (packet 4 0 0 0)) 0 0x9000 64).drop 24) = 0 ∧ pktBad (queued (packet 7 0 0 0)) 0 (ctxRead (queued (packet 7 0 0 0)) 0 0x9000 64) = true
    ∧ (queueRead (queued (packet 0 0 0 0)) 0).enabled = true ∧ queueDescBad (leNat (memRead (queued (packet 0 0 0 0)).dmem 0xA000 64)) = false
    ∧ queueDescBad (leNat (memRead (queued (packet 0 0 0 0) true).dmem 0xA000 64)) = true ∧ (queueRead (queued (packet 0 0 0 0)) 0).ridx < (queueRead (queued (packet 0 0 0 0)) 0).widx
    ∧ (let p : Packet := { idx := 0, op := 3, bytes := packet 3 0xB000 0 0 }
      let s := queued [] false fun k => { k with waiting := true, inProg := [p] }
      (getQ s 0).waiting = true ∧ (getQ s 0).inProg = [p] ∧ (∀ e ∈ s.queues, ∀ y ∈ e.2.inProg, y.op = 2 → y.step ≠ p.step)
        ∧ leNat (ctxRead s 0 (pkt p.bytes 8 8) 8) = pkt p.bytes 16 8)
    ∧ (∃ d, (queued []).sigs[0]? = some d ∧ d.g = none ∧ d.pkt = none) := by
  refine ⟨by decide +kernel, by decide +kernel, ⟨_, List.mem_singleton_self _, rfl⟩, by decide +kernel, by decide +kernel, by decide +kernel, by decide +kernel, by decide +kernel, by decide +kernel, by decide +kernel, ⟨_, rfl, rfl, rfl⟩⟩

theorem wit_PktSignal : ∃ v e, walk (queued (packet 2 0xB000 1 0)) 0 0 0xB000 = .leaf v e := ⟨⟨0, 0, 0, 2 ^ 30, 0, true, false, false, none⟩, 0x2000, by decide +kernel⟩

-- Dispatches, bins and batches
/-- Node 1 of package 0: one group, records of 16 bytes, batches of two, 1 KiB of scratchpad, its trace table at 0x6000. -/
def theNode : Node := { groups := 1, coalesce := 2, record := 16, spad := 1024, ttBase := 0x6000, ttNum := 1 }

/-- Context 0 has loaded it; a DISPATCH of 2 records runs, `n` records are in its bin, a batch is formed. -/
def dispatching (n entered : Nat) : State :=
  let s := updC (mapped State.reset 0) 0 fun c => { c with
    pkgs := [{ num := 0, nodes := [theNode, theNode] }], bins := if n = 0 then [] else [(1, { recs := List.replicate n {} })] }
  { s with dispatches := [{ id := 7, ctx := 0, q := 0, node := 1, addr := 0xB000, count := 2, entered := entered }], formed := [{ ctx := 0, node := 1, recs := [{}, {}], prio := 1 }]
           batches := [(3, { noBatch with res := true, clu := 7 })] }

theorem wit_DispatchToBatchEnd :
    (∀ n ∈ [0, 1, 3], let s := dispatching n 0
      findNode (getC s 0) 1 = some theNode ∧ (getC s 0).failed = false ∧ (getC s 0).bound = true ∧ (getBin s 0 1).recs.length = n ∧ n < 2 * theNode.coalesce ∧ (getK s 0).cutting = false
      ∧ findDispatch s 7 = some { id := 7, ctx := 0, q := 0, node := 1, addr := 0xB000, count := 2 })
    ∧ (let s := { dispatching 0 2 with formed := [] }
      (findDispatch s 7).map (fun x => (x.count, x.entered, x.signal, x.away)) = some (2, 2, 0, false) ∧ dispatchLive s 7 = false ∧ (getC s 0).bound = true)
    ∧ (let s := dispatching 1 0
      (getBin s 0 1).recs ≠ [] ∧ (getC s 0).bound = true ∧ (getK s 0).replay = [] ∧ nextFormed s = some 0 ∧ s.formed.length = 1
        ∧ hasRoom s 0 5 (allocBytes theNode) (settleNeed (nodeRegions theNode)) theNode.teams.length (traceEntOf (leNat (ctxRead s 0 (theNode.ttBase + 32 * theNode.entry) 32))).regs
            [gkey 0 5 0 0] = true)
    ∧ (let s := dispatching 0 0
      (getB s 3).res = true ∧ batchOwed s 3 = false ∧ statFloes s (getB s 3).ctx = [] ∧ statSaved s (getB s 3).ctx = [] ∧ (getB s 3).parent = none) := by decide +kernel

-- Work of a running batch: a record emitted, records withdrawn, a ticket in room, a governor's table
/-- A batch with a governor's table at 0x80, `low` in its first word, of one stage without a ring. -/
def working (low : Nat) : State :=
  let s := updB (spadded 1 1 (dispatching 0 0)) 0 fun b => { b with res := true, gov := some 0x80 }
  { setG s 0 { res := true, com := setPend {} 3 5 30 } with
    emits := [⟨0, 0, 0, 0, 1, [(3, 0x100)]⟩], fwks := [⟨0, 0, 0, 1, 0, 0x200, 144⟩, ⟨0, 0, 0, 1, 0, 0x200, 143⟩]
    tickets := [⟨0, 3, 64 * 7 + 5, 0x140, 0, 0, false, 15, 0, 0, false, 0⟩]
    spad := memWrite (memWrite [] 0x80 (leBytes 4 (2 ^ 31 + low + 1) ++ leBytes 4 1)) 0x140 (leBytes 64 (2 ^ 63 + 4 * 2 ^ 58 + 256)) }

theorem wit_WorkOfARunningBatch :
    let s := working 0
    (∃ e, s.emits = [e] ∧ e.g = 0 ∧ e.items = [(3, 0x100)] ∧ findNode (getC s e.ctx) e.node = some theNode ∧ effectsDone s 0 e.tno = true
      ∧ (getBin s e.ctx e.node).recs.length + 1 < theNode.coalesce ∧ NoWaits s 0)
    ∧ (∃ f, s.fwks[0]? = some f ∧ 128 + theNode.record ≤ f.cap ∧ fwkFormed s f = some 0 ∧ s.formed.length = 1 ∧ (getK s f.ctx).replay = [] ∧ 0 < theNode.record)
    ∧ (∃ f, s.fwks[1]? = some f ∧ f.cap < 128 + theNode.record)
    ∧ (∃ k, s.tickets[0]? = some k ∧ (getG s k.g).res = true ∧ (getG s k.g).step ≠ .settle ∧ ticketReady (ringHdr s (getB s 0) 0x140) k = true
        ∧ rdPend (getG s k.g).com k.lane (k.dst % 64) = 4 * (k.dst / 64) + 2)
    ∧ ((getB s 0).res = true ∧ (getB s 0).gov = some 0x80 ∧ (getD s (getB s 0).clu).stopping = false ∧ (getD s (getB s 0).clu).stopped = false ∧ (getK s (getB s 0).ctx).replay = [])
    ∧ field (leNat (spadLoad s (getB s 0) 0x80 4)) 30 4 = 0 ∧ (leNat (spadLoad s (getB s 0) 0x80 4)).testBit 31 = true ∧ field (leNat (spadLoad s (getB s 0) 0x80 4)) 3 0 = 1
    ∧ leNat (spadLoad s (getB s 0) 0x84 4) = 1 ∧ govMove s (getB s 0) 0x80 = none ∧ field (leNat (spadLoad (working 16) (getB s 0) 0x80 4)) 30 4 ≠ 0 := by
  refine ⟨⟨_, rfl, rfl, rfl, by decide +kernel, by decide +kernel, by decide +kernel, noWaits_of (by decide +kernel)⟩, ⟨_, rfl, by decide +kernel, by decide +kernel, by decide +kernel, rfl, by decide +kernel⟩, ⟨_, rfl, by decide +kernel⟩,
    ⟨_, rfl, by and_intros <;> decide +kernel⟩, by and_intros <;> decide +kernel⟩

-- Pre-emption: no core but core 0 of cluster 0 takes work, and a batch of lower priority holds it whole
def crowded : State :=
  let s := dispatching 0 0
  { setG s 0 { noGroup with res := true, btag := 9, live := 1, evict := true, paths := [(0, { state := .ready, mask := 1 })] } with
    batches := [(9, { noBatch with res := true, sps := 0x2F000, groups := [(0, 0)], ngroups := 1 })]
    debugs := (List.range 7).map fun c => (c + 1, { stopped := true })
    mg := { s.mg with testing := [.core 1, .core 2, .core 3] ++ (List.range 47).map fun k => TestUnit.quad (k + 1) } }

/-- The same device with the batch saved, whole or in part. -/
def gone (whole : Bool) : State := { State.reset with
  ctxs := [(0, { noCtx with bound := true })]
  batches := if whole then [] else [(9, { noBatch with res := true, sps := 1024 })]
  saved := [{ btag := 9, ctx := 0, batch := if whole then some { noBatch with res := true, sps := 1024 } else none, groups := [{ noGroup with res := true, btag := 9, live := 1 }] }] }

theorem wit_PreemptionAndResume :
    (nextFormed crowded = some 0 ∧ crowded.formed.length = 1 ∧ findNode (getC crowded 0) 1 = some theNode
      ∧ victimsOk crowded { ctx := 0, node := 1, recs := [{}, {}], prio := 1 } theNode (traceEntOf (leNat (ctxRead crowded 0 (theNode.ttBase + 32 * theNode.entry) 32))).regs [0] = true)
    ∧ (let s := setG crowded 1 { noGroup with res := true, btag := 9 }
      let q := getG s 0
      q.res = true ∧ q.evict = true ∧ q.run = none ∧ q.step = .off ∧ q.frozen = false ∧ wholeOf s [0] = [] ∧ partReady s 0 = true
        ∧ ∀ i ∈ List.range 32, (getP q i).state ≠ .budgetWait ∧ (getP q i).state ≠ .fetchWait)
    ∧ ((getB crowded 9).res = true ∧ residents crowded 9 = [0] ∧ evictReady crowded [0] [9] = true ∧ crowded.teams = [] ∧ crowded.jobs = [] ∧ crowded.saved = [] ∧ (getG crowded 0).run = none ∧ (getG crowded 0).step = .off ∧ (getG crowded 0).btag = 9 ∧ 9 < 65536)
    ∧ (∀ whole ∈ [true, false], let s := gone whole
      s.saved.length = 1 ∧ (getC s 0).bound = true ∧ (getC s 0).failed = false ∧ (getC s 0).unbinding = false ∧ (getK s 0).cutting = false)
    ∧ (∃ x, (gone false).saved[0]? = some x ∧ x.ctx = 0 ∧ x.batch = none ∧ partFits (gone false) x [gkey 0 3 1 2] = true)
    ∧ (∀ whole ∈ [true, false], ∀ x ∈ (gone whole).saved, (∀ q ∈ x.groups, q.frozen = false ∧ q.step = .off ∧ ∀ p ∈ List.range 32, waitsSync (getP q p) = false) ∧ (gone whole).faults = [] ∧ (gone whole).groups = []) ∧ (getG crowded 0).inStep2 = false
    ∧ (∃ x b, (gone true).saved[0]? = some x ∧ x.ctx = 0 ∧ x.batch = some b ∧ wholeFits (gone true) x b 5 6 [gkey 5 6 1 2] = true)
    ∧ (let s := setG State.reset 0 { noGroup with res := true, paths := [(0, { state := .budgetWait, mask := 1 })] }
      (getG s 0).res = true ∧ (getG s 0).run = none ∧ (getP (getG s 0) 0).state = .budgetWait ∧ (∀ h, h ≠ 0 → (getG s h).res = false) ∧ evictReady s [0] (wholeOf s [0]) = true) := by
  refine ⟨by decide +kernel, by decide +kernel, by decide +kernel, by decide +kernel, ⟨_, rfl, rfl, rfl, by decide +kernel⟩, by decide +kernel, by decide +kernel, ⟨_, _, rfl, rfl, rfl, by decide +kernel⟩, by decide +kernel, by decide +kernel, by decide +kernel, fun h n => ?_, by decide +kernel⟩
  show (sget noGroup [(0, _)] h).res = false
  simp [sget, noGroup, Ne.symm n]

-- Contexts: free to bind, a descriptor that names another context, bound, unbinding with nothing left to save
def binding (bound busy : Bool) (ctx : Nat) : State := { updC State.reset 0 (fun c => { c with bound := bound, unbinding := busy }) with
  dmem := memWrite [] 0 (leBytes 4 ctx), regs := { State.reset.regs with ctxcmd := if busy then 0x80000000 else 0 } }

theorem wit_BindAndUnbind :
    (∀ n ∈ [0, 1], let s := binding false false n; let d := leNat (memRead s.dmem (s.regs.ctbase.toNat + 128 * 0) 128)
      s.regs.ctxcmd.getLsbD 31 = false ∧ s.mg.noFw = false ∧ s.mg.wiping = false ∧ (updM s fun m => { m with wiping := true }).mg.noFw = false ∧ (getC s 0).bound = false ∧ field d 15 0 = n ∧ field d 31 18 = 0 ∧ field d 254 244 = 0 ∧ field d 1023 768 = 0
        ∧ getC s 0 = noCtx ∧ { noCtx with ptroot := 0x8000 } ≠ noCtx ∧ (0x8000 : Nat) ≠ field d 127 64)
    ∧ (let s := binding true false 0
      s.regs.ctxcmd.getLsbD 31 = false ∧ (getC s 0).bound = true ∧ (getC s 0).failed = false)
    ∧ (let s := binding true true 0
      s.regs.ctxcmd.getLsbD 31 = true ∧ (getC s 0).unbinding = true ∧ evictReady s (ctxGroups s 0) (batchesOf s 0) = true ∧ drainsOwed s 0 = false) := by decide +kernel

-- Faults: a record that waits for its place, one that stands at place 0 and may be answered
def theFault (idx : Option Nat) : FaultRec :=
  { g := 0, btag := 0, path := 0, ctx := 0, va := 0x4000, kind := .scat, wr := true, tix := 0, rcnt := 255, lanes := 0xFFFFFFFF, gnum := 0, clu := 0, core := 0, trk := 0, idx := idx }
/-- Lanes of path 0 of the group at key 0 wait in replay for a page of 0x4000. -/
def faulting (idx : Option Nat) : State := { handling (single 0 .replay) with faults := [theFault idx] }

theorem wit_FaultRecordsAndAnswers :
    (let f := theFault none;
      (faulting none).faults.findIdx? (fun x => x.idx.isNone && !x.mgmt) = some 0 ∧ (faulting none).faults[0]? = some f ∧ f.va < 2 ^ 57 ∧ f.tix < 2 ^ 24 ∧ f.rcnt < 256
      ∧ f.ctx < 2 ^ 16 ∧ f.gnum < 1024 ∧ f.clu < 8 ∧ f.core < 256 ∧ f.trk < 8 ∧ f.path < 32 ∧ (∀ x ∈ (faulting none).faults, x.idx ≠ some 0))
    ∧ (∀ f ∈ (faulting none).faults, f.idx ≠ some 4095) ∧ ((faulting none).faults.filter fun x => x.idx.isSome).length < 4096
    ∧ (let s := faulting (some 0)
      let f := theFault (some 0)
      f ∈ s.faults ∧ f.unres = false ∧ (∀ x ∈ s.faults, x.idx = some 0 ↔ x = f) ∧ (getG s f.g).res = true ∧ (getG s f.g).btag = f.btag ∧ (getG s f.g).gnum = f.gnum ∧ f.path < 32
        ∧ (∀ e ∈ s.groups, e.2.res = true → e.2.btag = f.btag → e.2.gnum = f.gnum → e.1 = f.g) ∧ (s.groups.map Prod.fst).Nodup
        ∧ (getP (getG s f.g) f.path).state = .replay ∧ (getP (getG s f.g) f.path).wakeHold = 0 ∧ (getP (getG s f.g) f.path).tix < 2 ^ 24
        ∧ (getB s f.btag).res = true ∧ (getB s f.btag).halt = none ∧ (getB s f.btag).masked = false ∧ canHandle (getC s (getB s f.btag).ctx) = true) := by decide +kernel

-- Invalidation: none under way, one for a range or for all, and a store in the range that is not performed
theorem wit_Invalidation :
    let t := { flying (.store .dev 0x4000 0x4000 [1]) with inval := some (0, some (0x4000, 0x4000)) }
    State.reset.inval = none ∧ { State.reset with inval := some (0, none) }.inval ≠ none ∧ State.reset.flight = [] ∧ State.reset.groups = [] ∧ t.inval = some (0, some (0x4000, 0x4000))
    ∧ (∃ f ∈ t.flight, (getB t f.btag).ctx = 0 ∧ f.eff = .store .dev 0x4000 0x4000 [1]) ∧ (0x4000 < 0x4000 + 1 ∧ 0x4000 < 0x4000 + 0x4000)
    ∧ 0x4000 % 2 ^ 14 = 0 ∧ 2 ^ 57 - 2 ^ 14 < 2 ^ 57 ∧ State.reset.sigs = []
    ∧ (let d : SigDec := { ctx := 0, sp := .dev, addr := 0x9000, amount := 1, g := some (0, 0) }
      let x : Tlb := ⟨0, 0, 0x4000, 0x4000, 0x8000, true, false, false, none⟩
      let u := { t with sigs := [d], dropped := [x] }
      u.inval = some (0, some (0x4000, 0x4000)) ∧ d ∈ u.sigs ∧ d.g ≠ none ∧ d.sp = .dev ∧ x ∈ u.dropped ∧ x.host = false ∧ x.ppage ≤ d.addr ∧ d.addr < x.ppage + x.size) := by
  refine ⟨by decide +kernel, by decide +kernel, by decide +kernel, by decide +kernel, by decide +kernel, ⟨_, List.mem_singleton_self _, by decide +kernel, rfl⟩, by and_intros <;> decide +kernel⟩

-- Banks: a request for the open row, for another below RTH and at RTH, under each BLAST; commands due; configurations at the edges
def aBank : BankId := ⟨11, 3, 2, 1⟩
/-- The bank has a request for row 0 (its open row where `hit`), whose counter stands at `n`, and refresh commands due. -/
def banked (hit : Bool) (n : Nat) (cmds : List (Nat × Bool) := []) : State :=
  { setBank State.reset aBank { queue := [0], opened := if hit then some 0 else none, rfm := cmds } with actCount := [(rowKey aBank 0, n)] }

theorem wit_BanksAndRowCounters :
    (∀ hit ∈ [true, false], (getBank (banked hit 0) aBank).queue = [0] ∧ (getBank (banked hit 0) aBank).rfm = [] ∧ ((getBank (banked hit 0) aBank).opened = some 0 ↔ hit = true))
    ∧ field (sget 0x1000430A00000000#64 (banked false 0).actCfg 11).toNat 63 48 = 4096 ∧ field (sget 0x1000430A00000000#64 (banked false 0).actCfg 11).toNat 47 46 = 1
    ∧ sget 0 (banked false 4094).actCount (rowKey aBank 0) + 1 < 4096 ∧ 4096 ≤ sget 0 (banked false 4095).actCount (rowKey aBank 0) + 1 ∧ 98303 < 98304
    ∧ (getBank State.reset aBank).queue = [] ∧ (getBank (banked false 0 [(5, true)]) aBank).rfm = [(5, true)] ∧ (getBank (banked false 0 [(5, false)]) aBank).rfm = [(5, false)]
    ∧ (let v := (0x0008430280000000#64).toNat; field v 63 48 = 8 ∧ field v 47 46 = 1 ∧ field v 36 30 = 10)
    ∧ (let v := (0xFFFF831900000000#64).toNat; field v 63 48 = 65535 ∧ field v 47 46 = 2 ∧ field v 36 30 = 100)
    ∧ ¬ (8 ≤ field (0x0007430A00000000#64).toNat 63 48) ∧ 11 < 12 ∧ 1 ≤ (255#64).toNat ∧ ¬ (256#64).toNat ≤ 255 ∧ (0xFFFFFFFF#64).toNat ≤ 2 ^ 32 - 1 ∧ ¬ 1 ≤ (0#64).toNat := by
  and_intros <;> decide +kernel

-- Errors of each kind
def anErr (u : ErrUnit) (k : ErrKind) : MemErr := ⟨u, k, some 0, 0, 0, 0, 0, 0, 0, 0, 0, 0, 0, 0, 0, 0, 64⟩

theorem wit_MemoryErrors :
    let s := updC State.reset 0 fun c => { c with bound := true }
    s.mg.rowErrs = [] ∧ s.mg.thRow = 16 ∧ 1 ≤ s.mg.thRow ∧ { s.mg with thRow := 1 }.thRow = 1 ∧ (getC s 0).bound = true ∧ (getC s 0).failed = false
    ∧ (anErr .spad .corrected).unit ≠ .stack ∧ (anErr .stack .delivered).ctx = some 0 ∧ (anErr .code .codeLine).kind = .codeLine
    ∧ s.mg.fencing = [] ∧ (anErr .spad .unowned).kind = .unowned ∧ fenceUnit (.unit (anErr .spad .unowned)) = some (.core 0) ∧ unitOpen s (.core 0) = true ∧ unitOpen (single 5) (.core 0) = false
    ∧ sget false s.poison (0x9000 / 64) = false ∧ sget false { s with poison := [(0x9000 / 64, true)] }.poison (0x9000 / 64) = true := by decide +kernel

-- Copies: each kind with a row that may land, CPBS at a slot, and a PUB whose shadow has one page written
def theCopy (kind : CopyKind) (n : Nat) : CopyReq :=
  { kind := kind, handle := some 0x100000, psize := 0x4000, pages := [(0, 0x8000)], saddr := 0x80, len := n, dst := 64 * 7 + 5, desc := 128 * 2 ^ 96 + 8 * 2 ^ 80 }
def theJob (kind : CopyKind) (n : Nat) : Job := { core := 0, g := 0, btag := 0, ctx := 0, lanes := 1, tno := 0, items := [theCopy kind n] }

/-- A job of one copy of `n` bytes between 0x80 of the scratchpad and the first page of a range, at 0x8000. -/
def copying (kind : CopyKind) (n : Nat) : State :=
  { updB (flying (.line 0 true)) 0 (fun b => { b with regions := [] }) with flight := [], jobs := [theJob kind n] }

/-- A CPBS of lane 0 at slot 3, in a state. -/
def asking (st : CpbState) : State :=
  { updG (flying (.line 0 true)) 0 (fun q => { q with cpb := [(3, { st := st, val := 9 })] }) with
    flight := [], jobs := [{ core := 0, g := 0, btag := 0, ctx := 0, lanes := 1, tno := 0, cpbs := some (3, 64 * 7 + 5) }] }

theorem wit_CopiesLand :
    (∀ e ∈ [(CopyKind.cpl, 4), (.cplg, 4), (.cpx, 4), (.cpt, 128), (.cpo, 128)],
      let n := e.2
      let s := copying e.1 n
      let j := theJob e.1 n
      let c := theCopy e.1 n
      s.jobs[0]? = some j ∧ j.item 0 = some c ∧ c.segs 0 = [(0, 0x80, n)] ∧ rowReady s 0 j 0 = true ∧ rowPeer c 0 = false ∧ rowAbsent s j c 0 = false ∧ c.bar = none
        ∧ standsAt s j.g j.btag j.gnum = true ∧ c.shadow = false ∧ c.handle ≠ none ∧ s.poison = [] ∧ c.kind = e.1 ∧ c.ofs + 0 + n ≤ ((c.ofs + 0) / c.psize + 1) * c.psize ∧ 0 < n ∧ (getB s j.btag).regions = []
        ∧ rdPend (getG s j.g).com c.lane (c.dst % 64) = 4 * (c.dst / 64) + 2)
    ∧ (∀ st ∈ [CpbState.bound, .done], (asking st).jobs.map (fun j => (j.g, j.cpbs)) = [(0, some (3, 64 * 7 + 5))] ∧ (getCpb (getG (asking st) 0) 3).st = st ∧ (asking st).flight = [] ∧ standsAt (asking st) 0 0 0 = true) := by
  decide

/-- A shadow of one page, 0xC000 mapped to 0x10000, its buffer's page list at 0x5000, the page 0x14000 written for it. -/
def publishing : State :=
  { updC State.reset 0 fun c => { c with bound := true, nh := 2, htab := 0x8000, shadows := [{ idx := 0, rime := [0x14000], written := [0] }] } with
    pubWaits := [⟨0, 0, 0, 0x100000⟩]
    dmem := [(0, 0x01), (1, 0x10), (0x1000, 0x01), (0x1001, 0x20), (0x2000, 0x01), (0x2001, 0x30), (0x3000, 0x01), (0x3001, 0x34), (0x3408, 0x07), (0x3409, 0x80),
             (0x3418, 0x07), (0x341A, 0x01), (0x5002, 0x01), (0x8000, 0x01), (0x8002, 0x10), (0x8009, 0x58), (0x8010, 0x1F), (0x8013, 0x40), (0x801A, 0x60), (0x8029, 0x50)] }

theorem wit_Publish :
    let s := publishing
    let e := hEntry s 0 0
    effectsDone s 0 0 = true ∧ copiesOwed s 0 0 = false ∧ oldOwed s 0 0 = false ∧ (getG s 0).evict = false ∧ s.saved = [] ∧ pubHeld s 0 e.vbase e.len = false ∧ pubPageHeld s 0 0 = false
    ∧ shadowOf (getC s 0) 0 = some { idx := 0, rime := [0x14000], written := [0] } ∧ e.sst = 1 ∧ e.pages = 1 ∧ 0x14000 < 2 ^ 57 ∧ 0x14000 % 1024 = 0
    ∧ walk s 0 0 e.vbase = .leaf ⟨0, 0, 0xC000, 0x4000, 0x10000, true, false, false, none⟩ 0x3418 ∧ pszBytes e.psz = 0x4000 ∧ (hEntry s 0 e.sbuf).plist = 0x5000
    ∧ leNat (memRead s.dmem 0x5000 8) = 0x10000 := by decide +kernel

-- The floe: entries eligible, running with passes left or none, tile operations that are ready, a lineage that is closed, counts and drains
/-- A floe with one entry in a state, of `passes` passes with `done` behind it, at token 0x80. -/
def posted (st : EntState) (passes done : Nat) (mod : Floe → Floe := id) : State :=
  setF (spadded 1 1 State.reset) 0 (mod { ents := [(2, { st := st, done := done, recd := 2 ^ 509 + (passes - 1) * 2 ^ 493 + 0x80 * 2 ^ 32 })], inFlight := if st = .running then some 2 else none })

theorem wit_FloePasses :
    (let f := getF (posted .eligible 1 0) 0;
      (∀ e ∈ f.ents, e.2.st ≠ .waiting) ∧ (f.ents.map Prod.fst).Nodup ∧ f.inFlight = none ∧ f.churn = none ∧ f.quiesce = false ∧ (∃ e ∈ f.ents, e.2.st = .eligible)
        ∧ (posted .eligible 1 0).flight = [] ∧ restOf (posted .eligible 1 0) 0 = [] ∧ f.serial < 2 ^ 32 ∧ (∀ e ∈ f.ents, e.2.serial < 2 ^ 32 ∧ (f.serial + 2 ^ 32 - e.2.serial) % 2 ^ 32 ≤ 2 ^ 30) ∧ ∀ e ∈ f.lins, churnReady f e.1 = false)
    ∧ (getD (posted .eligible 1 0) 0).stopping = false ∧ (getD (posted .eligible 1 0) 0).stopped = false
    ∧ (∀ d ∈ [0, 1], let f := getF (posted .running 2 d) 0
      let x := entAt f 2
      let r := x.recd;
      (∀ e ∈ f.ents, e.2.st ≠ .waiting ∧ e.2.st ≠ .eligible) ∧ (f.ents.map Prod.fst).Nodup ∧ f.inFlight = some 2 ∧ x.st = .running ∧ x.lin = none ∧ x.derived = false ∧ x.snapA = none ∧ x.snapB = none
        ∧ r.testBit 506 = false ∧ field r 505 504 = 0 ∧ field r 500 493 + 1 = 2 ∧ field r 511 509 = 1) := by
  refine ⟨⟨by decide +kernel, by decide +kernel, by decide +kernel, by decide +kernel, by decide +kernel, ⟨_, List.mem_singleton_self _, rfl⟩, by and_intros <;> decide +kernel⟩,
    by and_intros <;> decide +kernel⟩

def theOp (q : TileReq) : TileOp := { serial := 1, g := 0, btag := 0, lanes := 1, req := q }
/-- One tile operation stands in the queue. -/
def queuing (q : TileReq) (f : Floe → Floe := id) : State := setF (spadded 1 1 State.reset) 0 (f { queue := [theOp q] })

theorem wit_FloeTileOps :
    (∀ k ∈ [TileKind.mzer, .mlda, .mrel, .mpub, .mrd, .msta, .tadd, .tscl, .taxpy, .tmul, .tcvt],
      let q : TileReq := { kind := k, d := 7, a := 1, b := 2, addr := 0x80, pitch := 8, ty := .bf16 }
      let s := queuing q
      let o := theOp q;
      (getF s 0).queue[0]? = some o ∧ tileOpReady (getF s 0) o = true ∧ s.flight = [] ∧ restOf s o.g = [] ∧ (getF s 0).ents = [] ∧ s.groups = [] ∧ o.req.d < 8 ∧ o.req.a < 8
        ∧ 8 ≤ o.req.pitch ∧ o.req.addr % 16 = 0 ∧ o.req.addr + 16 * o.req.pitch * 31 + 128 ≤ 2 ^ 26 ∧ o.req.rnd ≠ .rs ∧ o.lin = none ∧ fmtBits (fmtOf o.req.ty) / 8 * 32 ≤ 16 * o.req.pitch)
    ∧ (∀ g, NoWaits (queuing { kind := .mzer }) g)
    ∧ tileOpReady (getF (queuing { kind := .mzer, d := 2 } fun f => { f with ents := [(0, { st := .running, recd := 2 * 2 ^ 501 })] }) 0) (theOp { kind := .mzer, d := 2 }) = false :=
  ⟨by decide +kernel, fun _ _ _ => rfl, by decide +kernel⟩

/-- A lineage that is closed, its creator settling. -/
def churning (under : Bool) : State := posted .settling 1 1 fun f => { f with
  ents := if under then f.ents.map fun e => (e.1, { e.2 with lin := some 0 }) else []
  lins := [(0, { v := true, cls := true, whc := true, tile := 1 })], churn := if under then some 0 else none }

theorem wit_ChurnsDrainsQuiescence :
    (let f := getF (churning false) 0;
      f.inFlight = none ∧ f.churn = none ∧ f.quiesce = false ∧ f.queue = [] ∧ f.ents = [] ∧ (linAt f 0).v = true ∧ (linAt f 0).cls = true ∧ (linAt f 0).root = 0
        ∧ (∀ e ∈ f.lins, e.2.whc = true) ∧ (linAt f 1).cls = false ∧ ∃ e ∈ f.lins, churnReady f e.1 = true)
    ∧ (let s := churning true;
      let f := getF s 0;
      f.churn = some 0 ∧ f.inFlight = none ∧ f.quiesce = false ∧ linOrder f 0 = [0] ∧ (linAt f 0).stl = false ∧ (linAt f 0).kind = 0 ∧ (linAt f 0).ghost = false ∧ (linAt f 0).v = true
        ∧ (linAt f 0).tile < 8 ∧ f.ents = [(2, entAt f 2)] ∧ (entAt f 2).lin = some 0 ∧ (entAt f 2).st = .settling ∧ f.statCtx = ctxOfTag s (linAt f 0).btag)
    ∧ (let f := getF (posted .free 1 0 fun f => { f with stats := [(4, 2 ^ 31)], quiesce := true }) 0;
      (4, 2 ^ 31) ∈ f.stats ∧ 4 / 3 = 1 ∧ f.quiesce = true ∧ f.inFlight = none)
    ∧ (∀ e ∈ [(4, 2 ^ 31 - 1)], e.2 < 2 ^ 31)
    ∧ (let s := { updC (posted .free 1 0 fun f => { f with drains := [{ ctx := 0, btag := 0, counts := [(4, 7)] }] }) 0 (fun c => { c with stata := 0x1000 }) with
        dmem := [(0, 0x01), (1, 0x10), (0x1000, 0x01), (0x1001, 0x20), (0x2000, 0x0F)] }
      (getF s 0).drains = [{ ctx := 0, btag := 0, counts := [(4, 7)] }] ∧ (getC s 0).stata ≠ 0 ∧ (getC (posted .free 1 0) 0).stata = 0
        ∧ ∀ j ∈ List.range 8, walk s 0 0 (0x1000 + 32 * (4 / 3) + 8 * (4 % 3) + j) = .leaf ⟨0, 0, 0, 2 ^ 30, 0, true, false, true, none⟩ 0x2000) := by decide +kernel

-- The debug block: closed and open, with entries that stand, a trace that runs, a stop under way, and a cluster that is stopped
/-- Cluster 0's debug block acts on context 0 (bits 63:48 of DCTL); path 0 of the group at key 0 is in a state. -/
def probing (st : PState) (d : Debug → Debug := id) (f : Path → Path := id) (q : Group → Group := id) : State :=
  updD (updG (single 5 st) 0 fun g => q { g with paths := g.paths.map fun e => (e.1, f { e.2 with ust := .ready }) }) 0 fun x => d { x with en := true, istep := true, drsel := 3 * 512 }

theorem wit_StopTheCluster :
    (let s := probing .ready;
      (∃ e ∈ s.groups, e.2.debugStop = false ∧ e.2.step = .off ∧ e.2.stopped = false) ∧ (s.groups.map Prod.fst).Nodup ∧ s.mg.lcs ≠ 3 ∧ (getD s 0).en = true ∧ (getD s 0).stopping = false ∧ (getD s 0).stopped = false ∧ (getG s 0).res = true ∧ (getG s 0).clu = 0
        ∧ (getG s 0).run = none ∧ (∀ e ∈ s.groups, e.2.frozen = false))
    ∧ (getD (single 5) 0).en = false ∧ (getD (single 5) 0).stopped = false ∧ (getD (single 5) 0).stopping = false ∧ field (2 ^ 48 : Nat) 63 48 ≠ (getD (single 5) 0).ctx ∧ field (2 ^ 48 : Nat) 4 3 ≠ 3
    ∧ field (5 : Nat) 63 48 = (getD (single 5) 0).ctx ∧ { State.reset.mg with lcs := 3 }.lcs = 3
    ∧ (let s := probing .running (fun d => { d with stopping := true }) id fun q => { q with run := some (runOf (base 0 0)) }
      (getD s 0).stopping = true ∧ ∀ e ∈ s.groups, e.2.step = .off ∧ e.2.debugStop = false ∧ atRest e.2 = false ∧ e.2.inStep2 = false)
    ∧ (∀ b ∈ [true, false], let s := probing .held (fun d => { d with stopping := true, area := if b then 1 else 0 }) id fun q => { q with debugStop := true }
      (∀ e ∈ s.groups, e.2.debugStop = true ∧ e.2.ctx = (getD s 0).ctx ∧ e.2.core = 0 ∧ e.2.trk = 0 ∧ e.2.slot = 0) ∧ s.floes = [] ∧ ((getD s 0).area.getLsbD 0 = true ↔ b = true))
    ∧ (let s := probing .held (fun d => { d with stopped := true }) fun p => { p with cause := 4 }
      (getD s 0).stopped = true ∧ (getD s 0).stopping = false ∧ ∀ e ∈ s.groups, e.2.frozen = false ∧ (getP e.2 0).mid = false ∧ (getP e.2 0).state = .held ∧ (getP e.2 0).tix < 2 ^ 24 ∧ (getP e.2 0).cause = 4
        ∧ (getP e.2 0).ust = .ready ∧ (∀ j ∈ List.range 32, j ≠ 0 → getP e.2 j = noPath))
    ∧ field 24 4 3 = 3 ∧ field 1 4 3 ≠ 3 ∧ (192 : Nat).testBit 7 = true ∧ (192 : Nat).testBit 6 = true := by
  refine ⟨⟨⟨_, List.mem_singleton_self _, by and_intros <;> decide +kernel⟩, by and_intros <;> decide +kernel⟩, ?_⟩
  decide +kernel

theorem wit_DebugCommands :
    (∀ st ∈ [PState.held, .running, .ready], let s := probing st id id fun q => { q with run := if st = .running then some (runOf (base 0 0)) else none }
      let d := getD s 0
      let q := getG s (gkey 0 (field d.sel.toNat 31 24) (field d.sel.toNat 23 21) (field d.sel.toNat 20 17))
      let p := getP q (field d.sel.toNat 16 12)
      s.mg.lcs ≠ 3 ∧ d.en = true ∧ d.busy = false ∧ field d.sel.toNat 31 24 < 192 ∧ q.res = true ∧ q.ctx = d.ctx ∧ p.state = st ∧ p.mid = false ∧ p.ust = .ready ∧ q.step = .off
        ∧ q.frozen = false ∧ q.debugStop = false ∧ d.stopping = false ∧ d.stopped = false ∧ q.stopped = false ∧ q.evict = false ∧ p.mask = 0xFFFFFFFF#32 ∧ p.tix < 2 ^ 24 ∧ d.istep = true
        ∧ (∀ j ∈ List.range 32, j ≠ 0 → (getP q j).state = .empty ∧ (getP q j).mid = false) ∧ (s.groups.map Prod.fst).Nodup ∧ field d.drsel.toNat 15 9 = 3 ∧ field d.drsel.toNat 8 4 = 0)
    ∧ (∀ h, (getG (probing .held) h).btag = (getG (probing .held) 0).btag → h ≠ 0 → (getG (probing .held) h).res = false)
    ∧ (getD (probing .held fun d => { d with istep := false }) 0).istep = false ∧ 191 < 192 ∧ ¬ 192 < 192 ∧ field (70 * 512 : Nat) 15 9 ≤ 70 ∧ ¬ field (71 * 512 : Nat) 15 9 ≤ 70
    ∧ (getG (probing .held id id fun q => { q with step := .idle }) 0).step ≠ .off
    ∧ (let s := probing .held id (fun p => { p with mid := true }) fun q => { q with run := some (runOf (base 0 0)) }
      let r := (getG s 0).run.getD (runOf s)
      (getP (getG s 0) 0).mid = true ∧ (getG s 0).run = some r ∧ r.path = 0 ∧ r.leaves = [] ∧ r.pops = [] ∧ r.sending = none ∧ r.entry ≠ 0) := by
  refine ⟨by decide +kernel, fun h _ n => ?_, by and_intros <;> decide +kernel⟩
  show (sget noGroup [(0, _)] h).res = false
  simp [sget, noGroup, Ne.symm n]

-- Samples: room in the stream, a sample that is done and one that is not, a slot that is empty, another context's, and held
def theSample (disc : Bool) : Sample :=
  { g := 0, btag := 0, ctx := 0, corr := 2 ^ 32 - 1, gnum := 0, path := 0, tix := 0, off := 255, opc := 1023, act := 1, sect := 1, lines := 1, trep := 0, vrep := 0, tno := 0, store := false
    dst := [5], disc := disc }
/-- The stream has 4 KiB, and cluster 0 samples the groups of context `ctx`. -/
def streaming (ctx : Nat) (st : PState := .fetchWait) (disc : Bool := true) : State :=
  { updG (single 5 st) 0 fun q => { q with com := setPend q.com 0 5 1 } with
    regs := { State.reset.regs with tslen := 4096 }, sctl := [(0, BitVec.ofNat 64 (ctx * 2 ^ 48 + 2))], samples := [theSample disc] }

theorem wit_Samples :
    (∀ disc ∈ [true, false], (streaming 0 .ready disc).samples[0]? = some (theSample disc) ∧ sampleDone (streaming 0 .ready disc) (theSample disc) = disc)
    ∧ StreamRoom (streaming 0) 128 ∧ 5 < 6 ∧ (theSample true).act.getLsbD 0 = true ∧ (theSample true).store = false ∧ (theSample true).corr < 2 ^ 32 ∧ (theSample true).opc < 1024 ∧ (theSample true).off < 256
    ∧ (∀ st ∈ [PState.fetchWait, .budgetWait], let s := streaming 0 st
      (sget 0 s.sctl 0).toNat.testBit 1 = true ∧ (getD s 0).stopped = false ∧ sget 0 s.cursor 0 = 0 ∧ (getG s 0).res = true ∧ (getG s 0).ctx = field (sget 0 s.sctl 0).toNat 63 48
        ∧ (getB s (getG s 0).btag).corr < 2 ^ 32 ∧ (getG s 0).run = none ∧ (getP (getG s 0) 0).state = st ∧ (∀ j ∈ List.range 32, j ≠ 0 → getP (getG s 0) j = noPath) ∧ (getP (getG s 0) 0).tix < 2 ^ 24)
    ∧ (getG (streaming 7) 0).ctx ≠ field (sget 0 (streaming 7).sctl 0).toNat 63 48
    ∧ (getG { streaming 0 with groups := [] } 0).res = false ∧ sget 0 (streaming 0).slotLast 0 = 0 ∧ (sget 0 State.reset.sctl 0).toNat.testBit 1 = false := by
  refine ⟨by decide +kernel, by and_intros <;> decide +kernel, ?_⟩
  decide +kernel

theorem flatten_one {α : Type} (f : Nat → List α) (k : Nat) : ∀ m, (∀ i, i < m → i ≠ k → f i = []) → k < m → ((List.range m).map f).flatten = f k
  | 0, _, h => absurd h (Nat.not_lt_zero k)
  | m + 1, h, hk => by
    rw [List.range_succ, List.map_append, List.flatten_append]
    rcases Nat.lt_or_ge k m with l | g
    · rw [flatten_one f k m (fun i hi => h i (by omega)) l, List.map_singleton, List.flatten_singleton, h m (by omega) (by omega), List.append_nil]
    · obtain rfl : k = m := by omega
      have : ((List.range k).map f).flatten = [] := by
        simp only [List.flatten_eq_nil_iff, List.mem_map, List.mem_range]
        rintro l ⟨i, hi, rfl⟩
        exact h i (by omega) (by omega)
      simp [this]

/-- A table of which one entry is set has that entry's pages. -/
theorem leafPages_one (s : State) (lo n lvl : Nat) (r : List (Nat × Nat × Nat)) (base va pa : Nat) (hb : ∀ i, i < 2 ^ n → i ≠ 0 → memGet s.dmem (base + 8 * i) = 0)
    (h0 : leNat (memRead s.dmem base 8) % 2 = 1 ∧ (leNat (memRead s.dmem base 8)).testBit 2 = false ∧ field (leNat (memRead s.dmem base 8)) 56 10 * 1024 = pa) :
    leafPages s ((lo, n, lvl) :: r) base va = leafPages s r pa va := by
  rw [leafPages, flatten_one _ 0 (2 ^ n) _ (Nat.two_pow_pos n)]
  · obtain ⟨h1, h2, h3⟩ := h0
    simp only [field] at h3
    simp [h1, h2, nbits, ← h3]
  · intro i hi ne
    have e : leNat (memRead s.dmem (base + 8 * i) 8) % 2 = 0 := by
      rw [memRead, hb i hi ne, leNat]
      simp only [BitVec.toNat_zero, show BitVec.toNat (0 : Byte) = 0 from rfl]
      omega
    simp [e]

-- Checkpoints: switched on, cutting, copying its last page and one before, failing; an image that is restored; a replay with an entry left
def anImage : Image := { ctx := 0, k := 3, mem := [(0xC000, [(1, 7)])] }
/-- The context has a page written in an open shadow, and checkpoints go to its image and reserved port 0. -/
def checked (f : Ckpt → Ckpt) : State :=
  { updK publishing 0 fun k => f { k with en := true, log := true } with
    safe := [anImage], regs := { State.reset.regs with tslen := 4096 }, mg := { State.reset.mg with reserved := 1 } }
/-- The context is unbound; its tables map one 16 KiB page, 0xC000, at 0x10000, and the page at 0x18000 is in its rime pool. -/
def unboundOne : State := { State.reset with
  dmem := [(0, 0x01), (1, 0x10), (0x1000, 0x01), (0x1001, 0x20), (0x2000, 0x01), (0x2001, 0x30), (0x3000, 0x01), (0x3001, 0x60), (0x6018, 0x07), (0x601A, 0x01),
    (0x20012, 0x05), (0x20022, 0x04), (0x40000, 0x01), (0x40009, 0x80), (0x4000A, 0x01)]
  safe := [anImage], regs := { State.reset.regs with ctbase := 0x20000 }, mg := { State.reset.mg with reserved := 1 } }

/-- Its descriptor is read, with what the image says of the context. -/
def restoring : State := setC (ctxForget unboundOne 0) 0 { ctxOfDesc anImage.cx (leNat (memRead unboundOne.dmem 0x20000 128)) with bound := false }

theorem wit_onePage : leafPages restoring ptLevels 0 0 = [(0xC000, 0x4000, 0x10000)] := by
  have z : ∀ a, (∀ e ∈ unboundOne.dmem, e.1 ≠ a) → memGet restoring.dmem a = 0 := fun a h => by
    show sget 0 unboundOne.dmem a = 0
    generalize unboundOne.dmem = m at h
    induction m with
    | nil => rfl
    | cons e r ih => 
      have := h e (List.mem_cons_self ..)
      simp only [sget, this, if_false]
      exact ih fun e' he => h e' (List.mem_cons_of_mem _ he)
  have y : ∀ b, b ∈ [0, 0x1000, 0x2000, 0x3000] → ∀ i, i < 2 ^ 9 → i ≠ 0 → memGet restoring.dmem (b + 8 * i) = 0 := by
    intro b hb i hi ne
    apply z
    simp only [unboundOne, List.mem_cons, List.not_mem_nil, or_false] at hb ⊢
    rintro e he
    rcases hb with rfl | rfl | rfl | rfl <;> rcases he with rfl | rfl | rfl | rfl | rfl | rfl | rfl | rfl | rfl | rfl | rfl | rfl | rfl | rfl | rfl <;> simp <;> omega
  rw [ptLevels, leafPages_one _ _ _ _ _ _ _ 0x1000 (y _ (by decide)) (by decide +kernel), leafPages_one _ _ _ _ _ _ _ 0x2000 (y _ (by decide)) (by decide +kernel),
    leafPages_one _ _ _ _ _ _ _ 0x3000 (y _ (by decide)) (by decide +kernel), leafPages_one _ _ _ _ _ _ _ 0x6000 (y _ (by decide)) (by decide +kernel)]
  decide +kernel

theorem wit_heldPage : 0x14000 ∈ ckptHeld (checked id) 0 := by
  have : 0x14000 ∈ rimePages (checked id) 0 := by decide +kernel
  simp only [ckptHeld, List.mem_filter, List.mem_eraseDups, List.mem_append]
  exact ⟨.inl (.inr this), by decide +kernel⟩

theorem wit_Checkpoints :
    (let s := checked id;
      (getK s 0).en = true ∧ (getK s 0).running = false ∧ (getK s 0).cutting = false ∧ (getC s 0).unbinding = false ∧ ctxGroups s 0 = [] ∧ batchesOf s 0 = [] ∧ s.floes = []
        ∧ (getC s 0).bins = [] ∧ (getK s 0).next = 0 ∧ (getK s 0).buffer = [] ∧ reservedUp s = true ∧ drainsOwed s 0 = false ∧ s.sigs = [] ∧ memWf s.dmem = true ∧ 0 < htabBytes (getC s 0))
    ∧ ((getK (checked fun k => { k with buffer := [.grant 0 none 1] }) 0).buffer ≠ [] ∧ (getK (checked fun k => { k with cutting := true }) 0).cutting = true)
    ∧ (ctxGroups (setG (checked id) 0 { noGroup with res := true }) 0 = [0] ∧ batchesOf (setG (checked id) 0 { noGroup with res := true }) 0 = [])
    ∧ (let s := { setG (checked fun k => { k with cutting := true }) 0 { noGroup with res := true } with flight := [{ g := 0, btag := 0, lanes := 1, tno := 0, eff := .line 0 true }] }
      (getG s 0).run = none ∧ partReady s 0 = false ∧ (getG s 0).btag ∉ batchesOf s 0)
    ∧ (let s := checked fun k => { k with running := true, held := [0x10000, 0x14000], image := some anImage }
      (getK s 0).running = true ∧ (getK s 0).held = 0x10000 :: [0x14000] ∧ [0x14000] ≠ [] ∧ (0x18000 : Nat) ∉ (getK s 0).held)
    ∧ (let s := checked fun k => { k with running := true, held := [0x10000], image := some anImage }
      (getK s 0).held = [0x10000] ∧ (getK s 0).image = some anImage ∧ StreamRoom s 32 ∧ anImage.k < 2 ^ 32)
    ∧ (let s := unboundOne
      s.safe.reverse.find? (fun i => decide (i.ctx = 0) && decide (i.k = 3)) = some anImage ∧ (getC s 0).bound = false ∧ reservedUp s = true ∧ (∀ i ∈ s.safe, i.ctx = 0 → i.k ≠ 4)
        ∧ (let u := setC (ctxForget s 0) 0 { ctxOfDesc anImage.cx (leNat (memRead s.dmem (s.regs.ctbase.toNat + 128 * 0) 128)) with bound := false }
          let c := getC u 0
          u = restoring ∧ c.ptroot = 0 ∧ restoreClash u anImage = false ∧ restoreClash { u with dispatches := [{ id := 7, ctx := 1, q := 0, node := 1, addr := 0, count := 2 }] } { anImage with dispatches := [{ id := 7, ctx := 0, q := 0, node := 1, addr := 0, count := 2 }] } = true
            ∧ memWf anImage.htab = true ∧ anImage.htab = [] ∧ restoreRoom u anImage [(0xC000, 0x4000, 0x10000)] = true ∧ restoreRoom u anImage [(0, 0x200000, 0x200000)] = false ∧ c.shadows = [] ∧ c.bins = []
            ∧ anImage.queues = [] ∧ memWf [(1, (7 : Byte))] = true ∧ (∀ e ∈ [(1, (7 : Byte))], e.1 < 0x4000) ∧ c.nh = 0 ∧ c.rime = 0x40000
            ∧ poolRead (restoreTable u anImage) 0 = [0x18000] ∧ poolSize 0x18000 = 0
            ∧ walk (poolWrite { restoreTable u anImage with dmem := imagePut (restoreTable u anImage).dmem (poolPage 0x18000) 0x4000 0xC000 anImage.mem } 0 []) 0 0 0xC000 = .leaf ⟨0, 0, 0xC000, 0x4000, 0x10000, true, false, false, none⟩ 0x6018))
    ∧ (getK (checked fun k => { k with replay := [.grant 0 none 1] }) 0).replay = .grant 0 none 1 :: [] := by
  refine ⟨by decide +kernel, by decide +kernel, by decide +kernel, by decide +kernel, by decide +kernel, ⟨by decide +kernel, by decide +kernel, by and_intros <;> decide +kernel, by decide +kernel⟩,
    by decide +kernel, by decide +kernel⟩

-- Links: ports up, failing eight times in a row, down; a copy to a peer; windows whose entry is bad, open, exhausted
/-- A copy to a page of a peer's window behind port 2. -/
def peering (kind : CopyKind) (down : Bool) : State :=
  let c := { theCopy kind 128 with pages := [(0, 2 ^ 63 + 2 * 2 ^ 58)] }
  { flying (.line 0 true) with flight := [], jobs := [{ theJob kind 128 with items := [c] }]
                               mg := { State.reset.mg with portDown := if down then [(2, true)] else [], failRun := [(2, 8), (3, 8)], failed := [(2, [2 ^ 64, 2 ^ 64])] } }

theorem wit_Links :
    (let s := peering .cplg false;
      sget false s.mg.portDown 2 = false ∧ 2 < 16 ∧ 8 ≤ sget 0 s.mg.failRun 2 ∧ 8 ≤ sget 0 s.mg.failRun 3 ∧ sget 0 s.mg.failRun 4 < 8 ∧ sget [] s.mg.failed 2 = [2 ^ 64, 2 ^ 64] ∧ sget [] s.mg.failed 3 = [] ∧ s.mg.portWin = [] ∧ s.mg.thRetry ≠ 1)
    ∧ sget false (peering .cplg true).mg.portDown 2 = true
    ∧ (∀ k ∈ [CopyKind.cplg, .cpo], ∀ down ∈ [true, false], let s := peering k down
      let j := s.jobs.headD (theJob k 128)
      let c := (j.item 0).getD (theCopy k 128)
      s.jobs[0]? = some j ∧ j.item 0 = some c ∧ rowPeer c 0 = true ∧ rowReady s 0 j 0 = true ∧ c.bar = none ∧ j.rows = [0] ∧ (c.isTile = true ↔ k = .cpo) ∧ jobPorts j = [2] ∧ standsAt s j.g j.btag j.gnum = true
        ∧ (∀ c ∈ j.items, c.bar = none ∧ c.toSpad = false) ∧ j.items ≠ [] ∧ j.items.head? = some c)
    ∧ (let s := copying .cplg 4
      s.jobs[0]? = some (theJob .cplg 4) ∧ (theJob .cplg 4).item 0 = some (theCopy .cplg 4) ∧ rowPeer (theCopy .cplg 4) 0 = false) := by decide +kernel

theorem wit_RefusedPort : ∀ k ∈ [CopyKind.cplg, .cpo], ∀ down ∈ [true, false], let s := peering k down
    let j := s.jobs.headD (theJob k 128)
    (jobPorts j).find? (fun x => !false || sget false s.mg.portDown x) = some 2
      ∧ (jobPorts j).find? (fun x => !true || sget false s.mg.portDown x) = (if down then some 2 else none) := by decide +kernel

/-- Whatever the time is, two failed retrains of port 2 are within a second of it, and none of port 3; and its window's retries stand at 0. -/
theorem wit_LinkTimes : let s := peering .cplg false
    ((sget [] s.mg.failed 2).filter fun x => decide ((timeNow s).time.toNat ≤ x + 1000000000)).length = 2
    ∧ ((sget [] s.mg.failed 3).filter fun x => decide ((timeNow s).time.toNat ≤ x + 1000000000)).length = 0 ∧ s.mg.thRetry ≠ (winAt (timeNow s) 2).retries + 1 := by
  have h := (timeNow (peering .cplg false)).time.isLt
  refine ⟨?_, rfl, ?_⟩
  · have e : sget [] (peering .cplg false).mg.failed 2 = [2 ^ 64, 2 ^ 64] := rfl
    have d : decide ((timeNow (peering .cplg false)).time.toNat ≤ 2 ^ 64 + 1000000000) = true := decide_eq_true (by omega)
    simp only [e, List.filter, d, List.length]
  · have e : (winAt (timeNow (peering .cplg false)) 2).retries = 0 := by dsimp only [winAt]; split <;> rfl
    rw [e]; decide

theorem wit_PortOfARow : ∀ k ∈ [CopyKind.cplg, .cpo], let s := peering k false
    rowPort ((((s.jobs.headD (theJob k 128)).item 0)).getD (theCopy k 128)) 0 = some 2 ∧ s.mg.reserved.testBit 2 = false ∧ (checked id).mg.reserved.testBit 0 = true := by decide +kernel

/-- Window 255 names the shadow of `publishing` (its state given), to take `len` bytes of which `cnt` have come. -/
def windowed (len cnt v : Nat) : State :=
  { publishing with dmem := publishing.dmem ++ ([(0x31FE0, .ofNat 8 v), (0x31FE6, .ofNat 8 cnt), (0x31FED, .ofNat 8 (len / 256))].filter fun e => e.2 != 0), regs := { State.reset.regs with lwbase := 0x30000 } }

theorem wit_windowed_handle : (∀ v ∈ [0, 1], hRead (windowed 0x4000 16 v) 0 0 = 0xC000 * 2 ^ 199 + 0x4000 * 2 ^ 144 + 2 ^ 132 + 15 * 2 ^ 128 + 0x5800 * 2 ^ 64 + 2 ^ 20 + 1) := by decide +kernel
theorem wit_windowed_window :
    (∀ v ∈ [0, 1], leNat (memRead (windowed 0x4000 16 v).dmem ((windowed 0x4000 16 v).regs.lwbase.toNat + 32 * 255) 32) = 0x4000 * 2 ^ 96 + 16 * 2 ^ 48 + v) := by decide +kernel

theorem wit_Windows :
    (∀ v ∈ [0, 1], let s := windowed 0x4000 16 v
      let e := leNat (memRead s.dmem (s.regs.lwbase.toNat + 32 * 255) 32)
      let h := hEntry s 0 0
      field e 198 183 = 0 ∧ field e 182 163 = 0 ∧ field e 162 144 = 0 ∧ field e 47 1 = 0 ∧ field e 143 96 = 0x4000 ∧ (getC s 0).bound = true ∧ 0 < (getC s 0).nh ∧ h.v = true ∧ h.isOpen = true
        ∧ e.testBit 0 = decide (v = 1) ∧ s.mg.reserved.testBit 15 = false ∧ 0x3000 + 128 ≤ h.len ∧ ¬ field e 143 96 < field e 95 48 + 128 ∧ field e 95 48 + 128 < field e 143 96
        ∧ s.ckpts = [] ∧ shadowOf (getC s 0) 0 = some { idx := 0, rime := [0x14000], written := [0] } ∧ h.vbase % pszBytes h.psz = 0 ∧ 0x3000 + 128 ≤ pszBytes h.psz
        ∧ 0x14000 + pszBytes h.psz ≤ s.regs.lwbase.toNat + 32 * 255) := by
  intro v hv
  simp only [wit_windowed_window v hv, hEntry, wit_windowed_handle v hv]
  revert v
  decide +kernel

theorem wit_WindowRevoked : field (leNat (memRead (windowed 0 0 0).dmem (0x30000 + 32 * 255) 32)) 143 96 = 0 := by decide +kernel
theorem wit_WindowClosed :
    (let s := updC (windowed 0x4000 16 1) 0 fun c => { c with htab := 0x8100 };
      (hEntry s 0 0).isOpen = false ∧ (hEntry (winWrite s 255 (leNat (memRead s.dmem (0x30000 + 32 * 255) 32) - 1)) 0 0).isOpen = false) := by decide +kernel

-- The mailbox: each command under way, its operands at their edges
/-- Command `c` is under way with operand words given. -/
def commanded (c : Nat) (ws : List Nat) (f : Mgmt → Mgmt := id) : State :=
  { single 5 .parked with sram := memWrite [] (0x100000 + 64) ((ws.map (leBytes 4)).flatten), regs := { State.reset.regs with mbsts := 1 }, mg := f { State.reset.mg with cmd := some c } }

theorem wit_MailboxCommands :
    (∃ c ∈ (commanded 7 []).ctxs, c.2.bound = true)
    ∧ (∀ c ∈ List.range 17, let s := commanded c []
      s.regs.mbsts.getLsbD 0 = true ∧ s.mg.cmd = some c ∧ s.mg.ran = false ∧ s.mg.mcmd.toNat = 0x100000)
    ∧ { (commanded 1 []).mg with ran := true }.ran = true ∧ State.reset.regs.mbsts.getLsbD 0 = false
    ∧ (∀ e ∈ [(4, 0, 65535), (4, 4, 1), (5, 12, 31), (6, 0, 1), (6, 0, 1440), (6, 4, 7), (7, 0, 65535), (15, 4, 4020), (15, 8, 1)],
      leNat (memRead (commanded e.1 (List.replicate (e.2.1 / 4) 0 ++ [e.2.2])).sram (0x100000 + 64 + e.2.1) 4) = e.2.2)
    ∧ groupNamed (commanded 5 [0, 0, 0, 0, 0]) 0 0 0 = some 0 ∧ groupNamed (commanded 5 [0, 0, 1, 0, 0]) 0 0 1 = none ∧ savedNamed (commanded 5 []) 0 0 1 = false
    ∧ savedNamed { commanded 5 [] with saved := [{ btag := 0, ctx := 0, groups := [{ noGroup with gnum := 1 }] }] } 0 0 1 = true
    ∧ (getP (getG (commanded 5 []) 0) 0).state = .parked ∧ (getP (getG (commanded 5 []) 0) 0).wakeHold = 0 ∧ (getP (getG (commanded 5 []) 0) 0).tix < 2 ^ 24
    ∧ (getP (getG (commanded 5 []) 0) 1).state ≠ .parked ∧ (getP (getG (commanded 5 []) 0) 1).state ≠ .held
    ∧ field (leNat (memRead (commanded 8 [50 * 2 ^ 19]).sram (0x100000 + 64) 8)) 31 19 = 50 ∧ field (leNat (memRead (commanded 8 [5001 * 2 ^ 19]).sram (0x100000 + 64) 8)) 31 19 = 5001
    ∧ (∀ c ∈ State.reset.ctxs, c.2.bound = false)
    ∧ (∀ l ∈ [1, 2, 3], (commanded 11 [] fun m => { m with lcs := l }).mg.lcs = l ∧ (commanded 11 [] fun m => { m with lcs := l }).mg.testing = [] ∧ (commanded 11 [] fun m => { m with lcs := l }).mg.stage = 0)
    ∧ (∀ k ∈ List.range 6, ∀ n ∈ [2, 3], let s := { (commanded 10 [] fun m => { m with stage := k, lcs := 1, vtok := some (n, []) }) with ctxs := [] }
      s.mg.stage = k ∧ s.mg.lcs = 1 ∧ s.mg.keys = [] ∧ s.mg.testing = [] ∧ s.ctxs = [] ∧ s.mg.vtok = some (n, []) ∧ { s.mg with lcs := 2 }.lcs = 2 ∧ { s.mg with vtok := none }.vtok = none)
    ∧ (getK (commanded 8 [50 * 2 ^ 19]) (field (leNat (memRead (commanded 8 [50 * 2 ^ 19]).sram (0x100000 + 64) 8)) 63 48)).cutting = false := by
  exact ⟨⟨_, List.mem_singleton_self _, rfl⟩, by and_intros <;> decide +kernel⟩

-- The register window and the aperture: values at the edges of what a register takes
theorem wit_HostWindow :
    (0x12000000000 - 128) % 128 = 0 ∧ 0x12000000000 - 128 < 0x12000000000 ∧ ¬ 0x12000000000 < 0x12000000000 ∧ (4096 : Nat) ≤ 4096 ∧ field (0x10000 + 5) 17 16 = 1 ∧ field (0x20000 + 5) 17 16 = 2
    ∧ (commanded 1 []).regs.mbsts.getLsbD 0 = true ∧ State.reset.regs.mbsts.getLsbD 0 = false ∧ State.reset.mg.noFw = false ∧ State.reset.inval = none ∧ State.reset.regs.ctxcmd.getLsbD 31 = false
    ∧ (5 : Nat).testBit 0 = true ∧ (5 : Nat).testBit 2 = true ∧ (1 : Nat).testBit 2 = false ∧ field (4096 + 9) 13 12 = 1 ∧ field (2 * 4096) 13 12 = 2 ∧ field (3 * 4096) 13 12 = 3 := by decide +kernel

theorem wit_Aperture :
    0 % apertureSize State.reset = 0 ∧ 4096 % apertureSize State.reset ≠ 0 ∧ State.reset.regs.apbase.toNat + 0 + 4 ≤ 0x12000000000 ∧ 0 + 4 ≤ apertureSize State.reset ∧ apertureSize State.reset < apertureSize State.reset + 1 ∧ touchesCode State.reset 0 4 = false
    ∧ touchesCode (updC State.reset 0 fun c => { c with bound := true, pkgs := [{ num := 0, nodes := [], pages := [0] }] }) 0 4 = true ∧ 0x12000000000 < 0x12000000000 + 1 := by
  decide +kernel

-- Tests and limits: a unit of each kind that is due, one that is busy, clocks at the ends of their range
theorem wit_ResetTestsAndLimits :
    (∀ u ∈ [TestUnit.core 1535, .quad 383, .stack 11], let s := { State.reset with mg := { State.reset.mg with test := (1, 7), testPos := some (unitPlace u) } }
      s.mg.test.1 ≠ 0 ∧ s.mg.cmd = none ∧ testNext s = some u ∧ s.mg.testing = [] ∧ u ∉ s.mg.testing ∧ Fence.tested u ∉ s.mg.fenced ∧ s.mg.fencing = [] ∧ unitOpen s u = true ∧ u ∈ { s.mg with testing := [u] }.testing
        ∧ unitPlace u < 1932 ∧ s.mg.testStart + 60000000000 * s.mg.test.1 < 2 ^ 64 ∧ s.time.toNat < 2 ^ 63)
    ∧ (let s := { State.reset with mg := { State.reset.mg with test := (1, 7), testPos := some 1932 } }
      testNext s = some (.core 0) ∧ unitPlace (.core 0) < 1932)
    ∧ (let s := { State.reset with mg := { State.reset.mg with test := (1, 7), cmd := some 9 } }
      testNext s = some (.core 0) ∧ s.mg.testing = [] ∧ s.mg.cmd ≠ none ∧ s.mg.ran = false)
    ∧ State.reset.mg.test.1 = 0
    ∧ (7 : Nat).testBit 2 = true ∧ 1535 < 1536 ∧ 383 < 384 ∧ 11 < 12 ∧ unitOpen (single 5) (.core 0) = false ∧ unitOpen (single 5) (.stack 11) = false
    ∧ (∀ c ∈ List.range 8, sget 22 State.reset.mg.clocks c = 22) ∧ (∀ c ∈ List.range 8, sget 22 ((List.range 8).map fun c => (c, 12)) c ≤ 12) := by decide +kernel

-- The encodings and the machine
theorem wit_DecodeOfEncode : WellFormed .trace (.nop (wd mS (x 0) (x 0) (x 0) (x 0))) ∧ (Decode.encode (.nop (wd mS (x 0) (x 0) (x 0) (x 0)))).isSome = true := ⟨by unfold WellFormed; decide +kernel, by decide +kernel⟩

theorem wit_EncodeOfDecode : Decode.decode .trace (rows 0x02403800 0 0 0) = .ok (.nop (wd mS (x 0) (x 0) (x 0) (x 0))) := by decide +kernel

/-- The trace has two words, and the next slot of the track has a trace of its own under way. -/
def neighbour (s : State) : State := setG (updG s s.cur fun q => { q with run := q.run.map fun r => { r with words := r.words ++ r.words } }) (s.cur + 1) (curG s)

theorem wit_StepRunsTheDecodedInstruction :
    (let s := held 0x02403800 0 0 0 []
      let r := runOf s
      s.agenda = [] ∧ s.stalled = false ∧ (getG s s.cur).run = some r ∧ (getP (getG s s.cur) r.path).state = .running ∧ (getG s s.cur).step ≠ .settle ∧ r.ended = false
        ∧ Decode.decode (getG s s.cur).prof (r.words.getD r.off 0) = .ok (.nop (wd mS (x 0) (x 0) (x 0) (x 0))))
    ∧ (let s := ending 0
      s.agenda = [] ∧ s.stalled = false ∧ (runOf s).ended = true ∧ (curG s).run = some (runOf s) ∧ (getP (curG s) (runOf s).path).state = .running)
    ∧ (let s := held 0x02403800 0 0 0 []
      ∀ n ∈ [0, 1], ∃ t, exec (.nop (wd mS (x 0) (x 0) (x 0) (x 0))) (if n = 0 then s else neighbour s) = .next t ∧ t.stalled = false ∧ t.cur = s.cur ∧ (commitsNext (getG t s.cur) = true ↔ n = 0)
        ∧ (n = 1 → canIssue t (s.cur + 1) = true ∧ (getG t (s.cur + 1)).yielded = false))
    ∧ wordOf (.yldTimeout 0) = none ∧ wordOf (.nop (wd mS (x 0) (x 0) (x 0) (x 0))) ≠ none ∧ dueEvents State.reset = [] ∧ dueEvents (single 5) ≠ [] := by
  refine ⟨by decide +kernel, by decide +kernel, fun n m => ?_, by and_intros <;> decide +kernel⟩
  fin_cases m <;> exact ⟨_, rfl, by and_intros <;> decide +kernel⟩

theorem wit_StepKeepsMemoriesCanonical : MemOk State.reset ∧ ∃ t, step State.reset = .next t := ⟨⟨by decide, by decide, by decide, by decide⟩, State.reset, rfl⟩

end Sys2Proof.Tests
end

section
/-! PROOFS. Each of these instructions only computes: a lane's outcome is one write of DST, of a register, a pair or a predicate. So each one is
its value lemma put into the law of such a write. -/
namespace Sys2Proof.Machine
open Sys2Proof Sys2Proof.Checks

/-! ### Instructions whose lanes write DST alone -/

theorem outOk_dstBool (o : Opnd) (b : Bool) : OutOk (dstBool o b) := by
  cases o with
  | p k => exact outOk_wp _
  | x _ | q _ | a _ | rsvA _ | rsvB _ | imm => exact outOk_dstX _ _

theorem dstBool_effs (o : Opnd) (b : Bool) : (dstBool o b).effs = [] := by cases o <;> rfl
theorem dstBool_leave (o : Opnd) (b : Bool) : (dstBool o b).leave = none := by cases o <;> rfl

section
variable {i : Instr} {w : IW ModA} {sh : Shape} {s s1 : State} {r : Run} {m : SMap Word} {ps : List Pop}

/-- A word that writes a register completes with the values that its lanes compute. -/
theorem does_dstX {v : Nat → Word} (f : Ctx1 → Nat → Word) (hx : exec i s = issueA w s sh fun c l => dstX w.dst (f c l))
    (hv : ∀ l, f (cx s s1 (hd w) r m) l = v l) : Does i (hd w) sh s s1 r m ps fun l => dstX w.dst (v l) :=
  does_stay (fun c l => dstX w.dst (f c l)) hx (fun l => by rw [hv l]) (fun _ => outOk_dstX _ _) (fun _ => rfl) fun _ => rfl

/-- The same of a pair, which must exist (R110). -/
theorem does_dst64 {v : Nat → DWord} (f : Ctx1 → Nat → DWord) (hpair : opndReg w.dst + 1 < 64)
    (hx : exec i s = issueA w s sh fun c l => dst64 w.dst (f c l))
    (hv : ∀ l, f (cx s s1 (hd w) r m) l = v l) : Does i (hd w) sh s s1 r m ps fun l => dst64 w.dst (v l) :=
  does_stay (fun c l => dst64 w.dst (f c l)) hx (fun l => by rw [hv l]) (fun _ => outOk_dst64 _ _ hpair) (fun _ => rfl) fun _ => rfl

/-- The same of a truth value in a predicate or a register (R146). -/
theorem does_dstBool {v : Nat → Bool} (f : Ctx1 → Nat → Bool) (hx : exec i s = issueA w s sh fun c l => dstBool w.dst (f c l))
    (hv : ∀ l, f (cx s s1 (hd w) r m) l = v l) : Does i (hd w) sh s s1 r m ps fun l => dstBool w.dst (v l) :=
  does_stay (fun c l => dstBool w.dst (f c l)) hx (fun l => by rw [hv l]) (fun _ => outOk_dstBool _ _)
    (fun _ => dstBool_effs _ _) fun _ => dstBool_leave _ _

/-- The same of a predicate. -/
theorem does_dstP {v : Nat → Bool} (f : Ctx1 → Nat → Bool) (hx : exec i s = issueA w s sh fun c l => dstP w.dst (f c l))
    (hv : ∀ l, f (cx s s1 (hd w) r m) l = v l) : Does i (hd w) sh s s1 r m ps fun l => { wp := [(opndReg w.dst, v l)] } :=
  does_stay (fun c l => dstP w.dst (f c l)) hx (fun l => by rw [hv l]; rfl) (fun _ => outOk_wp _) (fun _ => rfl) fun _ => rfl

end

/-! ### Comparisons and truth values -/

theorem is64_iff (t : Ty) : is64 t = true ↔ t = .s64 ∨ t = .n64 := by simp [is64]

theorem cmpShape_eq (w : IW ModA) : cmpShape w = if w.mod.tya = .s64 ∨ w.mod.tya = .n64 then { na := 2, nb := 2 } else { nb := 1 } := by
  simp only [cmpShape, is64_iff]

/-- The codes of R112 below 6 are those of integers. -/
theorem condInt_eq_holdsCond (n : Nat) (hn : n < 6) (x y : Int) : condInt (condOf n) x y = holdsCond n x y := by
  interval_cases n <;> rfl

theorem numOf_wide (t : Ty) (h : is64 t = true) (v : Word) (v64 : DWord) : intVal64 t v64 = numOf t v v64 := by
  rcases (is64_iff t).1 h with rfl | rfl <;> rfl

theorem numOf_narrow (t : Ty) (h : is64 t = false) (v : Word) (v64 : DWord) : intVal t v = numOf t v v64 := by
  cases t with
  | s64 | n64 => cases h
  | _ => rfl

/-- A comparison is one of the numbers that its sources hold. -/
theorem compareSrc_eq_holdsCond (c : Ctx1) (l : Nat) (t : Ty) (n : Nat) (hn : n < 6) : compareSrc c l t n =
    holdsCond n (numOf t (src c l c.h.sa) (src64 c l c.h.sa)) (numOf t (src c l c.h.sb) (src64 c l c.h.sb)) := by
  unfold compareSrc
  cases h : is64 t with
  | true => rw [if_pos rfl, condInt_eq_holdsCond n hn, numOf_wide t h (src c l c.h.sa), numOf_wide t h (src c l c.h.sb)]
  | false => rw [if_neg (by decide), condInt_eq_holdsCond n hn, numOf_narrow t h _ (src64 c l c.h.sa), numOf_narrow t h _ (src64 c l c.h.sb)]

/-- A source of predicate logic: a predicate, or whether a register is not 0. -/
theorem srcP_eq_match (c : Ctx1) (l : Nat) (o : Opnd) :
    srcP c l o = match o with | .p k => rdP c.q.work l k.val | o => decide (src c l o ≠ 0) := by
  cases o with
  | p k => rfl
  | x _ | q _ | a _ | rsvA _ | rsvB _ | imm => exact Bool.eq_iff_iff.2 (bne_iff_ne.trans decide_eq_true_iff.symm)

/-! ### The obligations -/

/-- Settles O2: each instruction writes one register, and its value is the one that the value lemma of Laws/Values names. -/
theorem logicShiftsBitFields : Obligations.LogicShiftsBitFields := by
  intro w s s1 r m ps
  dsimp only
  refine ⟨?and, ?or, ?xor, ?not, ?andn, ?shl, ?shr, ?sar, ?rol, ?clz, ?ctz, ?popc, ?brev, ?bfx, ?bfi, ?sxt, ?zxt⟩
  case and => exact does_dstX _ rfl fun _ => rfl
  case or => exact does_dstX _ rfl fun _ => rfl
  case xor => exact does_dstX _ rfl fun _ => rfl
  case not => exact does_dstX _ rfl fun _ => rfl
  case andn => exact does_dstX _ rfl fun _ => rfl
  case shl => exact does_dstX _ rfl fun _ => shl_eq ..
  case shr => exact does_dstX _ rfl fun _ => shr_eq ..
  case sar => exact does_dstX _ rfl fun _ => sar_eq ..
  case rol => exact does_dstX _ rfl fun _ => rol_eq ..
  case clz => exact does_dstX _ rfl fun _ => clz_eq _
  case ctz => exact does_dstX _ rfl fun _ => ctz_eq _
  case popc => exact does_dstX _ rfl fun _ => popc_eq _
  case brev => exact does_dstX _ rfl fun _ => rfl
  case bfx => exact does_dstX _ rfl fun _ => bfx_eq ..
  case bfi => exact does_dstX _ rfl fun _ => bfi_eq ..
  case sxt => exact does_dstX _ rfl fun _ => sxt_eq ..
  case zxt => exact does_dstX _ rfl fun _ => zxt_eq ..

/-- R146: comparisons are of the numbers that the sources hold; the other values are the sources' own sums, shifts and selections. -/
theorem compareSelectMove : Parts.CompareSelectMove := by
  intro w s s1 r m ps
  dsimp only
  rw [← cmpShape_eq]
  refine ⟨?sel, fun hc => ⟨?cmp, ?cmpx⟩, fun ht => ?mov, ?movi, fun hpair => ⟨?lea, ?add64, ?sub64, fun ht => ?mov64, ?movw⟩⟩
  case sel => exact does_dstX _ rfl fun _ => rfl
  case cmp => exact does_dstBool _ rfl fun l => compareSrc_eq_holdsCond _ l _ _ hc
  case cmpx => exact does_dstBool _ rfl fun l => congrArg (· && _) (compareSrc_eq_holdsCond _ l _ _ hc)
  case mov => exact does_dstX (fun c l => src c l w.sa) (if_neg ht) fun _ => rfl
  case movi => exact does_dstX _ rfl fun _ => BitVec.setWidth_eq_extractLsb' (by decide)
  case lea => exact does_dst64 _ hpair rfl fun _ => lea_eq ..
  case add64 => exact does_dst64 _ hpair rfl fun _ => rfl
  case sub64 => exact does_dst64 _ hpair rfl fun _ => rfl
  case mov64 => exact does_dst64 (fun c l => src64 c l w.sa) hpair (if_pos ht) fun _ => rfl
  case movw => exact does_dst64 _ hpair rfl fun _ => rfl

/-- R147: predicate logic on the truth values of its sources. -/
theorem predicateLogic : Parts.PredicateLogic := by
  intro w s s1 r m ps
  dsimp only
  refine ⟨?pand, ?por, ?pxor, ?pnot, ?pmov⟩
  case pand => exact does_dstP _ rfl fun _ => congrArg₂ and (srcP_eq_match ..) (srcP_eq_match ..)
  case por => exact does_dstP _ rfl fun _ => congrArg₂ or (srcP_eq_match ..) (srcP_eq_match ..)
  case pxor => exact does_dstP _ rfl fun _ => congrArg₂ xor (srcP_eq_match ..) (srcP_eq_match ..)
  case pnot => exact does_dstP _ rfl fun _ => congrArg not (srcP_eq_match ..)
  case pmov => exact does_dstP _ rfl fun _ => srcP_eq_match ..

/-- Settles O3: compare, select, move and address, and predicate logic. -/
theorem compareSelectMovePredicates : Obligations.CompareSelectMovePredicates := ⟨compareSelectMove, predicateLogic⟩

end Sys2Proof.Machine
end

section
/-! PROOFS. FADD, FSUB, FMUL and FFMA (R184). A format's codes without their sign bit stand for rising magnitudes, evenly spaced within one
place. So rounding looks for the two codes around a magnitude, and each mode of R168 takes the one that it names; the arithmetic before it
is exact. -/
namespace Sys2Proof.Machine
open Sys2Proof Sys2Proof.Checks

/-! ### The magnitudes of a format's codes (R159) -/

/-- What the formats of R159 have in common. -/
structure Regular (f : Fmt) : Prop where
  m_pos : 1 ≤ f.m
  e_two : 2 ≤ f.e
  narrow : f.e4m3 = true → f.e = 4 ∧ f.m = 3

theorem regular_of_mem : ∀ f ∈ [fmtF32, fmtBf16, fmtF16, fmtE4m3, fmtE5m2], Regular f := by
  simp only [List.forall_mem_cons]
  exact ⟨⟨by decide, by decide, by decide⟩, ⟨by decide, by decide, by decide⟩, ⟨by decide, by decide, by decide⟩,
    ⟨by decide, by decide, by decide⟩, ⟨by decide, by decide, by decide⟩, nofun⟩

/-- The exponent of the subnormal spacing. -/
def fmtLow (f : Fmt) : Int := 1 - (f.bias : Int) - f.m

/-- The magnitude of a code without its sign bit; it goes on past the largest finite code as if exponents did not end. -/
def magRat (f : Fmt) (k : Nat) : ℚ :=
  if k / 2 ^ f.m = 0 then (k % 2 ^ f.m : Nat) * 2 ^ fmtLow f
  else (2 ^ f.m + k % 2 ^ f.m : Nat) * 2 ^ (fmtLow f + (k / 2 ^ f.m : Nat) - 1)

/-- A count `j` at the place `q` above the lowest has the code `q * 2 ^ m + j`, also where the count fills the place and carries into the next. -/
theorem magRat_place (f : Fmt) {q j : Nat} (hj : j ≤ 2 * 2 ^ f.m) (hq : q = 0 ∨ 2 ^ f.m ≤ j) :
    magRat f (q * 2 ^ f.m + j) = j * 2 ^ (fmtLow f + q) := by
  have hpos : 0 < 2 ^ f.m := Nat.two_pow_pos _
  unfold magRat
  rcases Nat.lt_or_ge j (2 ^ f.m) with hlt | hge
  · obtain rfl : q = 0 := by omega
    simp [Nat.div_eq_of_lt hlt, Nat.mod_eq_of_lt hlt]
  · obtain ⟨i, rfl⟩ := Nat.exists_eq_add_of_le hge
    rcases Nat.lt_or_ge i (2 ^ f.m) with hi | hi
    · have hd : (q * 2 ^ f.m + (2 ^ f.m + i)) / 2 ^ f.m = q + 1 := by
        rw [← Nat.add_assoc, ← Nat.succ_mul, Nat.add_comm, Nat.add_mul_div_right _ _ hpos, Nat.div_eq_of_lt hi, Nat.zero_add]
      have hm : (q * 2 ^ f.m + (2 ^ f.m + i)) % 2 ^ f.m = i := by
        rw [← Nat.add_assoc, ← Nat.succ_mul, Nat.mul_add_mod_of_lt hi]
      rw [hd, hm, if_neg (by omega)]
      congr 2
      push_cast; ring
    · obtain rfl : i = 2 ^ f.m := by omega
      have hk : q * 2 ^ f.m + (2 ^ f.m + 2 ^ f.m) = (q + 2) * 2 ^ f.m := by ring
      rw [hk, Nat.mul_div_cancel _ hpos, Nat.mul_mod_left, if_neg (by omega),
        show fmtLow f + ((q + 2 : Nat) : Int) - 1 = fmtLow f + q + 1 by push_cast; ring, zpow_add_one₀ two_ne_zero]
      push_cast; ring

/-- Every code is a count below a full place. -/
theorem exists_place (f : Fmt) (k : Nat) : ∃ q j, k = q * 2 ^ f.m + j ∧ j < 2 * 2 ^ f.m ∧ (q = 0 ∨ 2 ^ f.m ≤ j) := by
  have hdm := Nat.div_add_mod k (2 ^ f.m)
  have hlt : k % 2 ^ f.m < 2 ^ f.m := Nat.mod_lt _ (Nat.two_pow_pos _)
  rcases h : k / 2 ^ f.m with _ | q
  · exact ⟨0, k, by simp, by rw [h] at hdm; omega, .inl rfl⟩
  · refine ⟨q, 2 ^ f.m + k % 2 ^ f.m, ?_, by omega, .inr (by omega)⟩
    rw [h] at hdm
    linarith [Nat.mul_succ (2 ^ f.m) q, Nat.mul_comm (2 ^ f.m) q]

theorem magRat_strictMono (f : Fmt) : StrictMono (magRat f) := by
  refine strictMono_nat_of_lt_succ fun k => ?_
  obtain ⟨q, j, rfl, hj, hq⟩ := exists_place f k
  rw [magRat_place f hj.le hq, Nat.add_assoc, magRat_place f hj (by omega)]
  have : (0 : ℚ) < 2 ^ (fmtLow f + q) := zpow_pos two_pos _
  push_cast; linarith

@[simp] theorem magRat_zero (f : Fmt) : magRat f 0 = 0 := by simp [magRat]

theorem magRat_gap_pos (f : Fmt) (k : Nat) : 0 < magRat f (k + 1) - magRat f k := sub_pos.2 (magRat_strictMono f k.lt_succ_self)

theorem magRat_nonneg (f : Fmt) (k : Nat) : 0 ≤ magRat f k := by
  rw [← magRat_zero f]; exact (magRat_strictMono f).monotone (Nat.zero_le k)

/-- A code's magnitude or its negative. -/
def OnGrid (f : Fmt) (v : ℚ) : Prop := ∃ j, v = magRat f j ∨ v = -magRat f j

theorem OnGrid.neg {f : Fmt} {v : ℚ} : OnGrid f v → OnGrid f (-v) := fun ⟨j, h⟩ => ⟨j, h.symm.imp (fun h => by rw [h, neg_neg]) fun h => by rw [h]⟩

theorem OnGrid.abs {f : Fmt} {v : ℚ} (h : OnGrid f v) : OnGrid f |v| := by
  rcases abs_choice v with hv | hv
  · rwa [hv]
  · rw [hv]; exact h.neg

/-! ### Codes with their sign -/

section
variable {f : Fmt} (hf : Regular f)
include hf

theorem two_pow_m_even : 2 ^ f.m % 2 = 0 := by
  rw [Nat.pow_mod, Nat.mod_self, Nat.zero_pow hf.m_pos]

/-- +∞ of a format that has it, or the NaN above the finite codes of E4M3, as a count at the highest place. -/
theorem fmtTop_place : ∃ q j, fmtTop f = q * 2 ^ f.m + (j + 2) ∧ 2 ^ f.m ≤ j ∧ j + 2 ≤ 2 * 2 ^ f.m := by
  have hm : 2 ≤ 2 ^ f.m := Nat.pow_le_pow_right two_pos hf.m_pos
  have he : 4 ≤ 2 ^ f.e := Nat.pow_le_pow_right two_pos hf.e_two
  cases h : f.e4m3 with
  | true =>
    obtain ⟨-, hm3⟩ := hf.narrow h
    exact ⟨14, 13, by simp [fmtTop, h, hm3], by simp [hm3], by simp [hm3]⟩
  | false =>
    obtain ⟨n, hn⟩ := Nat.exists_eq_add_of_le he
    obtain ⟨p, hp⟩ := Nat.exists_eq_add_of_le hm
    refine ⟨n + 1, 2 ^ f.m + p, ?_, by omega, by omega⟩
    rw [fmtTop, h, if_neg (by decide), hn, show 4 + n - 1 = n + 1 + 2 by omega, hp]
    ring

theorem fmtTop_pos : 2 ≤ fmtTop f := by
  obtain ⟨q, j, h, -, -⟩ := fmtTop_place hf
  omega

theorem fmtMax_succ : fmtMax f + 1 = fmtTop f := Nat.sub_add_cancel (by linarith [fmtTop_pos hf])

/-- Half a unit in the last place of the largest finite value (R169). -/
theorem half_ulp_fmtMax : magRat f (fmtMax f) - magRat f (fmtMax f - 1) = magRat f (fmtTop f) - magRat f (fmtMax f) := by
  obtain ⟨q, j, h, hlo, hhi⟩ := fmtTop_place hf
  rw [fmtMax, h, show q * 2 ^ f.m + (j + 2) - 1 = q * 2 ^ f.m + (j + 1) by omega,
    show q * 2 ^ f.m + (j + 1) - 1 = q * 2 ^ f.m + j by omega,
    magRat_place f hhi (by omega), magRat_place f (by omega) (by omega), magRat_place f (by omega) (by omega)]
  push_cast; ring

/-- The largest finite code of a format with infinities is odd, so a tie above it goes to infinity. -/
theorem fmtMax_odd (h : f.e4m3 = false) : fmtMax f % 2 = 1 := by
  have htop : fmtTop f % 2 = 0 := by
    rw [fmtTop, h, if_neg (by decide), Nat.mul_mod, two_pow_m_even hf, Nat.mul_zero, Nat.zero_mod]
  have := fmtMax_succ hf
  omega

theorem fmtTop_lt_fmtSign : fmtTop f < fmtSign f := by
  cases h : f.e4m3 with
  | true =>
    obtain ⟨he, hm⟩ := hf.narrow h
    simp [fmtTop, fmtSign, h, he, hm]
  | false =>
    rw [fmtTop, fmtSign, h, if_neg (by decide), Nat.pow_add]
    exact Nat.mul_lt_mul_of_pos_right (Nat.sub_lt (Nat.two_pow_pos _) one_pos) (Nat.two_pow_pos _)

theorem fDecode_eq (c : Nat) : fDecode f c =
    if c % fmtSign f ≤ fmtMax f then
      (if c % fmtSign f / 2 ^ f.m = 0 then .fin (c.testBit (f.e + f.m)) (c % fmtSign f % 2 ^ f.m) (fmtLow f)
      else .fin (c.testBit (f.e + f.m)) (2 ^ f.m + c % fmtSign f % 2 ^ f.m) (fmtLow f + (c % fmtSign f / 2 ^ f.m : Nat) - 1))
    else if f.e4m3 = false ∧ c % 2 ^ f.m = 0 then .inf (c.testBit (f.e + f.m)) else .nan := by
  have hsign : fmtSign f = 2 ^ f.m * 2 ^ f.e := by rw [fmtSign, Nat.add_comm, Nat.pow_add]
  have hex : c % fmtSign f / 2 ^ f.m = c / 2 ^ f.m % 2 ^ f.e := by rw [hsign, Nat.mod_mul_right_div_self]
  have hmn : c % fmtSign f % 2 ^ f.m = c % 2 ^ f.m := by rw [hsign, Nat.mod_mul_right_mod]
  have hlow : 1 - (f.bias : Int) - f.m = fmtLow f := rfl
  have hplace : ((c / 2 ^ f.m % 2 ^ f.e : Nat) : Int) - f.bias - f.m = fmtLow f + (c / 2 ^ f.m % 2 ^ f.e : Nat) - 1 := by
    unfold fmtLow; ring
  have hle : c % fmtSign f ≤ fmtMax f ↔ c % fmtSign f < fmtTop f := by have := fmtMax_succ hf; omega
  simp only [fDecode, hle, hex, hmn, hlow, hplace]
  cases h : f.e4m3 with
  | true =>
    obtain ⟨he, hm⟩ := hf.narrow h
    have hs : fmtSign f = 128 := by simp [fmtSign, he, hm]
    have ht : fmtTop f = 127 := by simp [fmtTop, h]
    rw [hs, ht]
    by_cases hc : c % 128 = 127
    · simp [hc]
    · rw [if_pos (show c % 128 < 127 by omega)]
      simp [hc]
  | false =>
    have ht : fmtTop f = (2 ^ f.e - 1) * 2 ^ f.m := by simp [fmtTop, h]
    have hlt : c / 2 ^ f.m % 2 ^ f.e < 2 ^ f.e := Nat.mod_lt _ (Nat.two_pow_pos _)
    have hiff : c % fmtSign f < fmtTop f ↔ c / 2 ^ f.m % 2 ^ f.e ≠ 2 ^ f.e - 1 := by
      rw [ht, ← Nat.div_lt_iff_lt_mul (Nat.two_pow_pos _), hex]
      omega
    simp only [hiff]
    by_cases hc : c / 2 ^ f.m % 2 ^ f.e = 2 ^ f.e - 1 <;> simp [hc]

theorem isFin_iff (c : Nat) : isFin f c = true ↔ c % fmtSign f ≤ fmtMax f := by
  rw [isFin, fDecode_eq hf]
  split_ifs <;> simp [isNaNv, isInfv, *]

theorem codeRat_eq {c : Nat} (h : c % fmtSign f ≤ fmtMax f) :
    codeRat f c = (if c.testBit (f.e + f.m) then -1 else 1) * magRat f (c % fmtSign f) := by
  rw [codeRat, fDecode_eq hf, if_pos h, magRat]
  split_ifs <;> simp only [ratOf, if_true, if_false, mul_assoc, Bool.false_eq_true, *]

/-- A finite code's number is a magnitude of the format or its negative. -/
theorem onGrid_codeRat {d : Nat} (h : isFin f d = true) : OnGrid f (codeRat f d) := by
  have hd := (isFin_iff hf d).1 h
  refine ⟨d % fmtSign f, ?_⟩
  rw [codeRat_eq hf hd]
  split_ifs
  · exact .inr (by ring)
  · exact .inl (by ring)

end

theorem fmtNeg_mod (f : Fmt) (t : Bool) {k : Nat} (h : k < fmtSign f) : fmtNeg f t k % fmtSign f = k := by
  cases t with
  | true => exact (Nat.add_mod_left _ _).trans (Nat.mod_eq_of_lt h)
  | false => exact Nat.mod_eq_of_lt h

theorem fmtNeg_testBit (f : Fmt) (t : Bool) {k : Nat} (h : k < fmtSign f) : (fmtNeg f t k).testBit (f.e + f.m) = t := by
  cases t with
  | true => exact (Nat.testBit_two_pow_add_eq _ _).trans (by rw [Nat.testBit_lt_two_pow h]; rfl)
  | false => exact Nat.testBit_lt_two_pow h

theorem fmtNeg_lt (f : Fmt) (t : Bool) {k : Nat} (h : k < fmtSign f) : fmtNeg f t k < 2 ^ fmtBits f := by
  have hb : 2 ^ fmtBits f = fmtSign f + fmtSign f := by
    rw [fmtBits, fmtSign, Nat.add_assoc, Nat.add_comm, Nat.pow_succ, Nat.mul_two]
  cases t with
  | true => rw [hb]; exact Nat.add_lt_add_left h _
  | false => rw [hb]; exact Nat.lt_add_left _ h

theorem fmtNeg_parity {f : Fmt} (hf : Regular f) (t : Bool) (k : Nat) : fmtNeg f t k % 2 = k % 2 := by
  have hs : fmtSign f % 2 = 0 := by
    rw [fmtSign, Nat.pow_mod, Nat.mod_self, Nat.zero_pow (Nat.add_pos_right _ hf.m_pos)]
  cases t with
  | true => exact (Nat.add_mod ..).trans (by rw [hs, Nat.zero_add, Nat.mod_mod])
  | false => rfl

/-- The number of a code whose sign and magnitude are given. -/
theorem codeRat_fmtNeg {f : Fmt} (hf : Regular f) (t : Bool) {k : Nat} (h : k ≤ fmtMax f) :
    codeRat f (fmtNeg f t k) = (if t then -1 else 1) * magRat f k := by
  have hk : k < fmtSign f := by have := fmtMax_succ hf; have := fmtTop_lt_fmtSign hf; omega
  have hm := fmtNeg_mod f t hk
  rw [codeRat_eq hf (by rw [hm]; exact h), hm, fmtNeg_testBit f t hk]

/-! ### The two codes around a magnitude, and the one that a mode takes (R168) -/

/-- Whether a mode takes the upper of two neighbours, `δ` of the way from the lower, which is odd if `odd`. -/
def takesUpper (mode : Rnd) (neg odd : Bool) (δ : ℚ) : Bool :=
  match mode with
  | .rz => false
  | .rp => !neg && decide (δ ≠ 0)
  | .rm => neg && decide (δ ≠ 0)
  | _ => decide (1 / 2 < δ) || (decide (δ = 1 / 2) && odd)

theorem takesUpper_zero (mode : Rnd) (neg odd : Bool) : takesUpper mode neg odd 0 = false := by
  cases mode <;> norm_num [takesUpper]

theorem roundUp_eq {mode : Rnd} (hm : mode ≠ .rs) (neg odd : Bool) (rem s h : Nat) (hs : s = 0 → rem = 0) :
    roundUp mode neg odd rem s false h = takesUpper mode neg odd (rem / 2 ^ s) := by
  have hz : decide ((rem / 2 ^ s : ℚ) ≠ 0) = (rem != 0) := by rw [Bool.eq_iff_iff, decide_eq_true_iff, bne_iff_ne]; simp
  have hgt : (1 / 2 < (rem / 2 ^ s : ℚ)) ↔ 2 ^ s < 2 * rem := by
    rw [div_lt_div_iff₀ two_pos (by positivity), one_mul, mul_comm]
    exact_mod_cast Iff.rfl
  have heq : ((rem / 2 ^ s : ℚ) = 1 / 2) ↔ 2 * rem = 2 ^ s := by
    rw [div_eq_div_iff (by positivity) two_ne_zero, one_mul, mul_comm]
    exact_mod_cast Iff.rfl
  have hs' : 2 * rem = 2 ^ s → s ≠ 0 := by rintro h rfl; simp [hs rfl] at h
  cases mode with
  | rs => exact absurd rfl hm
  | rz => rfl
  | rp | rm => simp only [roundUp, takesUpper, hz, Bool.or_false]
  | rne | rsv5 | rsv6 | rsv7 =>
    simp only [roundUp, takesUpper, hgt, heq, Bool.false_or]
    by_cases h : 2 * rem = 2 ^ s
    · simp [h, hs' h]
    · simp [h]

/-- The count of a magnitude at a place is the whole count below it, or one more where the mode takes the upper neighbour. -/
theorem roundMag_eq (neg : Bool) (num : Nat) (exp place : Int) (h : Nat) : ∃ (t : Nat) (δ : ℚ), 0 ≤ δ ∧ δ < 1 ∧
    (num : ℚ) * 2 ^ exp = (t + δ) * 2 ^ place ∧ ∀ mode ≠ Rnd.rs,
      roundMag mode neg num exp false place h = if takesUpper mode neg (t % 2 = 1) δ then t + 1 else t := by
  rcases le_or_gt place exp with hp | hp
  · obtain ⟨d, rfl⟩ := Int.le.dest hp
    refine ⟨num * 2 ^ d, 0, le_rfl, one_pos, ?_, fun mode hm => ?_⟩
    · rw [zpow_add₀ two_ne_zero]; push_cast; rw [zpow_natCast]; ring
    · simp [roundMag, hp, roundUp_eq hm, takesUpper_zero]
  · obtain ⟨d, hd⟩ := Int.le.dest hp.le
    have hd0 : d ≠ 0 := by rintro rfl; omega
    have hrem : num % 2 ^ d < 2 ^ d := Nat.mod_lt _ (Nat.two_pow_pos _)
    refine ⟨num / 2 ^ d, (num % 2 ^ d : Nat) / 2 ^ d, by positivity, ?_, ?_, fun mode hm => ?_⟩
    · rw [div_lt_one (by positivity)]; exact_mod_cast hrem
    · have hnum : (num : ℚ) = 2 ^ d * (num / 2 ^ d : Nat) + (num % 2 ^ d : Nat) := by exact_mod_cast (Nat.div_add_mod num (2 ^ d)).symm
      rw [← hd, zpow_add₀ two_ne_zero, zpow_natCast]
      nth_rw 1 [hnum]
      field_simp
    · simp only [roundMag, ge_iff_le, if_neg (not_le.2 hp), show (place - exp).toNat = d by omega, roundUp_eq hm _ _ _ d h fun h0 => absurd h0 hd0]

/-- The place of a magnitude's last bit in a format: the subnormal spacing or higher (R168). -/
def fmtPlace (f : Fmt) (num : Nat) (exp : Int) : Int := max (fmtLow f) ((Nat.log2 num : Int) + exp - f.m)

/-- The code, without a sign, that a magnitude rounds to before R169 and R170. -/
def roundCode (f : Fmt) (mode : Rnd) (neg : Bool) (num : Nat) (exp : Int) : Nat :=
  (fmtPlace f num exp - fmtLow f).toNat * 2 ^ f.m + roundMag mode neg num exp false (fmtPlace f num exp) 0

/-- A magnitude counts less than a full place, and half of it above the lowest place. -/
theorem count_bounds (f : Fmt) {num : Nat} (hn : num ≠ 0) (exp : Int) {t : Nat} {δ : ℚ} (h0 : 0 ≤ δ) (h1 : δ < 1)
    (h : (num : ℚ) * 2 ^ exp = (t + δ) * 2 ^ fmtPlace f num exp) :
    t < 2 * 2 ^ f.m ∧ (fmtPlace f num exp = fmtLow f ∨ 2 ^ f.m ≤ t) := by
  have hlog : (2 : ℚ) ^ num.log2 ≤ num ∧ (num : ℚ) < 2 ^ (num.log2 + 1) :=
    ⟨by exact_mod_cast Nat.log2_self_le hn, by exact_mod_cast Nat.lt_log2_self⟩
  have hpos : (0 : ℚ) < 2 ^ fmtPlace f num exp := zpow_pos two_pos _
  have hexp : (0 : ℚ) < 2 ^ exp := zpow_pos two_pos _
  constructor
  · have hle : (2 : ℚ) ^ (num.log2 + 1) * 2 ^ exp ≤ (2 * 2 ^ f.m) * 2 ^ fmtPlace f num exp := by
      rw [← pow_succ', ← zpow_natCast, ← zpow_natCast, ← zpow_add₀ two_ne_zero, ← zpow_add₀ two_ne_zero]
      refine zpow_le_zpow_right₀ one_le_two ?_
      have := le_max_right (fmtLow f) ((Nat.log2 num : Int) + exp - f.m)
      unfold fmtPlace; push_cast; omega
    have hlt : ((t : ℚ) + δ) * 2 ^ fmtPlace f num exp < (2 * 2 ^ f.m) * 2 ^ fmtPlace f num exp :=
      h ▸ (mul_lt_mul_of_pos_right hlog.2 hexp).trans_le hle
    have hlt' := lt_of_mul_lt_mul_right hlt hpos.le
    have : (t : ℚ) < 2 * 2 ^ f.m := by linarith
    exact_mod_cast this
  · rcases max_choice (fmtLow f) ((Nat.log2 num : Int) + exp - f.m) with hp | hp
    · exact .inl hp
    · refine .inr ?_
      have hle : (2 : ℚ) ^ f.m * 2 ^ fmtPlace f num exp ≤ 2 ^ num.log2 * 2 ^ exp := by
        rw [fmtPlace, hp, ← zpow_natCast, ← zpow_natCast, ← zpow_add₀ two_ne_zero, ← zpow_add₀ two_ne_zero]
        exact le_of_eq (by congr 1; ring)
      have hle' := le_of_mul_le_mul_right (h ▸ hle.trans (mul_le_mul_of_nonneg_right hlog.1 hexp.le)) hpos
      have : (2 : ℚ) ^ f.m < (t + 1 : Nat) := by push_cast; linarith
      exact Nat.lt_succ_iff.1 (by exact_mod_cast this)

/-- A magnitude lies `δ` of the way from the code `k` to the next. -/
structure Between (f : Fmt) (a : ℚ) (k : Nat) (δ : ℚ) : Prop where
  nonneg : 0 ≤ δ
  lt_one : δ < 1
  value : a = magRat f k + δ * (magRat f (k + 1) - magRat f k)

/-- Each mode takes one of the two codes around a magnitude. -/
theorem roundCode_eq {f : Fmt} (hf : Regular f) (neg : Bool) {num : Nat} (hn : num ≠ 0) (exp : Int) : ∃ (k : Nat) (δ : ℚ),
    Between f (num * 2 ^ exp) k δ ∧ ∀ mode ≠ Rnd.rs,
      roundCode f mode neg num exp = if takesUpper mode neg (k % 2 = 1) δ then k + 1 else k := by
  obtain ⟨t, δ, h0, h1, hval, hcode⟩ := roundMag_eq neg num exp (fmtPlace f num exp) 0
  obtain ⟨hlt, hplace⟩ := count_bounds f hn exp h0 h1 hval
  obtain ⟨q, hq⟩ := Int.le.dest (le_max_left (fmtLow f) ((Nat.log2 num : Int) + exp - f.m))
  change fmtLow f + q = fmtPlace f num exp at hq
  have hq0 : q = 0 ∨ 2 ^ f.m ≤ t := hplace.imp_left fun h => by omega
  have hpar : (q * 2 ^ f.m + t) % 2 = t % 2 := by rw [Nat.add_mod, Nat.mul_mod, two_pow_m_even hf]; simp
  refine ⟨q * 2 ^ f.m + t, δ, ⟨h0, h1, ?_⟩, fun mode hm => ?_⟩
  · rw [magRat_place f hlt.le hq0, Nat.add_assoc, magRat_place f hlt (by omega), hq, hval]
    push_cast; ring
  · rw [roundCode, hcode mode hm, hpar, ← hq, show (fmtLow f + (q : Int) - fmtLow f).toNat = q by omega]
    split_ifs <;> omega

/-! ### Beyond the largest finite value (R169, R170) -/

/-- The code that a magnitude beyond the largest finite value gets. -/
def overCode (f : Fmt) (mode : Rnd) (neg : Bool) : Nat :=
  if f.e4m3 then fmtMax f
  else match mode with
    | .rz => fmtMax f
    | .rp => if neg then fmtMax f else fmtTop f
    | .rm => if neg then fmtTop f else fmtMax f
    | _ => fmtTop f

/-- The code that a magnitude gets by R168, with what R169 and R170 put above the largest finite code. -/
def clipCode (f : Fmt) (mode : Rnd) (neg : Bool) (c : Nat) : Nat := if fmtMax f < c then overCode f mode neg else c

theorem fEnc_fin (f : Fmt) {mode : Rnd} (hm : mode ≠ .rs) (neg : Bool) {num : Nat} (hn : num ≠ 0) (exp : Int) :
    fEnc f mode (.fin neg num exp) = fmtNeg f neg (clipCode f mode neg (roundCode f mode neg num exp)) := by
  rw [fEnc, fRound, if_neg hn]
  unfold roundFin clipCode overCode roundCode fmtPlace fmtLow
  simp only [decide_eq_false hm, Bool.false_and, Bool.false_eq_true, if_false, Bool.not_false, Bool.and_true]
  generalize _ + roundMag mode neg num exp false _ 0 = c
  by_cases hc : fmtMax f < c
  · cases f.e4m3 with
    | true => simp [hc]
    | false =>
      cases mode with
      | rp | rm => cases neg <;> simp [hc]
      | _ => simp [hc]
  · simp [hc]

/-! ### What each mode picks (R168) -/

/-- A code is the highest whose magnitude is at most `a`. -/
def IsBelow (f : Fmt) (a : ℚ) (c : Nat) : Prop := ∀ j, magRat f j ≤ a ↔ j ≤ c

/-- A code is the lowest whose magnitude is at least `a`. -/
def IsAbove (f : Fmt) (a : ℚ) (c : Nat) : Prop := ∀ j, a ≤ magRat f j ↔ c ≤ j

/-- No code's magnitude is nearer to `a`, and where another one is as near, the code is even. -/
def IsNearest (f : Fmt) (a : ℚ) (c : Nat) : Prop :=
  ∀ j, |a - magRat f c| ≤ |a - magRat f j| ∧ (|a - magRat f c| = |a - magRat f j| → j = c ∨ c % 2 = 0)

namespace Between
variable {f : Fmt} {a δ : ℚ} {k : Nat} (h : Between f a k δ)
include h

theorem le : magRat f k ≤ a := by
  rw [h.value]; exact le_add_of_nonneg_right (mul_nonneg h.nonneg (magRat_gap_pos f k).le)

theorem lt : a < magRat f (k + 1) := by
  rw [h.value]; linarith [mul_lt_of_lt_one_left (magRat_gap_pos f k) h.lt_one]

theorem isBelow : IsBelow f a k := fun _ =>
  ⟨fun hj => Nat.lt_succ_iff.1 ((magRat_strictMono f).lt_iff_lt.1 (hj.trans_lt h.lt)),
    fun hj => ((magRat_strictMono f).monotone hj).trans h.le⟩

theorem isAbove : IsAbove f a (if δ ≠ 0 then k + 1 else k) := by
  intro j
  split_ifs with hδ
  · have hlt : magRat f k < a := by
      rw [h.value]; exact lt_add_of_pos_right _ (mul_pos (lt_of_le_of_ne h.nonneg (Ne.symm hδ)) (magRat_gap_pos f k))
    exact ⟨fun hj => (magRat_strictMono f).lt_iff_lt.1 (hlt.trans_le hj), fun hj => h.lt.le.trans ((magRat_strictMono f).monotone hj)⟩
  · have ha : a = magRat f k := by rw [h.value, not_not.1 hδ]; ring
    rw [ha, (magRat_strictMono f).le_iff_le]

theorem dist_sub_dist : (a - magRat f k) - (magRat f (k + 1) - a) = (2 * δ - 1) * (magRat f (k + 1) - magRat f k) := by
  rw [h.value]; ring

/-- The distances to the two neighbours compare as `δ` and a half do. -/
theorem half_lt_iff : 1 / 2 < δ ↔ magRat f (k + 1) - a < a - magRat f k := by
  rw [← sub_pos (b := magRat f (k + 1) - a), h.dist_sub_dist, mul_pos_iff_of_pos_right (magRat_gap_pos f k)]
  constructor <;> intro <;> linarith

theorem eq_half_iff : δ = 1 / 2 ↔ magRat f (k + 1) - a = a - magRat f k := by
  rw [eq_comm (a := magRat f (k + 1) - a), ← sub_eq_zero (b := magRat f (k + 1) - a), h.dist_sub_dist, mul_eq_zero_iff_right (magRat_gap_pos f k).ne']
  constructor <;> intro <;> linarith

theorem dist_lower {j : Nat} (hj : j ≤ k) : |a - magRat f j| = a - magRat f j :=
  abs_of_nonneg (sub_nonneg.2 (((magRat_strictMono f).monotone hj).trans h.le))

theorem dist_upper {j : Nat} (hj : k < j) : |a - magRat f j| = magRat f j - a := by
  rw [abs_sub_comm]
  exact abs_of_nonneg (sub_nonneg.2 (h.lt.le.trans ((magRat_strictMono f).monotone hj)))

theorem isNearest_upper (hu : 1 / 2 < δ ∨ (δ = 1 / 2 ∧ k % 2 = 1)) : IsNearest f a (k + 1) := by
  rw [h.half_lt_iff, h.eq_half_iff] at hu
  intro j
  rw [h.dist_upper k.lt_succ_self]
  rcases Nat.lt_or_ge k j with hj | hj
  · rw [h.dist_upper hj, sub_left_inj]
    exact ⟨sub_le_sub_right ((magRat_strictMono f).monotone hj) a, fun he => .inl ((magRat_strictMono f).injective he.symm)⟩
  · rw [h.dist_lower hj]
    have hmono : magRat f j ≤ magRat f k := (magRat_strictMono f).monotone hj
    rcases hu with hu | ⟨hu, hodd⟩
    · exact ⟨by linarith, fun he => by linarith⟩
    · exact ⟨by linarith, fun _ => .inr (by omega)⟩

theorem isNearest_lower (hu : ¬(1 / 2 < δ ∨ (δ = 1 / 2 ∧ k % 2 = 1))) : IsNearest f a k := by
  rw [h.half_lt_iff, h.eq_half_iff, not_or, not_lt, not_and] at hu
  obtain ⟨hle, htie⟩ := hu
  intro j
  rw [h.dist_lower le_rfl]
  rcases Nat.lt_or_ge k j with hj | hj
  · rw [h.dist_upper hj]
    have hmono : magRat f (k + 1) ≤ magRat f j := (magRat_strictMono f).monotone hj
    refine ⟨by linarith, fun he => .inr ?_⟩
    have := htie (by linarith)
    omega
  · rw [h.dist_lower hj, sub_right_inj]
    exact ⟨sub_le_sub_left ((magRat_strictMono f).monotone hj) a, fun he => .inl ((magRat_strictMono f).injective he.symm)⟩

end Between

/-- What a mode asks of the code of a magnitude with a sign, before R169 and R170. -/
def Picks (f : Fmt) (mode : Rnd) (neg : Bool) (a : ℚ) (c : Nat) : Prop :=
  match mode with
  | .rz => IsBelow f a c
  | .rp => if neg then IsBelow f a c else IsAbove f a c
  | .rm => if neg then IsAbove f a c else IsBelow f a c
  | _ => IsNearest f a c

theorem Between.picks {f : Fmt} {a δ : ℚ} {k : Nat} (h : Between f a k δ) (mode : Rnd) (neg : Bool) :
    Picks f mode neg a (if takesUpper mode neg (k % 2 = 1) δ then k + 1 else k) := by
  have habove : IsAbove f a (if decide (δ ≠ 0) then k + 1 else k) := by simpa only [decide_eq_true_eq] using h.isAbove
  cases mode with
  | rz => exact h.isBelow
  | rp =>
    cases neg with
    | true => exact h.isBelow
    | false => exact habove
  | rm =>
    cases neg with
    | true => exact habove
    | false => exact h.isBelow
  | _ =>
    change IsNearest f a _
    split_ifs with hu
    · exact h.isNearest_upper (by simpa [takesUpper] using hu)
    · exact h.isNearest_lower (by simpa [takesUpper] using hu)

theorem roundCode_picks {f : Fmt} (hf : Regular f) {mode : Rnd} (hm : mode ≠ .rs) (neg : Bool) {num : Nat} (hn : num ≠ 0) (exp : Int) :
    Picks f mode neg (num * 2 ^ exp) (roundCode f mode neg num exp) := by
  obtain ⟨k, δ, hb, hcode⟩ := roundCode_eq hf neg hn exp
  rw [hcode mode hm]
  exact hb.picks mode neg

/-! ### What is picked, up to the largest finite value and beyond -/

section
variable {f : Fmt} {a : ℚ} {c : Nat}

theorem IsAbove.lt_of_lt (h : IsAbove f a c) {j : Nat} (hj : magRat f j < a) : j < c :=
  not_le.1 fun hc => hj.not_ge ((h j).2 hc)

/-- Nearest does not go past a code that is on the way (with the next lemma, from either side). -/
theorem IsNearest.le_of_le (h : IsNearest f a c) {j : Nat} (hj : a ≤ magRat f j) : c ≤ j := by
  by_contra hc
  have hlt : magRat f j < magRat f c := magRat_strictMono f (not_le.1 hc)
  have hle := (h j).1
  rw [abs_sub_comm, abs_of_nonneg (by linarith), abs_sub_comm, abs_of_nonneg (by linarith)] at hle
  linarith

theorem IsNearest.ge_of_ge (h : IsNearest f a c) {j : Nat} (hj : magRat f j ≤ a) : j ≤ c := by
  by_contra hc
  have hlt : magRat f c < magRat f j := magRat_strictMono f (not_le.1 hc)
  have hle := (h j).1
  rw [abs_of_nonneg (by linarith), abs_of_nonneg (by linarith)] at hle
  linarith

theorem IsBelow.greatest (h : IsBelow f a c) {v : ℚ} (hv : OnGrid f v) : magRat f c ≤ a ∧ (v ≤ a → v ≤ magRat f c) := by
  refine ⟨(h c).2 le_rfl, fun hva => ?_⟩
  obtain ⟨j, rfl | rfl⟩ := hv
  · exact (magRat_strictMono f).monotone ((h j).1 hva)
  · linarith [magRat_nonneg f j, magRat_nonneg f c]

theorem IsBelow.neg_least (h : IsBelow f a c) {v : ℚ} (hv : OnGrid f v) : -1 * a ≤ -1 * magRat f c ∧ (-1 * a ≤ v → -1 * magRat f c ≤ v) := by
  obtain ⟨hle, hgreatest⟩ := h.greatest hv.neg
  exact ⟨by linarith, fun hva => by linarith [hgreatest (by linarith)]⟩

theorem IsAbove.least (h : IsAbove f a c) (ha : 0 < a) {v : ℚ} (hv : OnGrid f v) : a ≤ magRat f c ∧ (a ≤ v → magRat f c ≤ v) := by
  refine ⟨(h c).2 le_rfl, fun hva => ?_⟩
  obtain ⟨j, rfl | rfl⟩ := hv
  · exact (magRat_strictMono f).monotone ((h j).1 hva)
  · linarith [magRat_nonneg f j]

theorem IsAbove.neg_greatest (h : IsAbove f a c) (ha : 0 < a) {v : ℚ} (hv : OnGrid f v) :
    -1 * magRat f c ≤ -1 * a ∧ (v ≤ -1 * a → v ≤ -1 * magRat f c) := by
  obtain ⟨hle, hleast⟩ := h.least ha hv.neg
  exact ⟨by linarith, fun hva => by linarith [hleast (by linarith)]⟩

theorem IsNearest.nearest (h : IsNearest f a c) (ha : 0 < a) {v : ℚ} (hv : OnGrid f v) :
    |a - magRat f c| ≤ |a - v| ∧ (|a - magRat f c| = |a - v| → v = magRat f c ∨ c % 2 = 0) := by
  have hcode (j : Nat) : |a - magRat f c| ≤ |a - magRat f j| ∧ (|a - magRat f c| = |a - magRat f j| → magRat f j = magRat f c ∨ c % 2 = 0) :=
    ⟨(h j).1, fun he => ((h j).2 he).imp_left (congrArg _)⟩
  obtain ⟨j, rfl | rfl⟩ := hv
  · exact hcode j
  · rcases (magRat_nonneg f j).eq_or_lt with hj | hj
    · simpa only [← hj, neg_zero] using hj ▸ hcode j
    · have hzero := (h 0).1
      rw [magRat_zero, sub_zero, abs_of_pos ha] at hzero
      rw [abs_of_pos (a := a - -magRat f j) (by linarith)]
      exact ⟨by linarith, fun he => by linarith⟩

theorem IsNearest.neg_nearest (h : IsNearest f a c) (ha : 0 < a) {v : ℚ} (hv : OnGrid f v) :
    |-1 * a - -1 * magRat f c| ≤ |-1 * a - v| ∧ (|-1 * a - -1 * magRat f c| = |-1 * a - v| → v = -1 * magRat f c ∨ c % 2 = 0) := by
  obtain ⟨hle, htie⟩ := h.nearest ha hv.neg
  rw [show -1 * a - -1 * magRat f c = -(a - magRat f c) by ring, show -1 * a - v = -(a - -v) by ring, abs_neg, abs_neg]
  exact ⟨hle, fun he => (htie he).imp_left fun h => by linarith⟩

end

section
variable {f : Fmt} {mode : Rnd} {neg : Bool} {a : ℚ} {c : Nat}

theorem Picks.below_or_above_or_nearest (h : Picks f mode neg a c) : IsBelow f a c ∨ IsAbove f a c ∨ IsNearest f a c := by
  cases mode with
  | rz => exact .inl h
  | rp =>
    cases neg with
    | true => exact .inl h
    | false => exact .inr (.inl h)
  | rm =>
    cases neg with
    | true => exact .inr (.inl h)
    | false => exact .inl h
  | _ => exact .inr (.inr h)

/-- Up to the magnitude of a code, no mode picks a code above it. -/
theorem Picks.le_of_le (h : Picks f mode neg a c) {j : Nat} (ha : a ≤ magRat f j) : c ≤ j := by
  rcases h.below_or_above_or_nearest with h | h | h
  · exact (magRat_strictMono f).le_iff_le.1 (((h c).2 le_rfl).trans ha)
  · exact (h j).1 ha
  · exact h.le_of_le ha

/-- Beyond the magnitude of a code, no mode picks a code below it. -/
theorem Picks.ge_of_lt (h : Picks f mode neg a c) {j : Nat} (ha : magRat f j < a) : j ≤ c := by
  rcases h.below_or_above_or_nearest with h | h | h
  · exact (h j).1 ha.le
  · exact (h.lt_of_lt ha).le
  · exact h.ge_of_ge ha.le

/-- Beyond the largest finite value, nearest goes past its code from half a unit in the last place on (R169). -/
theorem IsNearest.fmtMax_lt_iff (hf : Regular f) (h4 : f.e4m3 = false) (h : IsNearest f a c) (ha : magRat f (fmtMax f) < a) :
    fmtMax f < c ↔ magRat f (fmtMax f) + (magRat f (fmtMax f) - magRat f (fmtMax f - 1)) / 2 ≤ a := by
  have hulp := half_ulp_fmtMax hf
  constructor
  · intro hc
    have hmono : magRat f (fmtTop f) ≤ magRat f c := (magRat_strictMono f).monotone (fmtMax_succ hf ▸ hc)
    have hle := (h (fmtMax f)).1
    rw [abs_of_pos (a := a - magRat f (fmtMax f)) (by linarith)] at hle
    linarith [neg_le_of_abs_le hle]
  · intro hhalf
    by_contra hc
    have hmono : magRat f c ≤ magRat f (fmtMax f) := (magRat_strictMono f).monotone (not_lt.1 hc)
    have hbig : magRat f (fmtMax f) < magRat f (fmtTop f) := magRat_strictMono f (fmtMax_succ hf ▸ Nat.lt_succ_self _)
    obtain ⟨hle, htie⟩ := h (fmtTop f)
    have hdist : |a - magRat f (fmtTop f)| ≤ a - magRat f (fmtMax f) := abs_le.2 ⟨by linarith, by linarith⟩
    rw [abs_of_nonneg (a := a - magRat f c) (by linarith)] at hle htie
    have hcm : c = fmtMax f := (magRat_strictMono f).injective (by linarith)
    have hodd := fmtMax_odd hf h4
    have hsucc := fmtMax_succ hf
    rcases htie (by linarith) with h | h <;> omega

theorem overCode_le (f : Fmt) (mode : Rnd) (neg : Bool) : overCode f mode neg ≤ fmtTop f := by
  have hle : fmtMax f ≤ fmtTop f := Nat.sub_le _ _
  unfold overCode
  split
  · exact hle
  · cases mode with
    | rz => exact hle
    | rp | rm => cases neg <;> simp [hle]
    | _ => exact le_rfl

theorem clipCode_lt (hf : Regular f) (mode : Rnd) (neg : Bool) (c : Nat) : clipCode f mode neg c < fmtSign f := by
  refine lt_of_le_of_lt ?_ (fmtTop_lt_fmtSign hf)
  unfold clipCode
  split_ifs with hc
  · exact overCode_le f mode neg
  · exact (not_lt.1 hc).trans (Nat.sub_le _ _)

/-- R169 and R170 on the magnitude itself: to nearest, infinity begins half a unit in the last place past the largest finite value. -/
def beyondCode (f : Fmt) (mode : Rnd) (neg : Bool) (a : ℚ) : Nat :=
  if f.e4m3 then fmtMax f
  else match mode with
    | .rz => fmtMax f
    | .rp => if neg then fmtMax f else fmtTop f
    | .rm => if neg then fmtTop f else fmtMax f
    | _ => if magRat f (fmtMax f) + (magRat f (fmtMax f) - magRat f (fmtMax f - 1)) / 2 ≤ a then fmtTop f else fmtMax f

theorem Picks.clipCode_eq_beyondCode (hf : Regular f) (h : Picks f mode neg a c) (ha : magRat f (fmtMax f) < a) :
    clipCode f mode neg c = beyondCode f mode neg a := by
  have hclip : clipCode f mode neg c = if fmtMax f < c then overCode f mode neg else fmtMax f := by
    unfold clipCode
    split_ifs with hc
    · rfl
    · exact le_antisymm (not_lt.1 hc) (h.ge_of_lt ha)
  rw [hclip]
  unfold overCode beyondCode
  cases h4 : f.e4m3 with
  | true => simp
  | false =>
    cases mode with
    | rz => simp
    | rp =>
      cases neg with
      | true => simp
      | false => simp [IsAbove.lt_of_lt h ha]
    | rm =>
      cases neg with
      | true => simp [IsAbove.lt_of_lt h ha]
      | false => simp
    | _ => simp [IsNearest.fmtMax_lt_iff hf h4 h ha]

end

/-! ### Rounding as R168 to R170 have it -/

theorem codeRat_of_le {f : Fmt} (hf : Regular f) {k : Nat} (h : k ≤ fmtMax f) : codeRat f k = magRat f k :=
  (codeRat_fmtNeg hf false h).trans (one_mul _)

section
variable (neg : Bool) {a : ℚ}

theorem signed_lt_zero_iff (ha : 0 < a) : (if neg then -1 else 1) * a < 0 ↔ neg = true := by
  cases neg with
  | true => simp [ha]
  | false => simp [ha.le]

theorem abs_signed (ha : 0 ≤ a) : |(if neg then -1 else 1) * a| = a := by
  cases neg with
  | true => simp [abs_of_nonneg ha]
  | false => simp [abs_of_nonneg ha]

end

/-- What a mode picks, clipped and with its sign, is what the number rounds to. -/
theorem Picks.rounded {f : Fmt} (hf : Regular f) {mode : Rnd} {neg : Bool} {a : ℚ} {c : Nat} (h : Picks f mode neg a c) (ha : 0 < a) :
    Rounded f mode ((if neg then -1 else 1) * a) (fmtNeg f neg (clipCode f mode neg c)) := by
  have hlt := clipCode_lt hf mode neg c
  unfold Rounded
  simp only [codeRat_of_le hf le_rfl, codeRat_of_le hf (Nat.sub_le _ 1), abs_signed neg ha.le, signed_lt_zero_iff neg ha, Bool.decide_eq_true]
  refine ⟨fmtNeg_lt f neg hlt, ?_, ?_⟩
  · rw [show fmtBits f - 1 = f.e + f.m by unfold fmtBits; omega]
    exact fmtNeg_testBit f neg hlt
  by_cases hbig : magRat f (fmtMax f) < a
  · rw [if_pos hbig]
    exact congrArg (fmtNeg f neg) (h.clipCode_eq_beyondCode hf hbig)
  · have hc : c ≤ fmtMax f := h.le_of_le (not_lt.1 hbig)
    rw [clipCode, if_neg (not_lt.2 hc)] at hlt ⊢
    rw [if_neg hbig, isFin_iff hf, fmtNeg_mod f neg hlt, codeRat_fmtNeg hf neg hc, abs_signed neg (magRat_nonneg f c), fmtNeg_parity hf]
    refine ⟨hc, fun d _ hd => ?_⟩
    have hv := onGrid_codeRat hf hd
    cases mode with
    | rz => exact IsBelow.greatest h hv.abs
    | rp =>
      cases neg with
      | true => exact IsBelow.neg_least h hv
      | false => simpa using IsAbove.least h ha hv
    | rm =>
      cases neg with
      | true => exact IsAbove.neg_greatest h ha hv
      | false => simpa using IsBelow.greatest h hv
    | _ =>
      cases neg with
      | true => exact IsNearest.neg_nearest h ha hv
      | false => simpa using IsNearest.nearest h ha hv

/-- A nonzero value is encoded as the code that its number rounds to. -/
theorem fEnc_rounded {f : Fmt} (hf : Regular f) {mode : Rnd} (hm : mode ≠ .rs) (neg : Bool) {num : Nat} (hn : num ≠ 0) (exp : Int) :
    Rounded f mode (ratOf (.fin neg num exp)) (fEnc f mode (.fin neg num exp)) := by
  have hpos : (0 : ℚ) < num * 2 ^ exp := mul_pos (by exact_mod_cast Nat.pos_of_ne_zero hn) (zpow_pos two_pos _)
  rw [fEnc_fin f hm neg hn, ratOf, mul_assoc]
  exact (roundCode_picks hf hm neg hn exp).rounded hf hpos

theorem fEnc_zero (f : Fmt) (mode : Rnd) (neg : Bool) (exp : Int) : fEnc f mode (.fin neg 0 exp) = fmtNeg f neg 0 := rfl

theorem fEnc_nan (f : Fmt) (mode : Rnd) : fEnc f mode .nan = fmtNaN f := rfl

theorem fEnc_inf {f : Fmt} (h4 : f.e4m3 = false) (mode : Rnd) (neg : Bool) : fEnc f mode (.inf neg) = fmtNeg f neg (fmtTop f) := by
  simp [fEnc, fRound, h4]

/-! ### Exact sums and products (R184) -/

theorem ratOf_eq_zero_iff (s : Bool) (n : Nat) (e : Int) : ratOf (.fin s n e) = 0 ↔ n = 0 := by
  cases s <;> simp [ratOf, zpow_ne_zero]

/-- Numbers at a common place are whole multiples of it. -/
theorem fvInt_mul_place (s : Bool) (n : Nat) {e p : Int} (hp : p ≤ e) : (fvInt s n e p : ℚ) * 2 ^ p = ratOf (.fin s n e) := by
  obtain ⟨d, rfl⟩ := Int.le.dest hp
  rw [fvInt, ratOf, zpow_add₀ two_ne_zero, zpow_natCast, show (p + d - p).toNat = d by omega]
  cases s with
  | true => simp; ring
  | false => simp; ring

theorem ratOf_natAbs (v p : Int) : ratOf (.fin (decide (v < 0)) v.natAbs p) = v * 2 ^ p := by
  rw [ratOf]
  congr 1
  rcases lt_or_ge v 0 with hv | hv
  · rw [if_pos (decide_eq_true hv), Nat.cast_natAbs, abs_of_neg hv]; push_cast; ring
  · rw [if_neg (by simpa using hv), Nat.cast_natAbs, abs_of_nonneg hv, one_mul]

theorem ratOf_mul (s t : Bool) (n m : Nat) (e d : Int) :
    ratOf (.fin (xor s t) (n * m) (e + d)) = ratOf (.fin s n e) * ratOf (.fin t m d) := by
  have hsign : (if xor s t then (-1 : ℚ) else 1) = (if s then -1 else 1) * (if t then -1 else 1) := by
    cases s <;> cases t <;> norm_num
  simp only [ratOf, hsign, zpow_add₀ (two_ne_zero (α := ℚ)), Nat.cast_mul]
  ring

/-- The sum of two values, rounded once. -/
theorem sumIs_fvAdd {f : Fmt} (hf : Regular f) (h4 : f.e4m3 = false) {mode : Rnd} (hm : mode ≠ .rs) (x y : FVal) :
    SumIs f mode x y (fEnc f mode (fvAdd mode x y)) := by
  match x, y with
  | .nan, _ => exact fEnc_nan f mode
  | .inf _, .nan | .fin .., .nan => exact fEnc_nan f mode
  | .inf s, .inf t =>
    simp only [SumIs, fvAdd]
    split_ifs
    · exact fEnc_inf h4 mode s
    · exact fEnc_nan f mode
  | .inf s, .fin .. => exact fEnc_inf h4 mode s
  | .fin .., .inf t => exact fEnc_inf h4 mode t
  | .fin s n e, .fin t m d =>
    have hsum : ((fvInt s n e (min e d) + fvInt t m d (min e d) : Int) : ℚ) * 2 ^ min e d = ratOf (.fin s n e) + ratOf (.fin t m d) := by
      rw [Int.cast_add, add_mul, fvInt_mul_place s n (min_le_left e d), fvInt_mul_place t m (min_le_right e d)]
    have hzero : fvInt s n e (min e d) + fvInt t m d (min e d) = 0 ↔ ratOf (.fin s n e) + ratOf (.fin t m d) = 0 := by
      rw [← hsum, mul_eq_zero_iff_right (zpow_ne_zero _ two_ne_zero), Int.cast_eq_zero]
    simp only [SumIs, fvAdd, hzero]
    by_cases hz : ratOf (.fin s n e) + ratOf (.fin t m d) = 0
    · rw [if_pos hz, if_pos hz]
      exact fEnc_zero f mode _ 0
    · rw [if_neg hz, if_neg hz, ← hsum, ← ratOf_natAbs]
      exact fEnc_rounded hf hm _ (Int.natAbs_ne_zero.2 (mt hzero.1 hz)) _

theorem productIs_fvMul (x y : FVal) : ProductIs x y (fvMul x y) := by
  match x, y with
  | .nan, _ | .inf _, .nan | .fin .., .nan | .inf _, .inf _ => rfl
  | .inf s, .fin t n e => simp only [ProductIs, fvMul, ratOf_eq_zero_iff]
  | .fin s n e, .inf t => simp only [ProductIs, fvMul, ratOf_eq_zero_iff]
  | .fin s n e, .fin t m d => exact ⟨n * m, e + d, rfl, ratOf_mul s t n m e d⟩

/-! ### The obligation -/

/-- Settles O7: the words' lanes encode the exact sum, product or sum with an exact product, each rounded once. -/
theorem floatArithmetic : Obligations.FloatArithmetic := by
  intro w s s1 r m ps hm c v
  have hsum (x y : FVal) := sumIs_fvAdd (regular_of_mem fmtF32 (by decide)) rfl hm x y
  refine ⟨fun l => fEnc fmtF32 w.mod.rnd (fvAdd w.mod.rnd (v w.sa l) (v w.sb l)),
    fun l => fEnc fmtF32 w.mod.rnd (fvAdd w.mod.rnd (v w.sa l) (fvNeg (v w.sb l))),
    fun l => fEnc fmtF32 w.mod.rnd (fvMul (v w.sa l) (v w.sb l)),
    fun l => fEnc fmtF32 w.mod.rnd (fvAdd w.mod.rnd (fvMul (v w.sa l) (v w.sb l)) (v w.sc l)), ?fadd, ?fsub, ?fmul, ?ffma,
    fun l => ⟨hsum _ _, hsum _ _, fvMul (v w.sa l) (v w.sb l), productIs_fvMul _ _, hsum _ _, ?product⟩⟩
  case fadd => exact does_dstX _ rfl fun _ => rfl
  case fsub => exact does_dstX _ rfl fun _ => rfl
  case fmul => exact does_dstX _ rfl fun _ => rfl
  case ffma => exact does_dstX _ rfl fun _ => rfl
  case product =>
    dsimp only
    cases fvMul (v w.sa l) (v w.sb l) with
    | nan => exact fEnc_nan fmtF32 _
    | inf t => cases t <;> exact fEnc_inf rfl _ _
    | fin t n e =>
      simp only [ratOf_eq_zero_iff]
      by_cases hn : n = 0
      · rw [if_pos hn, hn, fEnc_zero]
        cases t <;> rfl
      · rw [if_neg hn]
        exact fEnc_rounded (regular_of_mem fmtF32 (by decide)) hm t hn e

end Sys2Proof.Machine
end
